-- ==== Sys2Proof/Word.lean ====
section
/-!
DEFINITION. The words of the machine and their plainest arithmetic: bit fields of numbers and the
two's-complement reading of a pattern (spec/00 R8, R9).
-/

namespace Sys2Proof

/-- A word is 8 bytes (R8). -/
abbrev Word := BitVec 64

/-- One byte. -/
abbrev Byte := BitVec 8

/-- A name index 0-63 as an instruction encodes it (R52). -/
abbrev NameIx := BitVec 6

/-- Bits `[lo + len - 1 : lo]` of a number. -/
def fieldN (x lo len : Nat) : Nat := x / 2 ^ lo % 2 ^ len

/-- `x` with its bits `[lo + len - 1 : lo]` replaced by the low `len` bits of `v`. -/
def setFieldN (x lo len v : Nat) : Nat :=
  x % 2 ^ lo + (v % 2 ^ len) * 2 ^ lo + x / 2 ^ (lo + len) * 2 ^ (lo + len)

/-- Bit `i` of a number. -/
def bitN (x i : Nat) : Bool := x / 2 ^ i % 2 == 1

/-- The two's-complement value of the low `w` bits of `p`. -/
def toSigned (w p : Nat) : Int :=
  let q := p % 2 ^ w
  if 2 * q < 2 ^ w then (q : Int) else (q : Int) - (2 : Int) ^ w

/-- The low `w` bits of the two's-complement form of `v`: the function zpat of the spec (R82). -/
def zpat (v : Int) (w : Nat) : Nat := (v % (2 : Int) ^ w).toNat

/-- A 64-bit word from a number. -/
def word (n : Nat) : Word := BitVec.ofNat 64 n

end Sys2Proof
end

