-- ==== Sys2Proof/Machine/Compress.lean ====
section
/-!
DEFINITION. The block compression of COMPRESSED pages (spec/10 R293-R297). State holds every block as its 256 bytes, and the
stored form of a block where that has been damaged (State.sectors);
otherwise R297 makes the stored form invisible. Obligations state that decoding gives back what was encoded. A
block is a number of 256 bytes, byte 0 lowest.
-/

namespace Sys2Proof.Machine

/-- Word `i` of a block. -/
def blockWord (b i : Nat) : Nat := fieldN b (64 * i) 64

/-- A list of `w`-bit values, the first lowest. -/
def packVals (w : Nat) : List Nat → Nat
  | [] => 0
  | v :: r => v % 2 ^ w + 2 ^ w * packVals w r

/-- The delta of word `i` from word 0 (R294). -/
def blockDelta (b i : Nat) : Int := toSigned 64 (zpat ((blockWord b i : Int) - blockWord b 0) 64)

/-- Every delta fits `w` bits (R295). -/
def deltasFit (b w : Nat) : Bool :=
  (List.range 32).all fun i =>
    decide (-(2 : Int) ^ (w - 1) ≤ blockDelta b i) && decide (blockDelta b i ≤ (2 : Int) ^ (w - 1) - 1)

/-- A block in a base-delta format of code `f` with deltas of `w` bits (R294). -/
def deltaBlock (f w b : Nat) : Nat :=
  f + blockWord b 0 * 2 ^ 8 + packVals w ((List.range 32).map fun i => zpat (blockDelta b i) w) * 2 ^ 72

/-- The metadata of a block and its sectors as stored (R295). DEDUCED, log 42. -/
def blockEncode (b : Nat) : Nat × Nat :=
  if b = 0 then (0, 0)
  else if (List.range 32).all fun i => blockWord b i == blockWord b 0 then (1, 1 + blockWord b 0 * 2 ^ 8)
  else if deltasFit b 8 then (2, deltaBlock 2 8 b)
  else if deltasFit b 16 then (3, deltaBlock 3 16 b)
  else if deltasFit b 32 then (5, deltaBlock 4 32 b)
  else (8, b)

/-- A block of words made from the base and the deltas of `w` bits (R296). -/
def undelta (w x : Nat) : Nat :=
  packVals 64 ((List.range 32).map fun i => zpat ((fieldN x 8 64 : Int) + toSigned w (fieldN x (72 + w * i) w)) 64)

/-- The block that metadata and sectors stand for; none is an uncorrectable data error (R296). DEDUCED, log 42. -/
def blockDecode (m x : Nat) : Option Nat :=
  if m = 0 then some 0
  else if m = 8 then some (x % 2 ^ 2048)
  else if 9 ≤ m then none
  else
    match fieldN x 0 8 with
    | 1 => some (packVals 64 ((List.range 32).map fun _ => fieldN x 8 64))
    | 2 => if 2 ≤ m then some (undelta 8 x) else none
    | 3 => if 3 ≤ m then some (undelta 16 x) else none
    | 4 => if 5 ≤ m then some (undelta 32 x) else none
    | _ => none

end Sys2Proof.Machine
end

