-- ==== Sys2Proof/Config.lean ====
section
/-!
DEFINITION. What one implementation fixes, and the values the spec leaves open. A constant without a
body is a free value: no proof can see what it is (see the assumption log).
-/

namespace Sys2Proof.Config

/-- Physical cores of a module: 16 dies of 128 clusters of 33 cores (R1, R280). -/
def physicalCores : Nat := 67584

/-- Clusters of a module, numbered 128d + c (R280). -/
def clusters : Nat := 2048

/-- The part number in VERSION (R40). -/
def part : Nat := 0x4B16

/-- The stepping VERSION reports, major and minor (R40 gives no values). Free value. DESIGN CHOICE, log 7. -/
opaque version : BitVec 16

/-- Whether the machine's next step takes the oldest pending event (true) or lets a strand issue, when
both are possible: the interleaving of agents, which the spec leaves open (R281, R310). Free value.
DESIGN CHOICE, log 1. -/
opaque agendaFirst : Nat → Bool

/-- Whether the machine's next step takes the oldest input that waits (true), when something else is possible as well: the
time at which an input comes, which no rule fixes. Free value. DESIGN CHOICE, log 44. -/
opaque inputNow : Nat → Bool

/-- How far the CYCLE register of a core runs ahead of the module's count (R40: all cores agree to within 16
cycles, so at most 15 of skew). Free value. -/
opaque cycleSkew : Nat → BitVec 4

/-- Which EMPTY future entry an allocation takes (R360 "not specified"). Free value. -/
opaque futureChoice : Nat → Nat

/-- Which byte two overlapping parts of one copy leave, and other free bits (R253). Free value.
DESIGN CHOICE, log 7. -/
opaque freeBit : Nat → Bool

/-- The number a free value is taken at: no two uses share one (it pairs the step's number with the use's).
DESIGN CHOICE, log 7. -/
def draw (tick use : Nat) : Nat := (tick + use) * (tick + use + 1) / 2 + use

/-- A 64-bit value the spec does not state, fresh for each number. Free value. DESIGN CHOICE, log 7. -/
opaque freeWord : Nat → BitVec 64

/-- SCALE of an e2m1 block whose exact scale number does not fit a byte (R262). Free value. DESIGN CHOICE, log 37. -/
opaque wideScale : Nat → BitVec 8

/-- How a FAST reduction pairs its operands: the place at which the tree splits a list (R273). Free value.
DESIGN CHOICE, log 39. -/
opaque fastSplit : Nat → Nat → Nat

/-- What another module answers to the read of one 8-byte word: (module, address, time). Free value.
DESIGN CHOICE, log 29. -/
opaque remoteWord : Nat → Nat → Nat → BitVec 64

/-- The physical identifier of this module on the Raelo links (R413). Free value. DESIGN CHOICE, log 7. -/
opaque moduleId : BitVec 12

/-- The SHA-256 hash, in the fuses, of the public key that firmware is signed under (R432), its bytes in order, byte 0
lowest. Free value. DEDUCED, log 30. -/
opaque fusedKey : BitVec 256

/-- The fused security counter a stage's version must reach (R432). Free value. DEDUCED, log 30. -/
opaque fusedVersion : Nat

/-- The private device identity key (FIPS 205; R7, R434): SK.seed, SK.prf and PK.seed, each 32 bytes, byte 0 lowest. Free
value. DEDUCED, log 24. -/
opaque identitySeed : BitVec 256
opaque identityPrf : BitVec 256
opaque identityPub : BitVec 256

/-- The randomness of a signature (FIPS 205 leaves its source open). Free value. DEDUCED, log 24. -/
opaque signRandom : Nat → BitVec 256

/-- The result code a checkpoint ends with, 0-2 (R436: it depends on the persistent tier, which lies
outside the module). Free value. -/
opaque ckptResult : Nat → BitVec 2

/-- The mean occupancy, 0-8, of the link queues between two clusters over a migration window (R303), in
256ths. Free value. DEDUCED, log 26. -/
opaque linkOccupancy : Nat → Nat → Nat → Nat

/-- Which of the free 64 KiB frames of a cluster's vault the page migrator takes (R303, R304). Free value.
DEDUCED, log 26. -/
opaque frameChoice : Nat → Nat → Nat

/-- The home cluster that the page migrator records of a pool page, by the page's number (R206 gives no rule).
Free value. DEDUCED, log 17. -/
opaque poolHome : Nat → Nat

/-- The messages in the payload of a flit, each as its class, destination word, value, sender word and ASID (R189, R192,
R431, which gives the payload no layout). Free value. PRESUMED, log 28. -/
opaque flitMessages : BitVec 1920 → List (BitVec 2 × BitVec 64 × BitVec 64 × BitVec 64 × BitVec 16)

/-- The payload of a flit that carries a packet of these words (R431 gives it no layout). Free value. PRESUMED, log 28. -/
opaque flitPayload : List (BitVec 64) → BitVec 1920

/-- The credits that a flit returns (R431 gives no rule). Free value. PRESUMED, log 28. -/
opaque creditReturn : Nat → BitVec 32

/-- The 64-byte beats in the payload of a flit that are writes to this module, each with the number of the physical line
it goes to (R134, R306, R431). Free value. PRESUMED, log 28. -/
opaque flitBeats : BitVec 1920 → List (BitVec 46 × BitVec 512)

end Sys2Proof.Config
end

