-- ==== Sys2Proof/Syntax.lean ====
section
/-!
DEFINITION. The syntax of the machine's operations: one constructor for each row of spec/opcode_table.json.
The first group are instruction words (spec/02 R51-R69); a word's operand fields stand in the order
of the table, `g` being its guard. The other groups are the operations and events that spec/95 lists:
engine commands (spec/06), copies, deliveries, launches and the hub's steps. An event names the units it
concerns by plain numbers: `k` is 16 times a physical core number plus a slot, `p` a physical core, `c` a
cluster, `t` a task, `j` a backfill job, `lid` a launch identifier.
-/

namespace Sys2Proof

/-- A guard: `gn` inverts, `gp` names predicate 0-7 of the guard file (R53). -/
structure Guard where
  gn : Bool
  gp : BitVec 3
deriving DecidableEq, Repr

/-- An immediate field of `n` bits; `ext` holds EXT25 when a LIMM widened it (R55, R56). -/
structure Imm (n : Nat) where
  ext  : Option (BitVec 25)
  bits : BitVec n
deriving DecidableEq, Repr

/-- Where a reset of the module comes from (R432). -/
inductive ResetOrigin where
  | powerOn
  | sideband
  | endpoint
deriving DecidableEq, Repr

/-- One boot stage as it stands in a flash device (R432): the public key it is signed under, its SLH-DSA signature of
29,792 bytes, byte 0 lowest, its security version, the measurement register that it extends, one of those of the boot ROM
(R433), and the bytes of the stage. -/
structure FlashStage where
  key     : BitVec 512
  sig     : BitVec 238336
  version : Nat
  reg     : BitVec 2
  body    : List (BitVec 8)
deriving DecidableEq, Repr

/-- What a flash device holds (R1, R420, R432): the stages of its image directory in order, the patch table image, and the
version of the firmware. -/
structure FlashImage where
  stages : List FlashStage
  patch  : List (BitVec 64)
  fw     : BitVec 32
deriving DecidableEq, Repr

/-- A flash device with nothing in it. -/
def FlashImage.blank : FlashImage := ⟨[], [], 0⟩

inductive Instr where
  /-- ADD: Adds two integer names exactly and fits the sum to the destination by the mode in FN (R87). -/
  | add (g : Guard) (d : NameIx) (a : NameIx) (b : NameIx) (f : BitVec 3)
  /-- SUB: Subtracts NB from NA exactly and fits the difference to the destination (R87). -/
  | sub (g : Guard) (d : NameIx) (a : NameIx) (b : NameIx) (f : BitVec 3)
  /-- MUL: Multiplies two integers exactly and fits the product (R87). -/
  | mul (g : Guard) (d : NameIx) (a : NameIx) (b : NameIx) (f : BitVec 3)
  /-- MULH: Writes the product divided by 2^width(ND), floored, fitted to the destination (R87). -/
  | mulh (g : Guard) (d : NameIx) (a : NameIx) (b : NameIx) (f : BitVec 3)
  /-- DIV: Divides truncating toward zero; a zero divisor traps DIVZERO (R87). -/
  | div (g : Guard) (d : NameIx) (a : NameIx) (b : NameIx) (f : BitVec 3)
  /-- REM: Writes the remainder with the sign of the dividend; a zero divisor traps DIVZERO (R87). -/
  | rem (g : Guard) (d : NameIx) (a : NameIx) (b : NameIx) (f : BitVec 3)
  /-- AND: Bitwise AND on infinite two's-complement forms, fitted to the destination (R87). -/
  | and (g : Guard) (d : NameIx) (a : NameIx) (b : NameIx) (f : BitVec 3)
  /-- OR: Bitwise OR on infinite two's-complement forms, fitted to the destination (R87). -/
  | or (g : Guard) (d : NameIx) (a : NameIx) (b : NameIx) (f : BitVec 3)
  /-- XOR: Bitwise XOR on infinite two's-complement forms, fitted to the destination (R87). -/
  | xor (g : Guard) (d : NameIx) (a : NameIx) (b : NameIx) (f : BitVec 3)
  /-- ANDN: Bitwise a AND NOT b, fitted to the destination (R87). -/
  | andn (g : Guard) (d : NameIx) (a : NameIx) (b : NameIx) (f : BitVec 3)
  /-- SHL: Shifts left by NB mod 64 exactly and fits the result (R87). -/
  | shl (g : Guard) (d : NameIx) (a : NameIx) (b : NameIx) (f : BitVec 3)
  /-- SHR: Logical right shift of NA's bit pattern by NB mod 64 (R87). -/
  | shr (g : Guard) (d : NameIx) (a : NameIx) (b : NameIx) (f : BitVec 3)
  /-- SHA: Arithmetic right shift by NB mod 64, flooring (R87). -/
  | sha (g : Guard) (d : NameIx) (a : NameIx) (b : NameIx) (f : BitVec 3)
  /-- ROT: Rotates the destination-width pattern left, writing bits directly with no flag or WIDTH (R87). -/
  | rot (g : Guard) (d : NameIx) (a : NameIx) (b : NameIx) (f : BitVec 3)
  /-- MIN: Writes the smaller of two integers, fitted (R87). -/
  | min (g : Guard) (d : NameIx) (a : NameIx) (b : NameIx) (f : BitVec 3)
  /-- MAX: Writes the larger of two integers, fitted (R87). -/
  | max (g : Guard) (d : NameIx) (a : NameIx) (b : NameIx) (f : BitVec 3)
  /-- ADDI: Adds a signed immediate and fits by the declared mode (R88). -/
  | addi (g : Guard) (d : NameIx) (a : NameIx) (i : Imm 9)
  /-- MULI: Multiplies by a signed immediate and fits by the declared mode (R88). -/
  | muli (g : Guard) (d : NameIx) (a : NameIx) (i : Imm 9)
  /-- ANDI: ANDs with an unsigned immediate (R88). -/
  | andi (g : Guard) (d : NameIx) (a : NameIx) (i : Imm 9)
  /-- ORI: ORs with an unsigned immediate (R88). -/
  | ori (g : Guard) (d : NameIx) (a : NameIx) (i : Imm 9)
  /-- XORI: XORs with an unsigned immediate (R88). -/
  | xori (g : Guard) (d : NameIx) (a : NameIx) (i : Imm 9)
  /-- SHLI: Shifts left by an immediate count of 0 to 63; a larger count traps ILLEGAL (R88). -/
  | shli (g : Guard) (d : NameIx) (a : NameIx) (i : Imm 9)
  /-- SHRI: Logical right shift by an immediate count of 0 to 63 (R88). -/
  | shri (g : Guard) (d : NameIx) (a : NameIx) (i : Imm 9)
  /-- SHAI: Arithmetic right shift by an immediate count of 0 to 63 (R88). -/
  | shai (g : Guard) (d : NameIx) (a : NameIx) (i : Imm 9)
  /-- ROTI: Rotates left by an immediate count of 0 to 63 (R88). -/
  | roti (g : Guard) (d : NameIx) (a : NameIx) (i : Imm 9)
  /-- MINI: Writes the smaller of NA and a signed immediate (R88). -/
  | mini (g : Guard) (d : NameIx) (a : NameIx) (i : Imm 9)
  /-- MAXI: Writes the larger of NA and a signed immediate (R88). -/
  | maxi (g : Guard) (d : NameIx) (a : NameIx) (i : Imm 9)
  /-- LI: Loads a signed 15-bit (or 40-bit widening worded) constant, fitted to the destination (R89). -/
  | li (g : Guard) (d : NameIx) (i : Imm 15)
  /-- LIH: Replaces the high 24 bits of a 64-bit pattern of ND, keeping the low 40, and fits it (R89). -/
  | lih (g : Guard) (d : NameIx) (i : Imm 15)
  /-- SEL: Selects NA or NB by the predicate named in FN and fits it to ND (R90). -/
  | sel (g : Guard) (d : NameIx) (a : NameIx) (b : NameIx) (f : BitVec 3)
  /-- ABSD: Writes the absolute difference of two integers, fitted once (R91). -/
  | absd (g : Guard) (d : NameIx) (a : NameIx) (b : NameIx) (f : BitVec 3)
  /-- MAC: Adds the exact product of NA and NB to ND and fits once (R91). -/
  | mac (g : Guard) (d : NameIx) (a : NameIx) (b : NameIx) (f : BitVec 3)
  /-- FADD: Floating-point add, exact then rounded once and fitted by mode (R96). -/
  | fadd (g : Guard) (d : NameIx) (a : NameIx) (b : NameIx) (f : BitVec 3)
  /-- FSUB: Floating-point subtract, exact then rounded once (R96). -/
  | fsub (g : Guard) (d : NameIx) (a : NameIx) (b : NameIx) (f : BitVec 3)
  /-- FMUL: Floating-point multiply, exact then rounded once (R96). -/
  | fmul (g : Guard) (d : NameIx) (a : NameIx) (b : NameIx) (f : BitVec 3)
  /-- FFMA: Fused multiply-add into ND, rounded once (R96). -/
  | ffma (g : Guard) (d : NameIx) (a : NameIx) (b : NameIx) (f : BitVec 3)
  /-- FMIN: Chooses the smaller value with NaN and signed-zero rules, then fits it to ND (R97). -/
  | fmin (g : Guard) (d : NameIx) (a : NameIx) (b : NameIx)
  /-- FMAX: Chooses the larger value with NaN and signed-zero rules, then fits it to ND (R97). -/
  | fmax (g : Guard) (d : NameIx) (a : NameIx) (b : NameIx)
  /-- FCVT: Converts between floating-point types or between integer and floating point in a chosen rounding direction
  (R98). -/
  | fcvt (g : Guard) (d : NameIx) (a : NameIx) (f : BitVec 3)
  /-- FUN: Computes rcp, rsqrt, exp2, log2, abs or neg, correctly rounded to ND's type (R99). -/
  | funOp (g : Guard) (d : NameIx) (a : NameIx) (f : BitVec 3)
  /-- FCMP: Compares two floating-point values and writes a p or per-lane q predicate (R102). -/
  | fcmp (g : Guard) (d : BitVec 3) (a : NameIx) (b : NameIx) (f : BitVec 3)
  /-- RSZ: Changes the width and optionally the mode of one name, committing fully or not at all and starting a repack of
  the affected rows (R103). -/
  | rsz (g : Guard) (d : NameIx) (m : BitVec 1) (w : BitVec 2) (i : BitVec 6)
  /-- WIDQ: Reads a name's width or map entry, or the uniform or lane headroom left, from the strand's map copy (R108). -/
  | widq (g : Guard) (d : NameIx) (w : BitVec 2) (i : BitVec 6)
  /-- EXT: Extracts a bit field of NA at a position into ND as its pattern (R109). -/
  | ext (g : Guard) (d : NameIx) (a : NameIx) (s : BitVec 6)
  /-- INS: Inserts NA's bits into ND at a position, setting f0 for lost 1 bits (R109). -/
  | ins (g : Guard) (d : NameIx) (a : NameIx) (s : BitVec 6)
  /-- BITC: Counts leading or trailing zeros, population, or reverses bits of NA (R110). -/
  | bitc (g : Guard) (d : NameIx) (a : NameIx) (f : BitVec 3)
  /-- CMP: Compares two integers by a condition and writes a predicate (R111). -/
  | cmp (g : Guard) (d : BitVec 3) (a : NameIx) (b : NameIx) (f : BitVec 3)
  /-- CMPI: Compares an integer with an immediate by a condition and writes a predicate (R111). -/
  | cmpi (g : Guard) (c : BitVec 3) (d : BitVec 3) (a : NameIx) (i : Imm 9)
  /-- MOV: Copies NA into ND, fitted by the FN mode, broadcasting uniform values in lane class (R112). -/
  | mov (g : Guard) (d : NameIx) (a : NameIx) (f : BitVec 3)
  /-- VFIRST: Moves the lowest enabled lane's value to a uniform name and sets the predicate in FN (R113). -/
  | vfirst (g : Guard) (d : NameIx) (a : NameIx) (f : BitVec 3)
  /-- VLANE: Moves the value of the lane named by NB to a uniform name and sets the predicate in FN (R113). -/
  | vlane (g : Guard) (d : NameIx) (a : NameIx) (b : NameIx) (f : BitVec 3)
  /-- VRED: Reduces the enabled lanes of NA into a uniform name by add, and, or, xor, min or max (R114). -/
  | vred (g : Guard) (d : NameIx) (a : NameIx) (f : BitVec 3)
  /-- VPRED_ANY: Writes a p predicate true when any enabled lane's q source is set (R115). -/
  | vpredAny (g : Guard) (d : BitVec 3) (a : BitVec 4)
  /-- VPRED_ALL: Writes a p predicate true when every enabled lane's q source is set (R115). -/
  | vpredAll (g : Guard) (d : BitVec 3) (a : BitVec 4)
  /-- VPRED_COUNT: Writes the count of enabled lanes with the q source set to a uniform name (R115). -/
  | vpredCount (g : Guard) (d : NameIx) (a : BitVec 4)
  /-- VIDX: Writes each enabled lane's own lane number into a lane name (R116). -/
  | vidx (g : Guard) (d : NameIx) (f : BitVec 3)
  /-- VSHUF: Permutes lane values: each enabled lane takes NA from the lane NB selects (R117). -/
  | vshuf (g : Guard) (d : NameIx) (a : NameIx) (b : NameIx) (f : BitVec 3)
  /-- VSCAN: Writes inclusive lane widening wordes of a reduction and the total to a uniform name (R118). -/
  | vscan (g : Guard) (d : NameIx) (a : NameIx) (b : NameIx) (f : BitVec 3)
  /-- BR: Branches PC-relative when its guard holds (R120). -/
  | br (g : Guard) (i : Imm 21)
  /-- CALL: Writes the return address to the link name and branches PC-relative (R120). -/
  | call (g : Guard) (i : Imm 21)
  /-- JR: Jumps to the address held in a uniform name (R120). -/
  | jr (g : Guard) (a : NameIx)
  /-- CALLR: Reads a target from a name, writes the link, and jumps (R120). -/
  | callr (g : Guard) (a : NameIx)
  /-- LOOP: Decrements a uniform counter and branches back while it is non-zero (R121). -/
  | loop (g : Guard) (d : NameIx) (i : Imm 9)
  /-- BRANY: Branches when some present lane has its q guard true (R122). -/
  | brany (g : Guard) (i : Imm 21)
  /-- BRALL: Branches when every present lane has its q guard true (R122). -/
  | brall (g : Guard) (i : Imm 21)
  /-- IPF: Prefetches the instruction line of its target into the middle cache and L1, with no observable effect (R123). -/
  | ipf (g : Guard) (i : Imm 21)
  /-- LDB: Loads one byte and fits it to ND (R164). -/
  | ldb (g : Guard) (d : NameIx) (a : NameIx) (i : Imm 9)
  /-- LDH: Loads two bytes and fits them to ND (R164). -/
  | ldh (g : Guard) (d : NameIx) (a : NameIx) (i : Imm 9)
  /-- LDW: Loads four bytes and fits them to ND (R164). -/
  | ldw (g : Guard) (d : NameIx) (a : NameIx) (i : Imm 9)
  /-- LDD: Loads eight bytes and fits them to ND (R164). -/
  | ldd (g : Guard) (d : NameIx) (a : NameIx) (i : Imm 9)
  /-- LDX: Indexed load at NA + NB times the size (R168). -/
  | ldx (g : Guard) (d : NameIx) (a : NameIx) (b : NameIx) (s : BitVec 2)
  /-- LDG: Gather load: each enabled lane loads from the uniform base plus its own index (R168). -/
  | ldg (g : Guard) (d : NameIx) (a : NameIx) (b : NameIx) (s : BitVec 2)
  /-- LDO: Ordered load with size, acquire order and scope from its order word (R169). -/
  | ldo (g : Guard) (d : NameIx) (a : NameIx) (s : BitVec 3) (o : BitVec 2) (z : BitVec 2)
  /-- LDT: Takes a full/empty word: reads and empties it if full, otherwise joins the word's deferred list (R170). -/
  | ldt (g : Guard) (d : NameIx) (a : NameIx) (i : Imm 9)
  /-- LDK: Loads a word of a key/value entry, waiting or reading a stand-in by the entry's state and region policy (R174). -/
  | ldk (g : Guard) (d : NameIx) (a : NameIx) (i : Imm 9)
  /-- PREF: Prefetches a data line and its translation, with no observable effect (R176). -/
  | pref (g : Guard) (a : NameIx) (i : Imm 9)
  /-- PLOG: Computes and, or or xor of two possibly negated predicates into a p or q predicate (R21). -/
  | plog (g : Guard) (d : BitVec 4) (a : BitVec 4) (b : BitVec 4) (f : BitVec 2)
  /-- PLOG_MOV: Copies a possibly negated predicate into a p or q predicate (R21). -/
  | plogMov (g : Guard) (d : BitVec 4) (a : BitVec 4)
  /-- PMOV_R: Reads the predicate word, zero-extended and fitted, into a name (R22). -/
  | pmovR (g : Guard) (d : NameIx)
  /-- PMOV_W: Writes the uniform predicates and/or the sticky flags from a name's value (R22). -/
  | pmovW (g : Guard) (a : NameIx) (f : BitVec 2)
  /-- PMOV_FC: Clears the sticky flags f0 to f6 selected by a mask (R22). -/
  | pmovFc (g : Guard) (f : BitVec 7)
  /-- STB: Stores one byte of ND, fitted to 8 bits by ND's mode (R165). -/
  | stb (g : Guard) (d : NameIx) (a : NameIx) (i : Imm 9)
  /-- STH: Stores two bytes of ND, fitted by ND's mode (R165). -/
  | sth (g : Guard) (d : NameIx) (a : NameIx) (i : Imm 9)
  /-- STW: Stores four bytes of ND, fitted by ND's mode (R165). -/
  | stw (g : Guard) (d : NameIx) (a : NameIx) (i : Imm 9)
  /-- STD: Stores eight bytes of ND (R165). -/
  | std (g : Guard) (d : NameIx) (a : NameIx) (i : Imm 9)
  /-- STX: Indexed store at NA + NB times the size (R168). -/
  | stx (g : Guard) (d : NameIx) (a : NameIx) (b : NameIx) (s : BitVec 2)
  /-- STS: Scatter store: each enabled lane stores at the uniform base plus its own index (R168). -/
  | sts (g : Guard) (d : NameIx) (a : NameIx) (b : NameIx) (s : BitVec 2)
  /-- STO: Ordered store with size, release order and scope from its order word (R169). -/
  | sto (g : Guard) (d : NameIx) (a : NameIx) (s : BitVec 3) (o : BitVec 2) (z : BitVec 2)
  /-- PUT: Writes a word, sets it full and releases, granting a waiting take atomically (R171). -/
  | put (g : Guard) (d : NameIx) (a : NameIx) (i : Imm 9)
  /-- RSV: Joins the word's reservation queue and acquires the word when granted (R178). -/
  | rsv (g : Guard) (d : NameIx) (a : NameIx) (i : Imm 9)
  /-- REL: Writes the reserved word, ends the reservation and forwards the word to the next requester (R179). -/
  | rel (g : Guard) (d : NameIx) (a : NameIx) (i : Imm 9)
  /-- FAA: Fetch-and-add on a word at its home as one acquire-release (R181). -/
  | faa (g : Guard) (d : NameIx) (a : NameIx) (b : NameIx)
  /-- SWP: Swaps a word with a new value as one acquire-release (R181). -/
  | swp (g : Guard) (d : NameIx) (a : NameIx) (b : NameIx)
  /-- CAS: Compare-and-swap on a word, returning the old value (R181). -/
  | cas (g : Guard) (d : NameIx) (a : NameIx) (b : NameIx)
  /-- FESET: Sets a word's full/empty state without changing data; setting full grants a waiting take and releases (R173). -/
  | feset (g : Guard) (s : BitVec 1) (a : NameIx) (i : Imm 9)
  /-- FETEST: Writes a predicate with a word's full/empty state (R173). -/
  | fetest (g : Guard) (d : BitVec 3) (a : NameIx) (i : Imm 9)
  /-- ENQ: Places a 256-bit command word into the MX or VX command queue, capturing TAU and KVDESC (R182). -/
  | enq (g : Guard) (a : NameIx) (e : BitVec 1)
  /-- POP: Removes the oldest result element of an engine's FIFO, trapping ENGINE on a non-zero status (R185). -/
  | pop (g : Guard) (d : NameIx) (e : BitVec 1)
  /-- EPEEK: Reads the oldest result element without removing it (R186). -/
  | epeek (g : Guard) (d : NameIx) (e : BitVec 1)
  /-- CXSET: Writes one CX shadow register (R187). -/
  | cxset (g : Guard) (a : NameIx) (r : BitVec 4)
  /-- CXGO: Captures the CX shadow registers, starts a copy and returns its transfer id (R187). -/
  | cxgo (g : Guard) (d : NameIx)
  /-- SEND: Sends a 64-bit value to an inbox slot or a mailbox class of a destination core, with release (R189). -/
  | send (g : Guard) (a : NameIx) (b : NameIx) (c : BitVec 2)
  /-- MRECV: Takes the oldest mailbox message of a class, with acquire (R193). -/
  | mrecv (g : Guard) (d : NameIx) (a : NameIx) (c : BitVec 2)
  /-- QCTL: Exchanges the setting of a network queue or stream descriptor (R194). -/
  | qctl (g : Guard) (d : NameIx) (a : NameIx) (s : BitVec 4)
  /-- FNEW: Allocates a future entry with an initial pending count (R197). -/
  | fnew (g : Guard) (d : NameIx) (a : NameIx)
  /-- FSET: Resolves a pending future with a value at shade 15, waking waiters (R198). -/
  | fset (g : Guard) (a : NameIx) (b : NameIx)
  /-- FGET: Waits until a future is settled or has reached a minimum shade, then reads its value (R199). -/
  | fget (g : Guard) (d : NameIx) (a : NameIx) (s : BitVec 4)
  /-- FEXP: Raises a pending future's count (R200). -/
  | fexp (g : Guard) (a : NameIx) (b : NameIx)
  /-- FDEC: Lowers a pending future's count, resolving it at zero (R200). -/
  | fdec (g : Guard) (a : NameIx)
  /-- POST: Checks a continuation record, allocates its task future and queues a copy to a home cluster or to its input
  future's waiters (R204). -/
  | post (g : Guard) (d : NameIx) (a : NameIx) (r : BitVec 1)
  /-- ROAM: Moves the issuing strand as a packet to the core that owns an address (R206). -/
  | roam (g : Guard) (a : NameIx)
  /-- PUBSH: Publishes a shade of a future under the task, stand-in and STOP caps (R207). -/
  | pubsh (g : Guard) (a : NameIx) (b : NameIx)
  /-- STOPREF: Sets STOP on a pending future and notifies its producer by a NOTE message (R208). -/
  | stopref (g : Guard) (a : NameIx)
  /-- SETTLE: Waits until a settle-group future is resolved or cancelled (R209). -/
  | settle (g : Guard) (a : NameIx)
  /-- FCANCEL: Cancels a pending future with an error code, spreading along its waiters (R201). -/
  | fcancel (g : Guard) (a : NameIx) (b : NameIx)
  /-- MON: Arms a monitor on a 64-byte line, parking until the arming is recorded at the home (R133). -/
  | mon (g : Guard) (a : NameIx) (m : BitVec 2)
  /-- MONX: Arms a monitor and loads the word at the address with acquire in the same access (R133). -/
  | monx (g : Guard) (d : NameIx) (a : NameIx) (m : BitVec 2)
  /-- WAITA: Parks until a monitor triggers, a timeout, a bound message or a spurious wake, then writes the cause and
  disarms (R136). -/
  | waita (g : Guard) (d : NameIx) (a : NameIx)
  /-- BARA: Arrives at the barrier of BRECTk and continues (R138). -/
  | bara (g : Guard) (k : BitVec 2)
  /-- BARW: Arrives at the barrier of BRECTk if not arrived and parks until the episode is released (R138). -/
  | barw (g : Guard) (k : BitVec 2)
  /-- FENCE: Orders accesses of the predecessor classes before those of the successor classes within a scope (R142). -/
  | fence (g : Guard) (d : BitVec 4) (a : BitVec 4) (s : BitVec 3)
  /-- START: Starts a helper strand in the lowest free slot of 1 to 12 with a checked map (R125). -/
  | start (g : Guard) (d : NameIx) (a : NameIx) (b : NameIx)
  /-- JOIN: Waits for a helper in a named slot to exit, acquiring its accesses (R127). -/
  | join (g : Guard) (a : NameIx)
  /-- EXIT: Releases, unbinds, disarms, returns regions and frees the slot; in slot 0 first waits for helpers (R128). -/
  | exit (g : Guard)
  /-- YIELD: Gives up issue until other ready strands have issued or 16 cycles pass (R130). -/
  | yield (g : Guard)
  /-- WAITMSG: Parks until a message of a class bound to the slot is present (R132). -/
  | waitmsg (g : Guard)
  /-- TRAP: Raises cause 14 with an unsigned code in EVAL (R144). -/
  | trap (g : Guard) (i : Imm 15)
  /-- CTLR: Reads a control register into a name (R146). -/
  | ctlr (g : Guard) (d : NameIx) (r : BitVec 7)
  /-- CTLW: Writes a control register from a name, with the field rules of STATUS and BRECT (R146). -/
  | ctlw (g : Guard) (a : NameIx) (r : BitVec 7)
  /-- CTLX: Exchanges a control register with a name as one access (R146). -/
  | ctlx (g : Guard) (d : NameIx) (a : NameIx) (r : BitVec 7)
  /-- MAPLD: Checks and loads a map image into the strand's map copy, places and zeroes its regions and swaps bindings
  (R148). -/
  | mapld (g : Guard) (a : NameIx) (i : Imm 9)
  /-- RTT: Returns from a trap to EPC in the mode of STATUS.PSV, clearing TSL (R145). -/
  | rtt (g : Guard)
  /-- CONF: Tests an FP32 margin against CONFTAU and writes a predicate (R150). -/
  | conf (g : Guard) (d : BitVec 3) (a : NameIx) (b : NameIx)
  /-- CONF_EXIT: Tests the margin and on success exits the token: marks its later layers PENDING and posts a backfill job
  (R152). -/
  | confExit (g : Guard) (d : BitVec 3) (a : NameIx) (b : NameIx)
  /-- NOP: Has no effect (R154). -/
  | nop (g : Guard)
  /-- IFLUSH: Invalidates the instruction line holding an address in the cluster's caches and line buffers (R155). -/
  | iflush (g : Guard) (a : NameIx)
  /-- IFLUSH_ALL: Invalidates every instruction line in the cluster's caches and line buffers (R155). -/
  | iflushAll (g : Guard)
  /-- TLBINV_PAGE: Removes translations of one page in every ASID across the module (R156). -/
  | tlbinvPage (g : Guard) (a : NameIx)
  /-- TLBINV_ASID: Removes every translation of one ASID across the module (R156). -/
  | tlbinvAsid (g : Guard) (a : NameIx)
  /-- TLBINV_ALL: Removes every translation across the module (R156). -/
  | tlbinvAll (g : Guard)
  /-- DBRK: Halts the strand with a break code when kydb is attached and breaks are enabled (R154). -/
  | dbrk (g : Guard) (c : BitVec 6)
  /-- GETID: Reads one field of the strand's work identifier by the IDF widths (R157). -/
  | getid (g : Guard) (d : NameIx) (f : BitVec 3)
  /-- BIND: Binds a mailbox class of the core to a live slot (R131). -/
  | bind (g : Guard) (a : NameIx) (c : BitVec 2)
  /-- UNBIND: Unbinds a mailbox class from a slot (R131). -/
  | unbind (g : Guard) (a : NameIx) (c : BitVec 2)
  /-- GREY: Asks the launch unit to grey out a named launch and parks until it is saved (R158). -/
  | grey (g : Guard) (a : NameIx)
  /-- ERES: Resumes a stopped MX, VX or CX engine of the core after a fault (R158). -/
  | eres (g : Guard) (e : BitVec 2)
  /-- LIMM: Widening word that widens the immediate of the next word; the pair issues as one instruction (R56). -/
  | limm (ext : BitVec 25) (w : BitVec 32)
  /-- UNASSIGNED_OPCODE: A word with an unassigned opcode traps ILLEGAL precisely at decode (R69). -/
  | unassignedOpcode (w : BitVec 32)
  /-- PATCH_SUBSTITUTE: At issue of a matched patch pattern, executes the substitute on a shadow and commits it (R419). -/
  | patchSubstitute (e : Nat)
  /-- ACCESS_REPLY: The reply to a remote access is written and the waiting strand's access completes (R163). -/
  | accessReply (k : Nat)
  /-- STRAND_REJOIN: A parked strand rejoins rotation in the cycle after its wake event (R344). -/
  | strandRejoin (k : Nat)
  /-- REPACK_ROW_WRITE: The repack engine rewrites one locked row per cycle, writing back other strands' bits unchanged
  (R105). -/
  | repackRowWrite (p : Nat)
  /-- REPACK_UNLOCK: The new map copy and positions take effect, the rows unlock and held strands wake (R105). -/
  | repackUnlock (p : Nat)
  /-- MONITOR_NOTICE: A trigger notice from the home reaches a strand and wakes its WAITA (R331). -/
  | monitorNotice (k m : Nat)
  /-- WAITA_TIMEOUT: The WAITA timeout expires and the strand wakes with cause bit 4 (R136). -/
  | waitaTimeout (k deadline : Nat)
  /-- BARRIER_ARRIVAL: An arrival or arrival summary travelling along the rectangle reaches a core and is counted (R141). -/
  | barrierArrival (p r : Nat) (rect : BitVec 64) (src : Nat)
  /-- BARRIER_RELEASE: When every core has arrived, the release clears ARRIVED bits and wakes parked strands (R138). -/
  | barrierRelease (lid r : Nat) (rect : BitVec 64)
  /-- TAKE_RESEND: A take refused for full deferred lists is resent by its core after 64 cycles (R172). -/
  | takeResend (k : Nat)
  /-- RESERVATION_GRANT: The word is forwarded to the requester at the head of its reservation queue (R177). -/
  | reservationGrant (w : Nat)
  /-- RSVHOLD_TIMEOUT: A reservation held 4,096 cycles raises RSVHOLD on its holder (R180). -/
  | rsvholdTimeout (k w granted : Nat)
  /-- MMA: MX command: accumulates A times B into an accumulator tile, K block by K block (R229). -/
  | mma (p : Nat)
  /-- MMAS: MX command: multiply-accumulate with A in 2:4 or 1:4 structured sparse form and metadata (R232). -/
  | mmas (p : Nat)
  /-- MMAQ: MX command: multiply-accumulate with B as cb3 indices decoded through table-store slots (R233). -/
  | mmaq (p : Nat)
  /-- MMAT: MX command: multiply-accumulate with B stored transposed (R229). -/
  | mmat (p : Nat)
  /-- ACCZ: MX command: zeroes an accumulator tile and resets its attributes (R234). -/
  | accz (p : Nat)
  /-- ACCLD: MX command: loads an accumulator from a tile, decoded exactly (R234). -/
  | accld (p : Nat)
  /-- ACCST: MX command: stores an accumulator to a tile with clamping, rounding and Haar thresholding and header (R235). -/
  | accst (p : Nat)
  /-- ACCADD: MX command: adds a scaled tile or accumulator into an accumulator (R234). -/
  | accadd (p : Nat)
  /-- VTMAP: VX command: applies an element-wise function to a scaled tile (R237). -/
  | vtmap (p : Nat)
  /-- VTBIN: VX command: element-wise binary operation of two tiles (R238). -/
  | vtbin (p : Nat)
  /-- VTRED: VX command: reduces a tile by rows or columns into row 0 (R239). -/
  | vtred (p : Nat)
  /-- VTSMAX: VX command: row softmax with optional causal masking (R240). -/
  | vtsmax (p : Nat)
  /-- VTNORM: VX command: RMS or layer normalisation of each row with a gain (R241). -/
  | vtnorm (p : Nat)
  /-- VTCVT: VX command: converts a tile into the destination type (R242). -/
  | vtcvt (p : Nat)
  /-- VTHAAR: VX command: forward Haar transform up to a shade limit with thresholding and header (R243). -/
  | vthaar (p : Nat)
  /-- VTIHAAR: VX command: reconstructs a Haar tile into a plain tile (R244). -/
  | vtihaar (p : Nat)
  /-- VTCONF: VX command: writes per-row top two values, argmax and margin (R245). -/
  | vtconf (p : Nat)
  /-- VTKV_LOAD: VX command: loads key/value entry rows into a tile by entry state and policy (R246). -/
  | vtkvLoad (p : Nat)
  /-- VTKV_STORE: VX command: stores tile rows into key/value entries, optionally setting them VALID (R246). -/
  | vtkvStore (p : Nat)
  /-- MMAQ_SLOT_TAKE: A waiting MMAQ takes a table-store slot once it becomes full, emptying it with consume (R378). -/
  | mmaqSlotTake (p : Nat)
  /-- VTKV_ENTRY_WAKE: A VTKV load stalled on a PENDING entry proceeds once the entry becomes VALID (R246). -/
  | vtkvEntryWake (p : Nat)
  /-- ENGINE_FAULT_TRAP: The enqueuing strand takes ENGINE with the operand-fault form at its next issue turn (R399). -/
  | engineFaultTrap (k : Nat) (val : BitVec 64)
  /-- COPY2: Copy mode: copies CXDIM1 runs with source and destination steps (R250). -/
  | copy2 (p id : Nat)
  /-- COPY3: Copy mode: copies a three-dimensional set of runs (R250). -/
  | copy3 (p id : Nat)
  /-- SLAB: Copy mode: distributes runs block-wise between memory and the local stores of a core rectangle (R250). -/
  | slab (p id : Nat)
  /-- GATHER: Copy mode: reads runs at indexed source positions into consecutive destinations (R250). -/
  | gather (p id : Nat)
  /-- SCATTER: Copy mode: writes consecutive source runs to indexed destinations (R250). -/
  | scatter (p id : Nat)
  /-- BCAST: Copy mode: copies a block to every core of a rectangle (R250). -/
  | bcast (p id : Nat)
  /-- REDUCE: Copy mode: combines elements across a core rectangle and module box, deterministically unless FAST (R251). -/
  | reduce (p id : Nat)
  /-- TABLE: Copy mode: writes BF16 tables into table-store slots and sets them full (R250). -/
  | table (p id : Nat)
  /-- TABLE_SLOT_WRITE: A TABLE copy writes one slot's 16 bytes and sets it full in one step, after waiting for empty with
  WAITE (R379). -/
  | tableSlotWrite (p id : Nat)
  /-- COPY_CHUNK: A copy translates and moves one chunk within a 4 KiB page pair, waiting on a missing translation (R401). -/
  | copyChunk (p id : Nat)
  /-- COPY_COMPLETE: A finished copy places a COPY-class message in the issuing core's mailbox when room exists (R188). -/
  | copyComplete (p id : Nat)
  /-- INBOX_DELIVERY: A sent value arrives in an inbox slot or its overflow buffer (R191). -/
  | inboxDelivery (p slot : Nat) (val : BitVec 64)
  /-- MAILBOX_DELIVERY: A NOTE or user message arrives in the destination core's mailbox, waking a bound strand (R192). -/
  | mailboxDelivery (p cls : Nat) (lo hi : BitVec 64)
  /-- QUEUE_TRANSFER: An output queue moves its oldest entry to the neighbour's enabled input queue with room (R194). -/
  | queueTransfer (p q : Nat)
  /-- ROAM_PACKET_ARRIVAL: A roaming packet reaches the owning cluster, whose dispatcher picks the core and queues it
  (R346). -/
  | roamPacketArrival (id : Nat)
  /-- GUEST_ADMIT: A guest packet leaves the guest queue into a free slot 13 to 15 when its regions fit (R346). -/
  | guestAdmit (p : Nat)
  /-- TASK_DISPATCH: The dispatcher starts the dispatch of the oldest ready placeable record onto a core (R348). -/
  | taskDispatch (c : Nat)
  /-- FOOTPRINT_FETCH_DONE: The footprint has been copied into its run and the task strand is bound and starts (R349). -/
  | footprintFetchDone (t : Nat)
  /-- RECORD_URGENT: A record ready for more than 65,536 cycles becomes urgent (R348). -/
  | recordUrgent (t : Nat)
  /-- TASK_RETIRE: After a task strand exits, the dispatcher copies the footprint back, releases and publishes, then settles
  re-fire or promotion (R351). -/
  | taskRetire (t : Nat)
  /-- GROUP_MEMBER_UPDATE: A member's home performs FDEC or FCANCEL on its settle group when the member settles (R367). -/
  | groupMemberUpdate (g : BitVec 32) (code : Nat)
  /-- CONF_EXIT_JOB_POST: A CONF.exit parked for backfill queue room posts its formed job and completes (R152). -/
  | confExitJobPost (k : Nat)
  /-- BACKFILL_JOB_START: The backfill unit starts a queued job and builds its routine task for the first layer (R374). -/
  | backfillJobStart (c : Nat)
  /-- BACKFILL_LAYER_DONE: After a layer's routine retires, the unit sets its state VALID and readies the next layer or
  resolves the job (R375). -/
  | backfillLayerDone (j : Nat)
  /-- BACKFILL_PLACEMENT_TIMEOUT: A backfill task ready for 2^20 cycles is placed by the ordinary rule (R376). -/
  | backfillPlacementTimeout (t : Nat)
  /-- LQPUSH: A write pushes a launch header address with ASID and context into a launch queue (R427). -/
  | lqpush (q : Nat) (v : BitVec 64)
  /-- LAUNCH_START_BROADCAST: When every core is initialised the launch unit broadcasts the start and control strands enter
  rotation (R338). -/
  | launchStartBroadcast (lid : Nat)
  /-- LAUNCH_END: When nothing of the launch remains, its cores are freed, SETTLE is set and its futures freed (R341). -/
  | launchEnd (lid : Nat)
  /-- WATCHDOG_EXPIRY: The group watchdog reaches zero, freezes dispatch and reports the launch hung (R352). -/
  | watchdogExpiry (lid : Nat)
  /-- GREY_OUT: A launch is quiesced, its state saved by the checkpoint unit and its cores freed (R404). -/
  | greyOut (lid : Nat)
  /-- RESTORE: A greyed-out launch is restored onto cores and its strands re-enter their saved states (R406). -/
  | restore (lid : Nat)
  /-- FAULT_QUEUE_POST: A faulting agent posts its entry to the cluster fault queue when room exists (R397). -/
  | faultQueuePost (c : Nat)
  /-- FREPLY: A write wakes the agent named by a fault entry of a cluster (R398). -/
  | freply (c : Nat) (v : BitVec 64)
  /-- FQHEAD_WRITE: A write advances a cluster fault queue's head, making room for waiting posts (R427). -/
  | fqheadWrite (c : Nat) (v : BitVec 64)
  /-- LRHEAD_WRITE: A write advances the launch report ring head, letting held reports be written (R428). -/
  | lrheadWrite (v : BitVec 64)
  /-- FUTFREE: A write frees a named unowned settled future entry (R361). -/
  | futfree (v : BitVec 64)
  /-- POOLDEC_WRITE: A write installs a pool decoder entry, ignored if it holds reserved values (R429). -/
  | pooldecWrite (j : Nat) (v : BitVec 64)
  /-- PCAP_WRITE: A write sets the module power cap, clamped to 1,000 to 7,500 W (R427). -/
  | pcapWrite (v : BitVec 64)
  /-- ATTREQ: A write submits an attestation request to the root of trust (R434). -/
  | attreq (v : BitVec 64)
  /-- CKPT_SRAM_IMAGE: A CKPT write starts an SRAM image after greying out every launch (R436). -/
  | ckptSramImage (v : BitVec 64)
  /-- CKPT_WHOLE_DEVICE_IMAGE: A CKPT write starts a whole-device image including dirty pool pages (R436). -/
  | ckptWholeDeviceImage (v : BitVec 64)
  /-- CKPT_RESTORE: A CKPT write restores an image and brings every launch back (R436). -/
  | ckptRestore (v : BitVec 64)
  /-- CKPT_DONE: A checkpoint finishes and writes its result and clears BUSY (R435). -/
  | ckptDone (result : Nat)
  /-- DEVICE_REGISTER_WRITE: A write to a device register without behaviour of its own replaces its value (R427). -/
  | deviceRegisterWrite (off : Nat) (v : BitVec 64)
  /-- PAGE_MIGRATION: Once no reservation is held, a page is write-protected, copied, remapped and unprotected (R304). -/
  | pageMigration (asid page frame : Nat)
  /-- VAULT_ROW_RETIRE: A lasting-faulty vault row is copied onto a spare row while its accesses are held (R437). -/
  | vaultRowRetire (vault row : Nat)
  /-- LINK_FLIT_RECEIVE: A Raelo link flit is received, checked by CRC and sequence, and delivered or discarded for resend
  (R431). -/
  | linkFlitReceive (dir : Nat) (flit : BitVec 2048)
  /-- PATCH_TABLE_LOAD: Firmware checks and installs a patch table at one moment, updating PATCHHASH (R420). -/
  | patchTableLoad (image : List (BitVec 64))
  /-- POWER_ON_RESET: At power-on or reset the boot ROM verifies and measures stages from flash and starts firmware (R432). -/
  | powerOnReset (origin : ResetOrigin)
  /-- THERMAL_THROTTLE: Power above PCAP or 95 degrees makes compute dies skip issue cycles (R438). -/
  | thermalThrottle (watts celsius : Nat)
  /-- KYDB_HALT: The debugger halts the strands of a core at their next issue turn, by a halt command or a breakpoint,
  writing out the write-merge buffer (R328). -/
  | kydbHalt (p : Nat)
  /-- KYDB_RESUME: The debugger resumes halted strands, completing a halted WAITA with spurious cause 4 (R329). -/
  | kydbResume (p : Nat)
  /-- FETCH_LINE_ARRIVAL: An instruction line missed in L1 arrives from the middle cache, vault or pool and wakes the
  fetching strand (R290). -/
  | fetchLineArrival (k : Nat)
  /-- IFLUSH_COMPLETE: The cluster-wide instruction-cache invalidation ends and the parked strand resumes (R155). -/
  | iflushComplete (k : Nat)
  /-- TLBINV_COMPLETE: TLBINV completes once the entries are gone, the walks have ended and the chunks holding them have
  finished, waking its strand (R156). -/
  | tlbinvComplete (k : Nat)
  /-- REPLICA_REMOVAL_DONE: The migrator finishes removing every replica of a written page and the parked writer reissues to
  the original frame (R304). -/
  | replicaRemovalDone (asid page : Nat)
  /-- LIFT_THE_FREEZE: Worash lifts a hung launch's dispatch freeze and restarts its watchdog count (R352). -/
  | liftTheFreeze (lid : Nat)
  /-- END_LAUNCH_AS_HUNG: Worash ends a hung launch, its tasks cancelled with code 0xF0 (R353). -/
  | endLaunchAsHung (lid : Nat)
  /-- RESERVED_COMMAND: An engine takes a command word with a reserved OPC, ENG or selector and completes it with status
  OPCODE or FIELD (R221). -/
  | reservedCommand (p e : Nat)
  /-- LAUNCH_ADMIT: The launch unit checks a queue head and admits it when its cores are free, or refuses it (R335). -/
  | launchAdmit
  /-- FUTNEW: A read allocates an unowned future entry and returns its handle or 0 (R427). -/
  | futnew
  /-- ATTESTATION_DONE: The root of trust writes the signed measurement report and sets the done bit (R434). -/
  | attestationDone
  /-- MIGRATION_WINDOW: Every 2^20 cycles the page-migration counters are reported and cleared and the migrator decides
  (R302). -/
  | migrationWindow
  /-- THERMAL_SHUTDOWN: At 105 degrees the module stops every core, writes an SRAM image if possible and powers down (R438). -/
  | thermalShutdown
deriving DecidableEq, Repr

end Sys2Proof
end

