-- ==== Sys2Proof/WellFormed.lean ====
section
/-!
DEFINITION. Which terms of `Instr` the spec's encodings allow. `encodable` says that a term is what some
instruction word (or LIMM pair) stands for; `wellFormed` also refuses the field values the spec reserves (R16,
R61-R69) and events that name no unit of the module.
-/

namespace Sys2Proof

/-- Control-register numbers of R40. -/
def ctlReadable (r : Nat) : Bool :=
  r ≤ 0x04 || (0x08 ≤ r && r ≤ 0x0D) || (0x10 ≤ r && r ≤ 0x1D) || (0x20 ≤ r && r ≤ 0x27)

/-- The registers of R40 that are not read-only. -/
def ctlWritable (r : Nat) : Bool :=
  r ≤ 0x04 || (0x08 ≤ r && r ≤ 0x0D) || (0x10 ≤ r && r ≤ 0x17)

/-- Opcodes R69 leaves unassigned. -/
def opUnassigned (op : Nat) : Bool := (0x4A ≤ op && op ≤ 0x4D) || op == 0x5F || op == 0x7E

/-- Opcodes of format I, W or B: those a LIMM may stand before (R57, R62-R66). -/
def opTakesExt (op : Nat) : Bool :=
  (0x10 ≤ op && op ≤ 0x1C) || op == 0x2F || op == 0x38 || op == 0x39 || (0x3C ≤ op && op ≤ 0x43) ||
  (0x47 ≤ op && op ≤ 0x49) || (0x50 ≤ op && op ≤ 0x53) || (0x57 ≤ op && op ≤ 0x59) || op == 0x5D || op == 0x5E ||
  op == 0x78 || op == 0x7A

/-- The primary opcode of a word (R52). -/
def opOf (w : BitVec 32) : Nat := w.toNat / 2 ^ 25

/-- A strand key: a physical core and a slot. -/
def keyOk (k : Nat) : Bool := k < 16 * Config.physicalCores

/-- The term is what some instruction word or pair stands for. -/
def Instr.encodable : Instr → Bool
  | .add _ _ _ _ _ => true
  | .sub _ _ _ _ _ => true
  | .mul _ _ _ _ _ => true
  | .mulh _ _ _ _ _ => true
  | .div _ _ _ _ _ => true
  | .rem _ _ _ _ _ => true
  | .and _ _ _ _ _ => true
  | .or _ _ _ _ _ => true
  | .xor _ _ _ _ _ => true
  | .andn _ _ _ _ _ => true
  | .shl _ _ _ _ _ => true
  | .shr _ _ _ _ _ => true
  | .sha _ _ _ _ _ => true
  | .rot _ _ _ _ _ => true
  | .min _ _ _ _ _ => true
  | .max _ _ _ _ _ => true
  | .addi _ _ _ i => i.ext == none
  | .muli _ _ _ i => i.ext == none
  | .andi _ _ _ i => i.ext == none
  | .ori _ _ _ i => i.ext == none
  | .xori _ _ _ i => i.ext == none
  | .shli _ _ _ i => i.ext == none
  | .shri _ _ _ i => i.ext == none
  | .shai _ _ _ i => i.ext == none
  | .roti _ _ _ i => i.ext == none
  | .mini _ _ _ i => i.ext == none
  | .maxi _ _ _ i => i.ext == none
  | .li _ _ i => i.ext == none
  | .lih _ _ i => i.ext == none
  | .sel _ _ _ _ _ => true
  | .absd _ _ _ _ _ => true
  | .mac _ _ _ _ _ => true
  | .fadd _ _ _ _ _ => true
  | .fsub _ _ _ _ _ => true
  | .fmul _ _ _ _ _ => true
  | .ffma _ _ _ _ _ => true
  | .fmin _ _ _ _ => true
  | .fmax _ _ _ _ => true
  | .fcvt _ _ _ _ => true
  | .funOp _ _ _ _ => true
  | .fcmp _ _ _ _ _ => true
  | .rsz _ _ _ _ _ => true
  | .widq _ _ _ _ => true
  | .ext _ _ _ _ => true
  | .ins _ _ _ _ => true
  | .bitc _ _ _ _ => true
  | .cmp _ _ _ _ _ => true
  | .cmpi _ _ _ _ i => i.ext == none
  | .mov _ _ _ _ => true
  | .vfirst _ _ _ _ => true
  | .vlane _ _ _ _ _ => true
  | .vred _ _ _ _ => true
  | .vpredAny _ _ _ => true
  | .vpredAll _ _ _ => true
  | .vpredCount _ _ _ => true
  | .vidx _ _ _ => true
  | .vshuf _ _ _ _ _ => true
  | .vscan _ _ _ _ _ => true
  | .br _ i => i.ext == none
  | .call _ i => i.ext == none
  | .jr _ _ => true
  | .callr _ _ => true
  | .loop _ _ i => i.ext == none
  | .brany _ i => i.ext == none
  | .brall _ i => i.ext == none
  | .ipf _ i => i.ext == none
  | .ldb _ _ _ i => i.ext == none
  | .ldh _ _ _ i => i.ext == none
  | .ldw _ _ _ i => i.ext == none
  | .ldd _ _ _ i => i.ext == none
  | .ldx _ _ _ _ _ => true
  | .ldg _ _ _ _ _ => true
  | .ldo _ _ _ _ _ _ => true
  | .ldt _ _ _ i => i.ext == none
  | .ldk _ _ _ i => i.ext == none
  | .pref _ _ i => i.ext == none
  | .plog _ _ _ b f => !(f == 3 && b == 0)
  | .plogMov _ _ _ => true
  | .pmovR _ _ => true
  | .pmovW _ _ _ => true
  | .pmovFc _ _ => true
  | .stb _ _ _ i => i.ext == none
  | .sth _ _ _ i => i.ext == none
  | .stw _ _ _ i => i.ext == none
  | .std _ _ _ i => i.ext == none
  | .stx _ _ _ _ _ => true
  | .sts _ _ _ _ _ => true
  | .sto _ _ _ _ _ _ => true
  | .put _ _ _ i => i.ext == none
  | .rsv _ _ _ i => i.ext == none
  | .rel _ _ _ i => i.ext == none
  | .faa _ _ _ _ => true
  | .swp _ _ _ _ => true
  | .cas _ _ _ _ => true
  | .feset _ _ _ i => i.ext == none
  | .fetest _ _ _ i => i.ext == none
  | .enq _ _ _ => true
  | .pop _ _ _ => true
  | .epeek _ _ _ => true
  | .cxset _ _ _ => true
  | .cxgo _ _ => true
  | .send _ _ _ _ => true
  | .mrecv _ _ _ _ => true
  | .qctl _ _ _ _ => true
  | .fnew _ _ _ => true
  | .fset _ _ _ => true
  | .fget _ _ _ _ => true
  | .fexp _ _ _ => true
  | .fdec _ _ => true
  | .post _ _ _ _ => true
  | .roam _ _ => true
  | .pubsh _ _ _ => true
  | .stopref _ _ => true
  | .settle _ _ => true
  | .fcancel _ _ _ => true
  | .mon _ _ _ => true
  | .monx _ _ _ _ => true
  | .waita _ _ _ => true
  | .bara _ _ => true
  | .barw _ _ => true
  | .fence _ _ _ _ => true
  | .start _ _ _ _ => true
  | .join _ _ => true
  | .exit _ => true
  | .yield _ => true
  | .waitmsg _ => true
  | .trap _ i => i.ext == none
  | .ctlr _ _ _ => true
  | .ctlw _ _ _ => true
  | .ctlx _ _ _ _ => true
  | .mapld _ _ i => i.ext == none
  | .rtt _ => true
  | .conf _ _ _ _ => true
  | .confExit _ _ _ _ => true
  | .nop _ => true
  | .iflush _ _ => true
  | .iflushAll _ => true
  | .tlbinvPage _ _ => true
  | .tlbinvAsid _ _ => true
  | .tlbinvAll _ => true
  | .dbrk _ _ => true
  | .getid _ _ _ => true
  | .bind _ _ _ => true
  | .unbind _ _ _ => true
  | .grey _ _ => true
  | .eres _ _ => true
  | .limm _ w => opTakesExt (opOf w)
  | .unassignedOpcode w => opUnassigned (opOf w)
  | .patchSubstitute _ => false
  | .accessReply _ => false
  | .strandRejoin _ => false
  | .repackRowWrite _ => false
  | .repackUnlock _ => false
  | .monitorNotice _ _ => false
  | .waitaTimeout _ _ => false
  | .barrierArrival _ _ _ _ => false
  | .barrierRelease _ _ _ => false
  | .takeResend _ => false
  | .reservationGrant _ => false
  | .rsvholdTimeout _ _ _ => false
  | .mma _ => false
  | .mmas _ => false
  | .mmaq _ => false
  | .mmat _ => false
  | .accz _ => false
  | .accld _ => false
  | .accst _ => false
  | .accadd _ => false
  | .vtmap _ => false
  | .vtbin _ => false
  | .vtred _ => false
  | .vtsmax _ => false
  | .vtnorm _ => false
  | .vtcvt _ => false
  | .vthaar _ => false
  | .vtihaar _ => false
  | .vtconf _ => false
  | .vtkvLoad _ => false
  | .vtkvStore _ => false
  | .mmaqSlotTake _ => false
  | .vtkvEntryWake _ => false
  | .engineFaultTrap _ _ => false
  | .copy2 _ _ => false
  | .copy3 _ _ => false
  | .slab _ _ => false
  | .gather _ _ => false
  | .scatter _ _ => false
  | .bcast _ _ => false
  | .reduce _ _ => false
  | .table _ _ => false
  | .tableSlotWrite _ _ => false
  | .copyChunk _ _ => false
  | .copyComplete _ _ => false
  | .inboxDelivery _ _ _ => false
  | .mailboxDelivery _ _ _ _ => false
  | .queueTransfer _ _ => false
  | .roamPacketArrival _ => false
  | .guestAdmit _ => false
  | .taskDispatch _ => false
  | .footprintFetchDone _ => false
  | .recordUrgent _ => false
  | .taskRetire _ => false
  | .groupMemberUpdate _ _ => false
  | .confExitJobPost _ => false
  | .backfillJobStart _ => false
  | .backfillLayerDone _ => false
  | .backfillPlacementTimeout _ => false
  | .lqpush _ _ => false
  | .launchAdmit => false
  | .launchStartBroadcast _ => false
  | .launchEnd _ => false
  | .watchdogExpiry _ => false
  | .greyOut _ => false
  | .restore _ => false
  | .faultQueuePost _ => false
  | .freply _ _ => false
  | .fqheadWrite _ _ => false
  | .lrheadWrite _ => false
  | .futnew => false
  | .futfree _ => false
  | .pooldecWrite _ _ => false
  | .pcapWrite _ => false
  | .attreq _ => false
  | .attestationDone => false
  | .ckptSramImage _ => false
  | .ckptWholeDeviceImage _ => false
  | .ckptRestore _ => false
  | .ckptDone _ => false
  | .deviceRegisterWrite _ _ => false
  | .migrationWindow => false
  | .pageMigration _ _ _ => false
  | .vaultRowRetire _ _ => false
  | .linkFlitReceive _ _ => false
  | .patchTableLoad _ => false
  | .powerOnReset _ => false
  | .thermalThrottle _ _ => false
  | .thermalShutdown => false
  | .kydbHalt _ => false
  | .kydbResume _ => false
  | .fetchLineArrival _ => false
  | .iflushComplete _ => false
  | .tlbinvComplete _ => false
  | .replicaRemovalDone _ _ => false
  | .liftTheFreeze _ => false
  | .endLaunchAsHung _ => false
  | .reservedCommand _ _ => false

/-- The term is encodable and holds no value the spec reserves; an event names units that exist. -/
def Instr.wellFormed : Instr → Bool
  | .add _ _ _ _ f => f.toNat < 4
  | .sub _ _ _ _ f => f.toNat < 4
  | .mul _ _ _ _ f => f.toNat < 4
  | .mulh _ _ _ _ f => f.toNat < 4
  | .div _ _ _ _ f => f.toNat < 4
  | .rem _ _ _ _ f => f.toNat < 4
  | .and _ _ _ _ f => f.toNat < 4
  | .or _ _ _ _ f => f.toNat < 4
  | .xor _ _ _ _ f => f.toNat < 4
  | .andn _ _ _ _ f => f.toNat < 4
  | .shl _ _ _ _ f => f.toNat < 4
  | .shr _ _ _ _ f => f.toNat < 4
  | .sha _ _ _ _ f => f.toNat < 4
  | .rot _ _ _ _ f => f.toNat < 4
  | .min _ _ _ _ f => f.toNat < 4
  | .max _ _ _ _ f => f.toNat < 4
  | .addi _ _ _ i => i.ext == none
  | .muli _ _ _ i => i.ext == none
  | .andi _ _ _ i => i.ext == none
  | .ori _ _ _ i => i.ext == none
  | .xori _ _ _ i => i.ext == none
  | .shli _ _ _ i => i.ext == none && i.bits.toNat < 64
  | .shri _ _ _ i => i.ext == none && i.bits.toNat < 64
  | .shai _ _ _ i => i.ext == none && i.bits.toNat < 64
  | .roti _ _ _ i => i.ext == none && i.bits.toNat < 64
  | .mini _ _ _ i => i.ext == none
  | .maxi _ _ _ i => i.ext == none
  | .li _ _ i => i.ext == none
  | .lih _ _ i => i.ext == none
  | .sel _ _ _ _ _ => true
  | .absd _ _ _ _ f => f.toNat < 4
  | .mac _ _ _ _ f => f.toNat < 4
  | .fadd _ _ _ _ f => f.toNat < 4
  | .fsub _ _ _ _ f => f.toNat < 4
  | .fmul _ _ _ _ f => f.toNat < 4
  | .ffma _ _ _ _ f => f.toNat < 4
  | .fmin _ _ _ _ => true
  | .fmax _ _ _ _ => true
  | .fcvt _ _ _ f => f.toNat < 4
  | .funOp _ _ _ f => f.toNat < 6
  | .fcmp _ d _ _ _ => d != 0
  | .rsz _ _ m w _ => w != 3 && (m != 0 || w == 0)
  | .widq _ _ w i => (w.toNat < 2 || i == 0)
  | .ext _ _ _ _ => true
  | .ins _ _ _ _ => true
  | .bitc _ _ _ f => f.toNat < 4
  | .cmp _ d _ _ _ => d != 0
  | .cmpi _ _ d _ i => i.ext == none && d != 0
  | .mov _ _ _ f => f.toNat < 4
  | .vfirst _ _ _ f => f != 0
  | .vlane _ _ _ _ f => f != 0
  | .vred _ _ _ f => f.toNat < 6
  | .vpredAny _ d _ => d != 0
  | .vpredAll _ d _ => d != 0
  | .vpredCount _ _ _ => true
  | .vidx _ _ f => f.toNat < 4
  | .vshuf _ _ _ _ f => f.toNat < 4
  | .vscan _ _ _ _ f => f.toNat < 6
  | .br _ i => i.ext == none
  | .call _ i => i.ext == none
  | .jr _ _ => true
  | .callr _ _ => true
  | .loop _ _ i => i.ext == none
  | .brany _ i => i.ext == none
  | .brall _ i => i.ext == none
  | .ipf _ i => i.ext == none
  | .ldb _ _ _ i => i.ext == none
  | .ldh _ _ _ i => i.ext == none
  | .ldw _ _ _ i => i.ext == none
  | .ldd _ _ _ i => i.ext == none
  | .ldx _ _ _ _ _ => true
  | .ldg _ _ _ _ _ => true
  | .ldo _ _ _ s o _ => s.toNat < 6 && o.toNat < 3
  | .ldt _ _ _ i => i.ext == none
  | .ldk _ _ _ i => i.ext == none
  | .pref _ _ i => i.ext == none
  | .plog _ d _ _ f => d.toNat % 8 != 0 && f != 3
  | .plogMov _ d _ => d.toNat % 8 != 0
  | .pmovR _ _ => true
  | .pmovW _ _ _ => true
  | .pmovFc _ _ => true
  | .stb _ _ _ i => i.ext == none
  | .sth _ _ _ i => i.ext == none
  | .stw _ _ _ i => i.ext == none
  | .std _ _ _ i => i.ext == none
  | .stx _ _ _ _ _ => true
  | .sts _ _ _ _ _ => true
  | .sto _ _ _ s o _ => s.toNat < 6 && o.toNat < 3
  | .put _ _ _ i => i.ext == none
  | .rsv _ _ _ i => i.ext == none
  | .rel _ _ _ i => i.ext == none
  | .faa _ _ _ _ => true
  | .swp _ _ _ _ => true
  | .cas _ _ _ _ => true
  | .feset _ _ _ i => i.ext == none
  | .fetest _ d _ i => i.ext == none && d != 0
  | .enq _ _ _ => true
  | .pop _ _ _ => true
  | .epeek _ _ _ => true
  | .cxset _ _ r => r.toNat < 10
  | .cxgo _ _ => true
  | .send _ _ _ _ => true
  | .mrecv _ _ _ _ => true
  | .qctl _ _ _ s => s.toNat < 12
  | .fnew _ _ _ => true
  | .fset _ _ _ => true
  | .fget _ _ _ _ => true
  | .fexp _ _ _ => true
  | .fdec _ _ => true
  | .post _ _ _ _ => true
  | .roam _ _ => true
  | .pubsh _ _ _ => true
  | .stopref _ _ => true
  | .settle _ _ => true
  | .fcancel _ _ _ => true
  | .mon _ _ _ => true
  | .monx _ _ _ _ => true
  | .waita _ _ _ => true
  | .bara _ _ => true
  | .barw _ _ => true
  | .fence _ _ _ s => s.toNat < 6
  | .start _ _ _ _ => true
  | .join _ _ => true
  | .exit _ => true
  | .yield _ => true
  | .waitmsg _ => true
  | .trap _ i => i.ext == none
  | .ctlr _ _ r => ctlReadable r.toNat
  | .ctlw _ _ r => ctlWritable r.toNat
  | .ctlx _ _ _ r => ctlWritable r.toNat
  | .mapld _ _ i => i.ext == none
  | .rtt _ => true
  | .conf _ d _ _ => d != 0
  | .confExit _ d _ _ => d != 0
  | .nop _ => true
  | .iflush _ _ => true
  | .iflushAll _ => true
  | .tlbinvPage _ _ => true
  | .tlbinvAsid _ _ => true
  | .tlbinvAll _ => true
  | .dbrk _ _ => true
  | .getid _ _ f => f.toNat < 6
  | .bind _ _ _ => true
  | .unbind _ _ _ => true
  | .grey _ _ => true
  | .eres _ e => e.toNat < 3
  | .limm _ w => opTakesExt (opOf w)
  | .unassignedOpcode w => opUnassigned (opOf w)
  | .patchSubstitute e => decide (e < 256)
  | .accessReply k => keyOk k
  | .strandRejoin k => keyOk k
  | .repackRowWrite p => decide (p < Config.physicalCores)
  | .repackUnlock p => decide (p < Config.physicalCores)
  | .monitorNotice k m => keyOk k && decide (m < 4)
  | .waitaTimeout k _ => keyOk k
  | .barrierArrival p r _ _ => decide (p < Config.physicalCores) && decide (r < 4)
  | .barrierRelease lid r _ => decide (0 < lid && lid < 65536) && decide (r < 4)
  | .takeResend k => keyOk k
  | .reservationGrant _ => true
  | .rsvholdTimeout k _ _ => keyOk k
  | .mma p => decide (p < Config.physicalCores)
  | .mmas p => decide (p < Config.physicalCores)
  | .mmaq p => decide (p < Config.physicalCores)
  | .mmat p => decide (p < Config.physicalCores)
  | .accz p => decide (p < Config.physicalCores)
  | .accld p => decide (p < Config.physicalCores)
  | .accst p => decide (p < Config.physicalCores)
  | .accadd p => decide (p < Config.physicalCores)
  | .vtmap p => decide (p < Config.physicalCores)
  | .vtbin p => decide (p < Config.physicalCores)
  | .vtred p => decide (p < Config.physicalCores)
  | .vtsmax p => decide (p < Config.physicalCores)
  | .vtnorm p => decide (p < Config.physicalCores)
  | .vtcvt p => decide (p < Config.physicalCores)
  | .vthaar p => decide (p < Config.physicalCores)
  | .vtihaar p => decide (p < Config.physicalCores)
  | .vtconf p => decide (p < Config.physicalCores)
  | .vtkvLoad p => decide (p < Config.physicalCores)
  | .vtkvStore p => decide (p < Config.physicalCores)
  | .mmaqSlotTake p => decide (p < Config.physicalCores)
  | .vtkvEntryWake p => decide (p < Config.physicalCores)
  | .engineFaultTrap k _ => keyOk k
  | .copy2 p _ => decide (p < Config.physicalCores)
  | .copy3 p _ => decide (p < Config.physicalCores)
  | .slab p _ => decide (p < Config.physicalCores)
  | .gather p _ => decide (p < Config.physicalCores)
  | .scatter p _ => decide (p < Config.physicalCores)
  | .bcast p _ => decide (p < Config.physicalCores)
  | .reduce p _ => decide (p < Config.physicalCores)
  | .table p _ => decide (p < Config.physicalCores)
  | .tableSlotWrite p _ => decide (p < Config.physicalCores)
  | .copyChunk p _ => decide (p < Config.physicalCores)
  | .copyComplete p _ => decide (p < Config.physicalCores)
  | .inboxDelivery p slot _ => decide (p < Config.physicalCores) && decide (slot < 32)
  | .mailboxDelivery p cls _ _ => decide (p < Config.physicalCores) && decide (cls < 4)
  | .queueTransfer p q => decide (p < Config.physicalCores) && decide (q < 4)
  | .roamPacketArrival _ => true
  | .guestAdmit p => decide (p < Config.physicalCores)
  | .taskDispatch c => decide (c < Config.clusters)
  | .footprintFetchDone _ => true
  | .recordUrgent _ => true
  | .taskRetire _ => true
  | .groupMemberUpdate _ _ => true
  | .confExitJobPost k => keyOk k
  | .backfillJobStart c => decide (c < Config.clusters)
  | .backfillLayerDone _ => true
  | .backfillPlacementTimeout _ => true
  | .lqpush q _ => decide (q < 5)
  | .launchAdmit => true
  | .launchStartBroadcast lid => decide (0 < lid && lid < 65536)
  | .launchEnd lid => decide (0 < lid && lid < 65536)
  | .watchdogExpiry lid => decide (0 < lid && lid < 65536)
  | .greyOut lid => decide (0 < lid && lid < 65536)
  | .restore lid => decide (0 < lid && lid < 65536)
  | .faultQueuePost c => decide (c < Config.clusters)
  | .freply c _ => decide (c < Config.clusters)
  | .fqheadWrite c _ => decide (c < Config.clusters)
  | .lrheadWrite _ => true
  | .futnew => true
  | .futfree _ => true
  | .pooldecWrite j _ => decide (j < 64)
  | .pcapWrite _ => true
  | .attreq _ => true
  | .attestationDone => true
  | .ckptSramImage _ => true
  | .ckptWholeDeviceImage _ => true
  | .ckptRestore _ => true
  | .ckptDone _ => true
  | .deviceRegisterWrite _ _ => true
  | .migrationWindow => true
  | .pageMigration _ _ _ => true
  | .vaultRowRetire _ _ => true
  | .linkFlitReceive _ _ => true
  | .patchTableLoad _ => true
  | .powerOnReset _ => true
  | .thermalThrottle _ _ => true
  | .thermalShutdown => true
  | .kydbHalt p => decide (p < Config.physicalCores)
  | .kydbResume p => decide (p < Config.physicalCores)
  | .fetchLineArrival k => keyOk k
  | .iflushComplete k => keyOk k
  | .tlbinvComplete k => keyOk k
  | .replicaRemovalDone _ _ => true
  | .liftTheFreeze lid => decide (0 < lid && lid < 65536)
  | .endLaunchAsHung lid => decide (0 < lid && lid < 65536)
  | .reservedCommand p e => decide (p < Config.physicalCores) && decide (e < 2)

end Sys2Proof
end

