-- ==== Sys2Proof/Decode.lean ====
section
/-!
DEFINITION. The decoder and, after it, the encoder (spec/02 R51-R69; spec/opcode_table.json). The decoder reads
the table of rows: each row lists the fields of the word that are fixed, and how the operands are read. A
word that meets no row has a reserved field and is refused by name.
-/

namespace Sys2Proof

/-- Why bytes are no instruction. -/
inductive DecodeError where
  /-- Fewer bytes than the instruction has. -/
  | truncated
  /-- A field that must be 0, or a sub-function, holds a reserved value (R69): the word. -/
  | reservedField (w : BitVec 32)
  /-- A LIMM before a word that takes none (R57): the word after it. -/
  | badPair (w : BitVec 32)
deriving DecidableEq, Repr

/-- Field of `n` bits from bit `lo` of a word. -/
def fld (n lo : Nat) (w : BitVec 32) : BitVec n := BitVec.ofNat n (w.toNat / 2 ^ lo)

/-- The guard of a word: GN [24], GP [23:21] (R52). -/
def guardOf (w : BitVec 32) : Guard := ⟨bitN w.toNat 24, fld 3 21 w⟩

/-- The immediate field of `n` bits, without a LIMM. -/
def immOf (n : Nat) (w : BitVec 32) : Imm n := ⟨none, fld n 0 w⟩

/-- One row of the opcode table: the fixed fields (lowest bit, length, value) and the reading of the rest. -/
structure OpRow where
  fixed : List (Nat × Nat × Nat)
  build : BitVec 32 → Instr

/-- The word has the row's fixed fields. -/
def OpRow.matchesWord (r : OpRow) (w : BitVec 32) : Bool :=
  r.fixed.all fun f => w.toNat / 2 ^ f.1 % 2 ^ f.2.1 == f.2.2

/-- Rows of the opcode table, part 0 (R62-R68, R21, R22). -/
def opRows0 : List OpRow := [
  ⟨[(25, 7, 0x4e), (19, 2, 0), (13, 2, 0), (0, 9, 3)], fun w => .plogMov (guardOf w) (fld 4 15 w) (fld 4 9 w)⟩,
  ⟨[(25, 7, 0x0)], fun w => .add (guardOf w) (fld 6 15 w) (fld 6 9 w) (fld 6 3 w) (fld 3 0 w)⟩,
  ⟨[(25, 7, 0x1)], fun w => .sub (guardOf w) (fld 6 15 w) (fld 6 9 w) (fld 6 3 w) (fld 3 0 w)⟩,
  ⟨[(25, 7, 0x2)], fun w => .mul (guardOf w) (fld 6 15 w) (fld 6 9 w) (fld 6 3 w) (fld 3 0 w)⟩,
  ⟨[(25, 7, 0x3)], fun w => .mulh (guardOf w) (fld 6 15 w) (fld 6 9 w) (fld 6 3 w) (fld 3 0 w)⟩,
  ⟨[(25, 7, 0x4)], fun w => .div (guardOf w) (fld 6 15 w) (fld 6 9 w) (fld 6 3 w) (fld 3 0 w)⟩,
  ⟨[(25, 7, 0x5)], fun w => .rem (guardOf w) (fld 6 15 w) (fld 6 9 w) (fld 6 3 w) (fld 3 0 w)⟩,
  ⟨[(25, 7, 0x6)], fun w => .and (guardOf w) (fld 6 15 w) (fld 6 9 w) (fld 6 3 w) (fld 3 0 w)⟩,
  ⟨[(25, 7, 0x7)], fun w => .or (guardOf w) (fld 6 15 w) (fld 6 9 w) (fld 6 3 w) (fld 3 0 w)⟩,
  ⟨[(25, 7, 0x8)], fun w => .xor (guardOf w) (fld 6 15 w) (fld 6 9 w) (fld 6 3 w) (fld 3 0 w)⟩,
  ⟨[(25, 7, 0x9)], fun w => .andn (guardOf w) (fld 6 15 w) (fld 6 9 w) (fld 6 3 w) (fld 3 0 w)⟩,
  ⟨[(25, 7, 0xa)], fun w => .shl (guardOf w) (fld 6 15 w) (fld 6 9 w) (fld 6 3 w) (fld 3 0 w)⟩,
  ⟨[(25, 7, 0xb)], fun w => .shr (guardOf w) (fld 6 15 w) (fld 6 9 w) (fld 6 3 w) (fld 3 0 w)⟩,
  ⟨[(25, 7, 0xc)], fun w => .sha (guardOf w) (fld 6 15 w) (fld 6 9 w) (fld 6 3 w) (fld 3 0 w)⟩,
  ⟨[(25, 7, 0xd)], fun w => .rot (guardOf w) (fld 6 15 w) (fld 6 9 w) (fld 6 3 w) (fld 3 0 w)⟩,
  ⟨[(25, 7, 0xe)], fun w => .min (guardOf w) (fld 6 15 w) (fld 6 9 w) (fld 6 3 w) (fld 3 0 w)⟩,
  ⟨[(25, 7, 0xf)], fun w => .max (guardOf w) (fld 6 15 w) (fld 6 9 w) (fld 6 3 w) (fld 3 0 w)⟩,
  ⟨[(25, 7, 0x10)], fun w => .addi (guardOf w) (fld 6 15 w) (fld 6 9 w) (immOf 9 w)⟩,
  ⟨[(25, 7, 0x11)], fun w => .muli (guardOf w) (fld 6 15 w) (fld 6 9 w) (immOf 9 w)⟩,
  ⟨[(25, 7, 0x12)], fun w => .andi (guardOf w) (fld 6 15 w) (fld 6 9 w) (immOf 9 w)⟩,
  ⟨[(25, 7, 0x13)], fun w => .ori (guardOf w) (fld 6 15 w) (fld 6 9 w) (immOf 9 w)⟩,
  ⟨[(25, 7, 0x14)], fun w => .xori (guardOf w) (fld 6 15 w) (fld 6 9 w) (immOf 9 w)⟩,
  ⟨[(25, 7, 0x15)], fun w => .shli (guardOf w) (fld 6 15 w) (fld 6 9 w) (immOf 9 w)⟩,
  ⟨[(25, 7, 0x16)], fun w => .shri (guardOf w) (fld 6 15 w) (fld 6 9 w) (immOf 9 w)⟩,
  ⟨[(25, 7, 0x17)], fun w => .shai (guardOf w) (fld 6 15 w) (fld 6 9 w) (immOf 9 w)⟩]

/-- Rows of the opcode table, part 1 (R62-R68, R21, R22). -/
def opRows1 : List OpRow := [
  ⟨[(25, 7, 0x18)], fun w => .roti (guardOf w) (fld 6 15 w) (fld 6 9 w) (immOf 9 w)⟩,
  ⟨[(25, 7, 0x19)], fun w => .mini (guardOf w) (fld 6 15 w) (fld 6 9 w) (immOf 9 w)⟩,
  ⟨[(25, 7, 0x1a)], fun w => .maxi (guardOf w) (fld 6 15 w) (fld 6 9 w) (immOf 9 w)⟩,
  ⟨[(25, 7, 0x1b)], fun w => .li (guardOf w) (fld 6 15 w) (immOf 15 w)⟩,
  ⟨[(25, 7, 0x1c)], fun w => .lih (guardOf w) (fld 6 15 w) (immOf 15 w)⟩,
  ⟨[(25, 7, 0x1d)], fun w => .sel (guardOf w) (fld 6 15 w) (fld 6 9 w) (fld 6 3 w) (fld 3 0 w)⟩,
  ⟨[(25, 7, 0x1e)], fun w => .absd (guardOf w) (fld 6 15 w) (fld 6 9 w) (fld 6 3 w) (fld 3 0 w)⟩,
  ⟨[(25, 7, 0x1f)], fun w => .mac (guardOf w) (fld 6 15 w) (fld 6 9 w) (fld 6 3 w) (fld 3 0 w)⟩,
  ⟨[(25, 7, 0x20)], fun w => .fadd (guardOf w) (fld 6 15 w) (fld 6 9 w) (fld 6 3 w) (fld 3 0 w)⟩,
  ⟨[(25, 7, 0x21)], fun w => .fsub (guardOf w) (fld 6 15 w) (fld 6 9 w) (fld 6 3 w) (fld 3 0 w)⟩,
  ⟨[(25, 7, 0x22)], fun w => .fmul (guardOf w) (fld 6 15 w) (fld 6 9 w) (fld 6 3 w) (fld 3 0 w)⟩,
  ⟨[(25, 7, 0x23)], fun w => .ffma (guardOf w) (fld 6 15 w) (fld 6 9 w) (fld 6 3 w) (fld 3 0 w)⟩,
  ⟨[(25, 7, 0x24), (0, 3, 0)], fun w => .fmin (guardOf w) (fld 6 15 w) (fld 6 9 w) (fld 6 3 w)⟩,
  ⟨[(25, 7, 0x25), (0, 3, 0)], fun w => .fmax (guardOf w) (fld 6 15 w) (fld 6 9 w) (fld 6 3 w)⟩,
  ⟨[(25, 7, 0x26), (3, 6, 0)], fun w => .fcvt (guardOf w) (fld 6 15 w) (fld 6 9 w) (fld 3 0 w)⟩,
  ⟨[(25, 7, 0x27), (3, 6, 0)], fun w => .funOp (guardOf w) (fld 6 15 w) (fld 6 9 w) (fld 3 0 w)⟩,
  ⟨[(25, 7, 0x28), (18, 3, 0)], fun w => .fcmp (guardOf w) (fld 3 15 w) (fld 6 9 w) (fld 6 3 w) (fld 3 0 w)⟩,
  ⟨[(25, 7, 0x29), (9, 6, 0)], fun w => .rsz (guardOf w) (fld 6 15 w) (fld 1 8 w) (fld 2 6 w) (fld 6 0 w)⟩,
  ⟨[(25, 7, 0x2a), (8, 7, 0)], fun w => .widq (guardOf w) (fld 6 15 w) (fld 2 6 w) (fld 6 0 w)⟩,
  ⟨[(25, 7, 0x2b), (6, 3, 0)], fun w => .ext (guardOf w) (fld 6 15 w) (fld 6 9 w) (fld 6 0 w)⟩,
  ⟨[(25, 7, 0x2c), (6, 3, 0)], fun w => .ins (guardOf w) (fld 6 15 w) (fld 6 9 w) (fld 6 0 w)⟩,
  ⟨[(25, 7, 0x2d), (3, 6, 0)], fun w => .bitc (guardOf w) (fld 6 15 w) (fld 6 9 w) (fld 3 0 w)⟩,
  ⟨[(25, 7, 0x2e), (18, 3, 0)], fun w => .cmp (guardOf w) (fld 3 15 w) (fld 6 9 w) (fld 6 3 w) (fld 3 0 w)⟩,
  ⟨[(25, 7, 0x2f)], fun w => .cmpi (guardOf w) (fld 3 18 w) (fld 3 15 w) (fld 6 9 w) (immOf 9 w)⟩,
  ⟨[(25, 7, 0x30), (3, 6, 0)], fun w => .mov (guardOf w) (fld 6 15 w) (fld 6 9 w) (fld 3 0 w)⟩]

/-- Rows of the opcode table, part 2 (R62-R68, R21, R22). -/
def opRows2 : List OpRow := [
  ⟨[(25, 7, 0x31), (3, 6, 0)], fun w => .vfirst (guardOf w) (fld 6 15 w) (fld 6 9 w) (fld 3 0 w)⟩,
  ⟨[(25, 7, 0x32)], fun w => .vlane (guardOf w) (fld 6 15 w) (fld 6 9 w) (fld 6 3 w) (fld 3 0 w)⟩,
  ⟨[(25, 7, 0x33), (3, 6, 0)], fun w => .vred (guardOf w) (fld 6 15 w) (fld 6 9 w) (fld 3 0 w)⟩,
  ⟨[(25, 7, 0x34), (18, 3, 0), (13, 2, 0), (0, 9, 0)], fun w => .vpredAny (guardOf w) (fld 3 15 w) (fld 4 9 w)⟩,
  ⟨[(25, 7, 0x34), (18, 3, 0), (13, 2, 0), (0, 9, 1)], fun w => .vpredAll (guardOf w) (fld 3 15 w) (fld 4 9 w)⟩,
  ⟨[(25, 7, 0x34), (13, 2, 0), (0, 9, 2)], fun w => .vpredCount (guardOf w) (fld 6 15 w) (fld 4 9 w)⟩,
  ⟨[(25, 7, 0x35), (3, 12, 0)], fun w => .vidx (guardOf w) (fld 6 15 w) (fld 3 0 w)⟩,
  ⟨[(25, 7, 0x36)], fun w => .vshuf (guardOf w) (fld 6 15 w) (fld 6 9 w) (fld 6 3 w) (fld 3 0 w)⟩,
  ⟨[(25, 7, 0x37)], fun w => .vscan (guardOf w) (fld 6 15 w) (fld 6 9 w) (fld 6 3 w) (fld 3 0 w)⟩,
  ⟨[(25, 7, 0x38)], fun w => .br (guardOf w) (immOf 21 w)⟩,
  ⟨[(25, 7, 0x39)], fun w => .call (guardOf w) (immOf 21 w)⟩,
  ⟨[(25, 7, 0x3a), (15, 6, 0), (0, 9, 0)], fun w => .jr (guardOf w) (fld 6 9 w)⟩,
  ⟨[(25, 7, 0x3b), (15, 6, 0), (0, 9, 0)], fun w => .callr (guardOf w) (fld 6 9 w)⟩,
  ⟨[(25, 7, 0x3c), (9, 6, 0)], fun w => .loop (guardOf w) (fld 6 15 w) (immOf 9 w)⟩,
  ⟨[(25, 7, 0x3d)], fun w => .brany (guardOf w) (immOf 21 w)⟩,
  ⟨[(25, 7, 0x3e)], fun w => .brall (guardOf w) (immOf 21 w)⟩,
  ⟨[(25, 7, 0x3f)], fun w => .ipf (guardOf w) (immOf 21 w)⟩,
  ⟨[(25, 7, 0x40)], fun w => .ldb (guardOf w) (fld 6 15 w) (fld 6 9 w) (immOf 9 w)⟩,
  ⟨[(25, 7, 0x41)], fun w => .ldh (guardOf w) (fld 6 15 w) (fld 6 9 w) (immOf 9 w)⟩,
  ⟨[(25, 7, 0x42)], fun w => .ldw (guardOf w) (fld 6 15 w) (fld 6 9 w) (immOf 9 w)⟩,
  ⟨[(25, 7, 0x43)], fun w => .ldd (guardOf w) (fld 6 15 w) (fld 6 9 w) (immOf 9 w)⟩,
  ⟨[(25, 7, 0x44), (2, 1, 0)], fun w => .ldx (guardOf w) (fld 6 15 w) (fld 6 9 w) (fld 6 3 w) (fld 2 0 w)⟩,
  ⟨[(25, 7, 0x45), (2, 1, 0)], fun w => .ldg (guardOf w) (fld 6 15 w) (fld 6 9 w) (fld 6 3 w) (fld 2 0 w)⟩,
  ⟨[(25, 7, 0x46), (7, 2, 0)], fun w => .ldo (guardOf w) (fld 6 15 w) (fld 6 9 w) (fld 3 4 w) (fld 2 2 w) (fld 2 0 w)⟩,
  ⟨[(25, 7, 0x47)], fun w => .ldt (guardOf w) (fld 6 15 w) (fld 6 9 w) (immOf 9 w)⟩]

/-- Rows of the opcode table, part 3 (R62-R68, R21, R22). -/
def opRows3 : List OpRow := [
  ⟨[(25, 7, 0x48)], fun w => .ldk (guardOf w) (fld 6 15 w) (fld 6 9 w) (immOf 9 w)⟩,
  ⟨[(25, 7, 0x49), (15, 6, 0)], fun w => .pref (guardOf w) (fld 6 9 w) (immOf 9 w)⟩,
  ⟨[(25, 7, 0x4e), (19, 2, 0), (13, 2, 0), (7, 2, 0), (2, 1, 0)], fun w => .plog (guardOf w) (fld 4 15 w) (fld 4 9 w) (fld 4 3 w) (fld 2 0 w)⟩,
  ⟨[(25, 7, 0x4f), (0, 15, 0)], fun w => .pmovR (guardOf w) (fld 6 15 w)⟩,
  ⟨[(25, 7, 0x4f), (15, 6, 0), (4, 5, 0), (0, 2, 1)], fun w => .pmovW (guardOf w) (fld 6 9 w) (fld 2 2 w)⟩,
  ⟨[(25, 7, 0x4f), (9, 12, 0), (0, 2, 2)], fun w => .pmovFc (guardOf w) (fld 7 2 w)⟩,
  ⟨[(25, 7, 0x50)], fun w => .stb (guardOf w) (fld 6 15 w) (fld 6 9 w) (immOf 9 w)⟩,
  ⟨[(25, 7, 0x51)], fun w => .sth (guardOf w) (fld 6 15 w) (fld 6 9 w) (immOf 9 w)⟩,
  ⟨[(25, 7, 0x52)], fun w => .stw (guardOf w) (fld 6 15 w) (fld 6 9 w) (immOf 9 w)⟩,
  ⟨[(25, 7, 0x53)], fun w => .std (guardOf w) (fld 6 15 w) (fld 6 9 w) (immOf 9 w)⟩,
  ⟨[(25, 7, 0x54), (2, 1, 0)], fun w => .stx (guardOf w) (fld 6 15 w) (fld 6 9 w) (fld 6 3 w) (fld 2 0 w)⟩,
  ⟨[(25, 7, 0x55), (2, 1, 0)], fun w => .sts (guardOf w) (fld 6 15 w) (fld 6 9 w) (fld 6 3 w) (fld 2 0 w)⟩,
  ⟨[(25, 7, 0x56), (7, 2, 0)], fun w => .sto (guardOf w) (fld 6 15 w) (fld 6 9 w) (fld 3 4 w) (fld 2 2 w) (fld 2 0 w)⟩,
  ⟨[(25, 7, 0x57)], fun w => .put (guardOf w) (fld 6 15 w) (fld 6 9 w) (immOf 9 w)⟩,
  ⟨[(25, 7, 0x58)], fun w => .rsv (guardOf w) (fld 6 15 w) (fld 6 9 w) (immOf 9 w)⟩,
  ⟨[(25, 7, 0x59)], fun w => .rel (guardOf w) (fld 6 15 w) (fld 6 9 w) (immOf 9 w)⟩,
  ⟨[(25, 7, 0x5a), (0, 3, 0)], fun w => .faa (guardOf w) (fld 6 15 w) (fld 6 9 w) (fld 6 3 w)⟩,
  ⟨[(25, 7, 0x5b), (0, 3, 0)], fun w => .swp (guardOf w) (fld 6 15 w) (fld 6 9 w) (fld 6 3 w)⟩,
  ⟨[(25, 7, 0x5c), (0, 3, 0)], fun w => .cas (guardOf w) (fld 6 15 w) (fld 6 9 w) (fld 6 3 w)⟩,
  ⟨[(25, 7, 0x5d), (16, 5, 0)], fun w => .feset (guardOf w) (fld 1 15 w) (fld 6 9 w) (immOf 9 w)⟩,
  ⟨[(25, 7, 0x5e), (18, 3, 0)], fun w => .fetest (guardOf w) (fld 3 15 w) (fld 6 9 w) (immOf 9 w)⟩,
  ⟨[(25, 7, 0x60), (15, 6, 0), (1, 8, 0)], fun w => .enq (guardOf w) (fld 6 9 w) (fld 1 0 w)⟩,
  ⟨[(25, 7, 0x61), (1, 14, 0)], fun w => .pop (guardOf w) (fld 6 15 w) (fld 1 0 w)⟩,
  ⟨[(25, 7, 0x62), (1, 14, 0)], fun w => .epeek (guardOf w) (fld 6 15 w) (fld 1 0 w)⟩,
  ⟨[(25, 7, 0x63), (15, 6, 0), (4, 5, 0)], fun w => .cxset (guardOf w) (fld 6 9 w) (fld 4 0 w)⟩]

/-- Rows of the opcode table, part 4 (R62-R68, R21, R22). -/
def opRows4 : List OpRow := [
  ⟨[(25, 7, 0x64), (0, 15, 0)], fun w => .cxgo (guardOf w) (fld 6 15 w)⟩,
  ⟨[(25, 7, 0x65), (15, 6, 0), (2, 1, 0)], fun w => .send (guardOf w) (fld 6 9 w) (fld 6 3 w) (fld 2 0 w)⟩,
  ⟨[(25, 7, 0x66), (2, 7, 0)], fun w => .mrecv (guardOf w) (fld 6 15 w) (fld 6 9 w) (fld 2 0 w)⟩,
  ⟨[(25, 7, 0x67), (4, 5, 0)], fun w => .qctl (guardOf w) (fld 6 15 w) (fld 6 9 w) (fld 4 0 w)⟩,
  ⟨[(25, 7, 0x68), (0, 9, 0)], fun w => .fnew (guardOf w) (fld 6 15 w) (fld 6 9 w)⟩,
  ⟨[(25, 7, 0x69), (15, 6, 0), (0, 3, 0)], fun w => .fset (guardOf w) (fld 6 9 w) (fld 6 3 w)⟩,
  ⟨[(25, 7, 0x6a), (4, 5, 0)], fun w => .fget (guardOf w) (fld 6 15 w) (fld 6 9 w) (fld 4 0 w)⟩,
  ⟨[(25, 7, 0x6b), (15, 6, 0), (0, 3, 0)], fun w => .fexp (guardOf w) (fld 6 9 w) (fld 6 3 w)⟩,
  ⟨[(25, 7, 0x6c), (15, 6, 0), (0, 9, 0)], fun w => .fdec (guardOf w) (fld 6 9 w)⟩,
  ⟨[(25, 7, 0x6d), (1, 8, 0)], fun w => .post (guardOf w) (fld 6 15 w) (fld 6 9 w) (fld 1 0 w)⟩,
  ⟨[(25, 7, 0x6e), (15, 6, 0), (0, 9, 0)], fun w => .roam (guardOf w) (fld 6 9 w)⟩,
  ⟨[(25, 7, 0x6f), (15, 6, 0), (0, 3, 0)], fun w => .pubsh (guardOf w) (fld 6 9 w) (fld 6 3 w)⟩,
  ⟨[(25, 7, 0x6f), (15, 6, 0), (0, 9, 1)], fun w => .stopref (guardOf w) (fld 6 9 w)⟩,
  ⟨[(25, 7, 0x6f), (15, 6, 0), (0, 9, 2)], fun w => .settle (guardOf w) (fld 6 9 w)⟩,
  ⟨[(25, 7, 0x6f), (15, 6, 0), (0, 3, 3)], fun w => .fcancel (guardOf w) (fld 6 9 w) (fld 6 3 w)⟩,
  ⟨[(25, 7, 0x70), (15, 6, 0), (2, 7, 0)], fun w => .mon (guardOf w) (fld 6 9 w) (fld 2 0 w)⟩,
  ⟨[(25, 7, 0x70), (2, 7, 1)], fun w => .monx (guardOf w) (fld 6 15 w) (fld 6 9 w) (fld 2 0 w)⟩,
  ⟨[(25, 7, 0x71), (0, 9, 0)], fun w => .waita (guardOf w) (fld 6 15 w) (fld 6 9 w)⟩,
  ⟨[(25, 7, 0x72), (2, 19, 0)], fun w => .bara (guardOf w) (fld 2 0 w)⟩,
  ⟨[(25, 7, 0x72), (2, 19, 1)], fun w => .barw (guardOf w) (fld 2 0 w)⟩,
  ⟨[(25, 7, 0x73), (19, 2, 0), (13, 2, 0), (3, 6, 0)], fun w => .fence (guardOf w) (fld 4 15 w) (fld 4 9 w) (fld 3 0 w)⟩,
  ⟨[(25, 7, 0x74), (0, 3, 0)], fun w => .start (guardOf w) (fld 6 15 w) (fld 6 9 w) (fld 6 3 w)⟩,
  ⟨[(25, 7, 0x75), (15, 6, 0), (0, 9, 0)], fun w => .join (guardOf w) (fld 6 9 w)⟩,
  ⟨[(25, 7, 0x76), (0, 21, 0)], fun w => .exit (guardOf w)⟩,
  ⟨[(25, 7, 0x76), (0, 21, 1)], fun w => .yield (guardOf w)⟩]

/-- Rows of the opcode table, part 5 (R62-R68, R21, R22). -/
def opRows5 : List OpRow := [
  ⟨[(25, 7, 0x77), (0, 21, 0)], fun w => .waitmsg (guardOf w)⟩,
  ⟨[(25, 7, 0x78), (15, 6, 0)], fun w => .trap (guardOf w) (immOf 15 w)⟩,
  ⟨[(25, 7, 0x79), (7, 8, 0)], fun w => .ctlr (guardOf w) (fld 6 15 w) (fld 7 0 w)⟩,
  ⟨[(25, 7, 0x79), (15, 6, 0), (7, 2, 1)], fun w => .ctlw (guardOf w) (fld 6 9 w) (fld 7 0 w)⟩,
  ⟨[(25, 7, 0x79), (7, 2, 2)], fun w => .ctlx (guardOf w) (fld 6 15 w) (fld 6 9 w) (fld 7 0 w)⟩,
  ⟨[(25, 7, 0x7a), (15, 6, 0)], fun w => .mapld (guardOf w) (fld 6 9 w) (immOf 9 w)⟩,
  ⟨[(25, 7, 0x7b), (0, 21, 0)], fun w => .rtt (guardOf w)⟩,
  ⟨[(25, 7, 0x7c), (18, 3, 0), (0, 3, 0)], fun w => .conf (guardOf w) (fld 3 15 w) (fld 6 9 w) (fld 6 3 w)⟩,
  ⟨[(25, 7, 0x7c), (18, 3, 0), (0, 3, 1)], fun w => .confExit (guardOf w) (fld 3 15 w) (fld 6 9 w) (fld 6 3 w)⟩,
  ⟨[(25, 7, 0x7d), (0, 21, 0)], fun w => .nop (guardOf w)⟩,
  ⟨[(25, 7, 0x7d), (15, 6, 0), (0, 9, 1)], fun w => .iflush (guardOf w) (fld 6 9 w)⟩,
  ⟨[(25, 7, 0x7d), (0, 21, 9)], fun w => .iflushAll (guardOf w)⟩,
  ⟨[(25, 7, 0x7d), (15, 6, 0), (0, 9, 2)], fun w => .tlbinvPage (guardOf w) (fld 6 9 w)⟩,
  ⟨[(25, 7, 0x7d), (15, 6, 0), (0, 9, 10)], fun w => .tlbinvAsid (guardOf w) (fld 6 9 w)⟩,
  ⟨[(25, 7, 0x7d), (0, 21, 18)], fun w => .tlbinvAll (guardOf w)⟩,
  ⟨[(25, 7, 0x7d), (9, 12, 0), (0, 3, 3)], fun w => .dbrk (guardOf w) (fld 6 3 w)⟩,
  ⟨[(25, 7, 0x7d), (6, 9, 0), (0, 3, 4)], fun w => .getid (guardOf w) (fld 6 15 w) (fld 3 3 w)⟩,
  ⟨[(25, 7, 0x7d), (15, 6, 0), (5, 4, 0), (0, 3, 5)], fun w => .bind (guardOf w) (fld 6 9 w) (fld 2 3 w)⟩,
  ⟨[(25, 7, 0x7d), (15, 6, 0), (5, 4, 1), (0, 3, 5)], fun w => .unbind (guardOf w) (fld 6 9 w) (fld 2 3 w)⟩,
  ⟨[(25, 7, 0x7d), (15, 6, 0), (0, 9, 6)], fun w => .grey (guardOf w) (fld 6 9 w)⟩,
  ⟨[(25, 7, 0x7d), (5, 16, 0), (0, 3, 7)], fun w => .eres (guardOf w) (fld 2 3 w)⟩]

/-- The opcode table. -/
def opRows : List OpRow :=
  opRows0 ++ opRows1 ++ opRows2 ++ opRows3 ++ opRows4 ++ opRows5

/-- The instruction a single word stands for. -/
def decodeWord (w : BitVec 32) : Except DecodeError Instr :=
  if opUnassigned (opOf w) then .ok (.unassignedOpcode w)
  else
    match opRows.find? (·.matchesWord w) with
    | some r => .ok (r.build w)
    | none => .error (.reservedField w)

/-- The instruction a LIMM and the word after it stand for (R56, R57). -/
def decodePair (ext : BitVec 25) (w : BitVec 32) : Except DecodeError Instr :=
  if opTakesExt (opOf w) then .ok (.limm ext w) else .error (.badPair w)

/-- The little-endian word of the first four bytes (R51). -/
def wordOfBytes (a b c d : Byte) : BitVec 32 :=
  BitVec.ofNat 32 (a.toNat + b.toNat * 2 ^ 8 + c.toNat * 2 ^ 16 + d.toNat * 2 ^ 24)

/-- Decode the bytes at a program counter: the instruction and the bytes after it. -/
def decodeBytes : List Byte → Except DecodeError (Instr × List Byte)
  | a :: b :: c :: d :: rest =>
    let w := wordOfBytes a b c d
    if opOf w = 0x7F then
      match rest with
      | e :: f :: g :: h :: rest' =>
        match decodePair (fld 25 0 w) (wordOfBytes e f g h) with
        | .ok i => .ok (i, rest')
        | .error x => .error x
      | _ => .error .truncated
    else
      match decodeWord w with
      | .ok i => .ok (i, rest)
      | .error x => .error x
  | _ => .error .truncated

/-- The bytes of a word as memory holds them: the lowest address first (R51). -/
def bytesOfWord (w : BitVec 32) : List Byte :=
  [BitVec.ofNat 8 w.toNat, BitVec.ofNat 8 (w.toNat / 2 ^ 8), BitVec.ofNat 8 (w.toNat / 2 ^ 16),
   BitVec.ofNat 8 (w.toNat / 2 ^ 24)]

/-- The two words at the start of an instruction whose bits, numbered as the opcode table numbers
them, are `w`; every bit from `nbits` up is 0. -/
def tableWords (nbits w : Nat) : BitVec 32 × BitVec 32 :=
  let v := w % 2 ^ nbits
  (BitVec.ofNat 32 v, BitVec.ofNat 32 (v / 2 ^ 32))

/-- What the decoder reads from an instruction laid out as memory holds it. -/
def decodeTableWord (nbits w : Nat) : Option Instr :=
  let p := tableWords nbits w
  match decodeBytes (bytesOfWord p.1 ++ bytesOfWord p.2) with
  | .ok (i, _) => some i
  | .error _ => none

/-! ### The encoder -/

/-- A word from its opcode, its guard and its other bits. -/
def mkWord (op : Nat) (g : Guard) (low : Nat) : BitVec 32 :=
  BitVec.ofNat 32 (op * 2 ^ 25 + (if g.gn then 2 ^ 24 else 0) + g.gp.toNat * 2 ^ 21 + low)

/-- A field's bits at their place in the word. -/
def place (v lo : Nat) : Nat := v * 2 ^ lo

/-- The words of an instruction, from the encoding tables of spec/02; an event has none. -/
def encode : Instr → List (BitVec 32)
  | .add g d a b f => [mkWord 0x0 g (place d.toNat 15 + place a.toNat 9 + place b.toNat 3 + f.toNat)]
  | .sub g d a b f => [mkWord 0x1 g (place d.toNat 15 + place a.toNat 9 + place b.toNat 3 + f.toNat)]
  | .mul g d a b f => [mkWord 0x2 g (place d.toNat 15 + place a.toNat 9 + place b.toNat 3 + f.toNat)]
  | .mulh g d a b f => [mkWord 0x3 g (place d.toNat 15 + place a.toNat 9 + place b.toNat 3 + f.toNat)]
  | .div g d a b f => [mkWord 0x4 g (place d.toNat 15 + place a.toNat 9 + place b.toNat 3 + f.toNat)]
  | .rem g d a b f => [mkWord 0x5 g (place d.toNat 15 + place a.toNat 9 + place b.toNat 3 + f.toNat)]
  | .and g d a b f => [mkWord 0x6 g (place d.toNat 15 + place a.toNat 9 + place b.toNat 3 + f.toNat)]
  | .or g d a b f => [mkWord 0x7 g (place d.toNat 15 + place a.toNat 9 + place b.toNat 3 + f.toNat)]
  | .xor g d a b f => [mkWord 0x8 g (place d.toNat 15 + place a.toNat 9 + place b.toNat 3 + f.toNat)]
  | .andn g d a b f => [mkWord 0x9 g (place d.toNat 15 + place a.toNat 9 + place b.toNat 3 + f.toNat)]
  | .shl g d a b f => [mkWord 0xa g (place d.toNat 15 + place a.toNat 9 + place b.toNat 3 + f.toNat)]
  | .shr g d a b f => [mkWord 0xb g (place d.toNat 15 + place a.toNat 9 + place b.toNat 3 + f.toNat)]
  | .sha g d a b f => [mkWord 0xc g (place d.toNat 15 + place a.toNat 9 + place b.toNat 3 + f.toNat)]
  | .rot g d a b f => [mkWord 0xd g (place d.toNat 15 + place a.toNat 9 + place b.toNat 3 + f.toNat)]
  | .min g d a b f => [mkWord 0xe g (place d.toNat 15 + place a.toNat 9 + place b.toNat 3 + f.toNat)]
  | .max g d a b f => [mkWord 0xf g (place d.toNat 15 + place a.toNat 9 + place b.toNat 3 + f.toNat)]
  | .addi g d a i => [mkWord 0x10 g (place d.toNat 15 + place a.toNat 9 + i.bits.toNat)]
  | .muli g d a i => [mkWord 0x11 g (place d.toNat 15 + place a.toNat 9 + i.bits.toNat)]
  | .andi g d a i => [mkWord 0x12 g (place d.toNat 15 + place a.toNat 9 + i.bits.toNat)]
  | .ori g d a i => [mkWord 0x13 g (place d.toNat 15 + place a.toNat 9 + i.bits.toNat)]
  | .xori g d a i => [mkWord 0x14 g (place d.toNat 15 + place a.toNat 9 + i.bits.toNat)]
  | .shli g d a i => [mkWord 0x15 g (place d.toNat 15 + place a.toNat 9 + i.bits.toNat)]
  | .shri g d a i => [mkWord 0x16 g (place d.toNat 15 + place a.toNat 9 + i.bits.toNat)]
  | .shai g d a i => [mkWord 0x17 g (place d.toNat 15 + place a.toNat 9 + i.bits.toNat)]
  | .roti g d a i => [mkWord 0x18 g (place d.toNat 15 + place a.toNat 9 + i.bits.toNat)]
  | .mini g d a i => [mkWord 0x19 g (place d.toNat 15 + place a.toNat 9 + i.bits.toNat)]
  | .maxi g d a i => [mkWord 0x1a g (place d.toNat 15 + place a.toNat 9 + i.bits.toNat)]
  | .li g d i => [mkWord 0x1b g (place d.toNat 15 + i.bits.toNat)]
  | .lih g d i => [mkWord 0x1c g (place d.toNat 15 + i.bits.toNat)]
  | .sel g d a b f => [mkWord 0x1d g (place d.toNat 15 + place a.toNat 9 + place b.toNat 3 + f.toNat)]
  | .absd g d a b f => [mkWord 0x1e g (place d.toNat 15 + place a.toNat 9 + place b.toNat 3 + f.toNat)]
  | .mac g d a b f => [mkWord 0x1f g (place d.toNat 15 + place a.toNat 9 + place b.toNat 3 + f.toNat)]
  | .fadd g d a b f => [mkWord 0x20 g (place d.toNat 15 + place a.toNat 9 + place b.toNat 3 + f.toNat)]
  | .fsub g d a b f => [mkWord 0x21 g (place d.toNat 15 + place a.toNat 9 + place b.toNat 3 + f.toNat)]
  | .fmul g d a b f => [mkWord 0x22 g (place d.toNat 15 + place a.toNat 9 + place b.toNat 3 + f.toNat)]
  | .ffma g d a b f => [mkWord 0x23 g (place d.toNat 15 + place a.toNat 9 + place b.toNat 3 + f.toNat)]
  | .fmin g d a b => [mkWord 0x24 g (place d.toNat 15 + place a.toNat 9 + place b.toNat 3)]
  | .fmax g d a b => [mkWord 0x25 g (place d.toNat 15 + place a.toNat 9 + place b.toNat 3)]
  | .fcvt g d a f => [mkWord 0x26 g (place d.toNat 15 + place a.toNat 9 + f.toNat)]
  | .funOp g d a f => [mkWord 0x27 g (place d.toNat 15 + place a.toNat 9 + f.toNat)]
  | .fcmp g d a b f => [mkWord 0x28 g (place d.toNat 15 + place a.toNat 9 + place b.toNat 3 + f.toNat)]
  | .rsz g d m w i => [mkWord 0x29 g (place d.toNat 15 + place m.toNat 8 + place w.toNat 6 + i.toNat)]
  | .widq g d w i => [mkWord 0x2a g (place d.toNat 15 + place w.toNat 6 + i.toNat)]
  | .ext g d a s => [mkWord 0x2b g (place d.toNat 15 + place a.toNat 9 + s.toNat)]
  | .ins g d a s => [mkWord 0x2c g (place d.toNat 15 + place a.toNat 9 + s.toNat)]
  | .bitc g d a f => [mkWord 0x2d g (place d.toNat 15 + place a.toNat 9 + f.toNat)]
  | .cmp g d a b f => [mkWord 0x2e g (place d.toNat 15 + place a.toNat 9 + place b.toNat 3 + f.toNat)]
  | .cmpi g c d a i => [mkWord 0x2f g (place c.toNat 18 + place d.toNat 15 + place a.toNat 9 + i.bits.toNat)]
  | .mov g d a f => [mkWord 0x30 g (place d.toNat 15 + place a.toNat 9 + f.toNat)]
  | .vfirst g d a f => [mkWord 0x31 g (place d.toNat 15 + place a.toNat 9 + f.toNat)]
  | .vlane g d a b f => [mkWord 0x32 g (place d.toNat 15 + place a.toNat 9 + place b.toNat 3 + f.toNat)]
  | .vred g d a f => [mkWord 0x33 g (place d.toNat 15 + place a.toNat 9 + f.toNat)]
  | .vpredAny g d a => [mkWord 0x34 g (place d.toNat 15 + place a.toNat 9)]
  | .vpredAll g d a => [mkWord 0x34 g (place d.toNat 15 + place a.toNat 9 + 1)]
  | .vpredCount g d a => [mkWord 0x34 g (place d.toNat 15 + place a.toNat 9 + 2)]
  | .vidx g d f => [mkWord 0x35 g (place d.toNat 15 + f.toNat)]
  | .vshuf g d a b f => [mkWord 0x36 g (place d.toNat 15 + place a.toNat 9 + place b.toNat 3 + f.toNat)]
  | .vscan g d a b f => [mkWord 0x37 g (place d.toNat 15 + place a.toNat 9 + place b.toNat 3 + f.toNat)]
  | .br g i => [mkWord 0x38 g (i.bits.toNat)]
  | .call g i => [mkWord 0x39 g (i.bits.toNat)]
  | .jr g a => [mkWord 0x3a g (place a.toNat 9)]
  | .callr g a => [mkWord 0x3b g (place a.toNat 9)]
  | .loop g d i => [mkWord 0x3c g (place d.toNat 15 + i.bits.toNat)]
  | .brany g i => [mkWord 0x3d g (i.bits.toNat)]
  | .brall g i => [mkWord 0x3e g (i.bits.toNat)]
  | .ipf g i => [mkWord 0x3f g (i.bits.toNat)]
  | .ldb g d a i => [mkWord 0x40 g (place d.toNat 15 + place a.toNat 9 + i.bits.toNat)]
  | .ldh g d a i => [mkWord 0x41 g (place d.toNat 15 + place a.toNat 9 + i.bits.toNat)]
  | .ldw g d a i => [mkWord 0x42 g (place d.toNat 15 + place a.toNat 9 + i.bits.toNat)]
  | .ldd g d a i => [mkWord 0x43 g (place d.toNat 15 + place a.toNat 9 + i.bits.toNat)]
  | .ldx g d a b s => [mkWord 0x44 g (place d.toNat 15 + place a.toNat 9 + place b.toNat 3 + s.toNat)]
  | .ldg g d a b s => [mkWord 0x45 g (place d.toNat 15 + place a.toNat 9 + place b.toNat 3 + s.toNat)]
  | .ldo g d a s o z => [mkWord 0x46 g (place d.toNat 15 + place a.toNat 9 + place s.toNat 4 + place o.toNat 2 + z.toNat)]
  | .ldt g d a i => [mkWord 0x47 g (place d.toNat 15 + place a.toNat 9 + i.bits.toNat)]
  | .ldk g d a i => [mkWord 0x48 g (place d.toNat 15 + place a.toNat 9 + i.bits.toNat)]
  | .pref g a i => [mkWord 0x49 g (place a.toNat 9 + i.bits.toNat)]
  | .plog g d a b f => [mkWord 0x4e g (place d.toNat 15 + place a.toNat 9 + place b.toNat 3 + f.toNat)]
  | .plogMov g d a => [mkWord 0x4e g (place d.toNat 15 + place a.toNat 9 + 3)]
  | .pmovR g d => [mkWord 0x4f g (place d.toNat 15)]
  | .pmovW g a f => [mkWord 0x4f g (place a.toNat 9 + place f.toNat 2 + 1)]
  | .pmovFc g f => [mkWord 0x4f g (place f.toNat 2 + 2)]
  | .stb g d a i => [mkWord 0x50 g (place d.toNat 15 + place a.toNat 9 + i.bits.toNat)]
  | .sth g d a i => [mkWord 0x51 g (place d.toNat 15 + place a.toNat 9 + i.bits.toNat)]
  | .stw g d a i => [mkWord 0x52 g (place d.toNat 15 + place a.toNat 9 + i.bits.toNat)]
  | .std g d a i => [mkWord 0x53 g (place d.toNat 15 + place a.toNat 9 + i.bits.toNat)]
  | .stx g d a b s => [mkWord 0x54 g (place d.toNat 15 + place a.toNat 9 + place b.toNat 3 + s.toNat)]
  | .sts g d a b s => [mkWord 0x55 g (place d.toNat 15 + place a.toNat 9 + place b.toNat 3 + s.toNat)]
  | .sto g d a s o z => [mkWord 0x56 g (place d.toNat 15 + place a.toNat 9 + place s.toNat 4 + place o.toNat 2 + z.toNat)]
  | .put g d a i => [mkWord 0x57 g (place d.toNat 15 + place a.toNat 9 + i.bits.toNat)]
  | .rsv g d a i => [mkWord 0x58 g (place d.toNat 15 + place a.toNat 9 + i.bits.toNat)]
  | .rel g d a i => [mkWord 0x59 g (place d.toNat 15 + place a.toNat 9 + i.bits.toNat)]
  | .faa g d a b => [mkWord 0x5a g (place d.toNat 15 + place a.toNat 9 + place b.toNat 3)]
  | .swp g d a b => [mkWord 0x5b g (place d.toNat 15 + place a.toNat 9 + place b.toNat 3)]
  | .cas g d a b => [mkWord 0x5c g (place d.toNat 15 + place a.toNat 9 + place b.toNat 3)]
  | .feset g s a i => [mkWord 0x5d g (place s.toNat 15 + place a.toNat 9 + i.bits.toNat)]
  | .fetest g d a i => [mkWord 0x5e g (place d.toNat 15 + place a.toNat 9 + i.bits.toNat)]
  | .enq g a e => [mkWord 0x60 g (place a.toNat 9 + e.toNat)]
  | .pop g d e => [mkWord 0x61 g (place d.toNat 15 + e.toNat)]
  | .epeek g d e => [mkWord 0x62 g (place d.toNat 15 + e.toNat)]
  | .cxset g a r => [mkWord 0x63 g (place a.toNat 9 + r.toNat)]
  | .cxgo g d => [mkWord 0x64 g (place d.toNat 15)]
  | .send g a b c => [mkWord 0x65 g (place a.toNat 9 + place b.toNat 3 + c.toNat)]
  | .mrecv g d a c => [mkWord 0x66 g (place d.toNat 15 + place a.toNat 9 + c.toNat)]
  | .qctl g d a s => [mkWord 0x67 g (place d.toNat 15 + place a.toNat 9 + s.toNat)]
  | .fnew g d a => [mkWord 0x68 g (place d.toNat 15 + place a.toNat 9)]
  | .fset g a b => [mkWord 0x69 g (place a.toNat 9 + place b.toNat 3)]
  | .fget g d a s => [mkWord 0x6a g (place d.toNat 15 + place a.toNat 9 + s.toNat)]
  | .fexp g a b => [mkWord 0x6b g (place a.toNat 9 + place b.toNat 3)]
  | .fdec g a => [mkWord 0x6c g (place a.toNat 9)]
  | .post g d a r => [mkWord 0x6d g (place d.toNat 15 + place a.toNat 9 + r.toNat)]
  | .roam g a => [mkWord 0x6e g (place a.toNat 9)]
  | .pubsh g a b => [mkWord 0x6f g (place a.toNat 9 + place b.toNat 3)]
  | .stopref g a => [mkWord 0x6f g (place a.toNat 9 + 1)]
  | .settle g a => [mkWord 0x6f g (place a.toNat 9 + 2)]
  | .fcancel g a b => [mkWord 0x6f g (place a.toNat 9 + place b.toNat 3 + 3)]
  | .mon g a m => [mkWord 0x70 g (place a.toNat 9 + m.toNat)]
  | .monx g d a m => [mkWord 0x70 g (place d.toNat 15 + place a.toNat 9 + m.toNat + 4)]
  | .waita g d a => [mkWord 0x71 g (place d.toNat 15 + place a.toNat 9)]
  | .bara g k => [mkWord 0x72 g (k.toNat)]
  | .barw g k => [mkWord 0x72 g (k.toNat + 4)]
  | .fence g d a s => [mkWord 0x73 g (place d.toNat 15 + place a.toNat 9 + s.toNat)]
  | .start g d a b => [mkWord 0x74 g (place d.toNat 15 + place a.toNat 9 + place b.toNat 3)]
  | .join g a => [mkWord 0x75 g (place a.toNat 9)]
  | .exit g => [mkWord 0x76 g (0)]
  | .yield g => [mkWord 0x76 g (1)]
  | .waitmsg g => [mkWord 0x77 g (0)]
  | .trap g i => [mkWord 0x78 g (i.bits.toNat)]
  | .ctlr g d r => [mkWord 0x79 g (place d.toNat 15 + r.toNat)]
  | .ctlw g a r => [mkWord 0x79 g (place a.toNat 9 + r.toNat + 128)]
  | .ctlx g d a r => [mkWord 0x79 g (place d.toNat 15 + place a.toNat 9 + r.toNat + 256)]
  | .mapld g a i => [mkWord 0x7a g (place a.toNat 9 + i.bits.toNat)]
  | .rtt g => [mkWord 0x7b g (0)]
  | .conf g d a b => [mkWord 0x7c g (place d.toNat 15 + place a.toNat 9 + place b.toNat 3)]
  | .confExit g d a b => [mkWord 0x7c g (place d.toNat 15 + place a.toNat 9 + place b.toNat 3 + 1)]
  | .nop g => [mkWord 0x7d g (0)]
  | .iflush g a => [mkWord 0x7d g (place a.toNat 9 + 1)]
  | .iflushAll g => [mkWord 0x7d g (9)]
  | .tlbinvPage g a => [mkWord 0x7d g (place a.toNat 9 + 2)]
  | .tlbinvAsid g a => [mkWord 0x7d g (place a.toNat 9 + 10)]
  | .tlbinvAll g => [mkWord 0x7d g (18)]
  | .dbrk g c => [mkWord 0x7d g (place c.toNat 3 + 3)]
  | .getid g d f => [mkWord 0x7d g (place d.toNat 15 + place f.toNat 3 + 4)]
  | .bind g a c => [mkWord 0x7d g (place a.toNat 9 + place c.toNat 3 + 5)]
  | .unbind g a c => [mkWord 0x7d g (place a.toNat 9 + place c.toNat 3 + 37)]
  | .grey g a => [mkWord 0x7d g (place a.toNat 9 + 6)]
  | .eres g e => [mkWord 0x7d g (place e.toNat 3 + 7)]
  | .limm ext w => [BitVec.ofNat 32 (0x7F * 2 ^ 25 + ext.toNat), w]
  | .unassignedOpcode w => [w]
  | .patchSubstitute _ => []
  | .accessReply _ => []
  | .strandRejoin _ => []
  | .repackRowWrite _ => []
  | .repackUnlock _ => []
  | .monitorNotice _ _ => []
  | .waitaTimeout _ _ => []
  | .barrierArrival _ _ _ _ => []
  | .barrierRelease _ _ _ => []
  | .takeResend _ => []
  | .reservationGrant _ => []
  | .rsvholdTimeout _ _ _ => []
  | .mma _ => []
  | .mmas _ => []
  | .mmaq _ => []
  | .mmat _ => []
  | .accz _ => []
  | .accld _ => []
  | .accst _ => []
  | .accadd _ => []
  | .vtmap _ => []
  | .vtbin _ => []
  | .vtred _ => []
  | .vtsmax _ => []
  | .vtnorm _ => []
  | .vtcvt _ => []
  | .vthaar _ => []
  | .vtihaar _ => []
  | .vtconf _ => []
  | .vtkvLoad _ => []
  | .vtkvStore _ => []
  | .mmaqSlotTake _ => []
  | .vtkvEntryWake _ => []
  | .engineFaultTrap _ _ => []
  | .copy2 _ _ => []
  | .copy3 _ _ => []
  | .slab _ _ => []
  | .gather _ _ => []
  | .scatter _ _ => []
  | .bcast _ _ => []
  | .reduce _ _ => []
  | .table _ _ => []
  | .tableSlotWrite _ _ => []
  | .copyChunk _ _ => []
  | .copyComplete _ _ => []
  | .inboxDelivery _ _ _ => []
  | .mailboxDelivery _ _ _ _ => []
  | .queueTransfer _ _ => []
  | .roamPacketArrival _ => []
  | .guestAdmit _ => []
  | .taskDispatch _ => []
  | .footprintFetchDone _ => []
  | .recordUrgent _ => []
  | .taskRetire _ => []
  | .groupMemberUpdate _ _ => []
  | .confExitJobPost _ => []
  | .backfillJobStart _ => []
  | .backfillLayerDone _ => []
  | .backfillPlacementTimeout _ => []
  | .lqpush _ _ => []
  | .launchAdmit => []
  | .launchStartBroadcast _ => []
  | .launchEnd _ => []
  | .watchdogExpiry _ => []
  | .greyOut _ => []
  | .restore _ => []
  | .faultQueuePost _ => []
  | .freply _ _ => []
  | .fqheadWrite _ _ => []
  | .lrheadWrite _ => []
  | .futnew => []
  | .futfree _ => []
  | .pooldecWrite _ _ => []
  | .pcapWrite _ => []
  | .attreq _ => []
  | .attestationDone => []
  | .ckptSramImage _ => []
  | .ckptWholeDeviceImage _ => []
  | .ckptRestore _ => []
  | .ckptDone _ => []
  | .deviceRegisterWrite _ _ => []
  | .migrationWindow => []
  | .pageMigration _ _ _ => []
  | .vaultRowRetire _ _ => []
  | .linkFlitReceive _ _ => []
  | .patchTableLoad _ => []
  | .powerOnReset _ => []
  | .thermalThrottle _ _ => []
  | .thermalShutdown => []
  | .kydbHalt _ => []
  | .kydbResume _ => []
  | .fetchLineArrival _ => []
  | .iflushComplete _ => []
  | .tlbinvComplete _ => []
  | .replicaRemovalDone _ _ => []
  | .liftTheFreeze _ => []
  | .endLaunchAsHung _ => []
  | .reservedCommand _ _ => []

/-- The bytes of an instruction, in memory order. -/
def encodeBytes (i : Instr) : List Byte := (encode i).flatMap bytesOfWord

end Sys2Proof
end

