-- ==== Sys2Proof/Machine/State.lean ====
section
/-!
DEFINITION. The state of a whole module as plain data: everything the spec gives the machine (spec/01 R11-R44
and the chapters each field cites). Tables of like things (cores, strands, futures, tasks) are lists keyed by
a number, in rising order of the key; an entry that is not listed has its reset value. A core's key is its physical
number p (R280); a strand's key is 16p + slot; a future's is its index.
-/

namespace Sys2Proof.Machine

/-- A table: values keyed by a number. -/
abbrev Table (β : Type) := List (Nat × β)

/-- Why the machine stops. The spec stops the whole machine nowhere: a trap is taken, a strand parks or leaves rotation,
and a module whose dies have no power still answers at its hub (R432, R438). No step raises a fault. -/
inductive Fault where
deriving DecidableEq, Repr

/-- Why a step has no meaning. -/
inductive Refusal where
  /-- The instruction with this mnemonic is not modelled, raised by an arm of `exec`. Safe: no claim about the
  instruction can be proved from it. -/
  | notModelled (mnemonic : String)
deriving DecidableEq, Repr

/-- A strand's own copy of a register map (R13, R23, R24): the header and entries 1..COUNT. An empty copy
has header 0 and no entry. -/
structure MapCopy where
  header  : BitVec 64
  entries : List (BitVec 32)
deriving DecidableEq, Repr

/-- A monitor (R133-R137): the watched line as a physical line number, its virtual page for R137's reason
6, whether it is armed, whether the home has triggered it and whether the notice has arrived, the moment
of arming (R331), and whether the home's table has dropped it (R137 reason 1). -/
structure Monitor where
  armed     : Bool
  line      : Nat
  page      : Nat
  fired     : Bool
  triggered : Bool
  armedAt   : Nat
  dropped   : Bool
deriving DecidableEq, Repr

/-- One lane's part of a take (R170): the address of its LDT, the effective address, the word, and the value once the take
is granted. -/
structure TakeLane where
  pc   : BitVec 48
  lane : Nat
  ea   : Nat
  word : Nat
  got  : Option (BitVec 64)
deriving DecidableEq, Repr

/-- A backfill job as CONF.exit forms it (R152, R374, R375); `task` is the handle of its present routine's future and `kv`
the descriptor of its region as CONF.exit read it. `tested` marks a layer whose state byte has been found not VALID and has
not been written since, and `found` holds its record once that has been read, its bytes, its map and the physical address of
a near-region footprint: where the job waits, it goes on from there (R374, R375). While its launch is greyed out, `p` is the
logical core and `cluster` 2048, which stands for none. -/
structure Job where
  lid     : Nat
  asid    : Nat
  sv      : Bool
  tvec    : BitVec 48
  wid     : BitVec 64
  tok     : Nat
  layer   : Nat
  last    : Nat
  bfjob   : BitVec 48
  handle  : BitVec 32
  desc    : BitVec 48
  kv      : BitVec 512
  p       : Nat
  cluster : Nat
  running : Bool
  waiting : Bool
  filled  : Nat
  fault   : Bool
  task    : Option Nat
  tested  : Bool
  found   : Option (BitVec 2048 × MapCopy × Option Nat)
deriving DecidableEq, Repr

/-- What an instruction that has parked and will issue again has obtained meanwhile; it goes with the instruction. -/
inductive Answer where
  /-- an FGET or SETTLE was served: the handle, the entry's Value then, and whether it was not cancelled (R199, R362) -/
  | future (h : BitVec 32) (v : BitVec 64) (ok : Bool)
  /-- the KVDESC that an LDK captured at its issue (R174) -/
  | kvdesc (v : BitVec 64)
  /-- a MON or MONX of an address whose arming is recorded at the line's home, with the word MONX loaded (R133, R159) -/
  | armed (ea : BitVec 48) (v : BitVec 64)
  /-- a CONF.exit whose marks have been performed, with the job it has formed (R152 step 4, R159) -/
  | exit (j : Job)
  /-- the cause word of a WAITA that was woken and waits to write it (R136, R106) -/
  | cause (w : BitVec 64)
deriving DecidableEq, Repr

/-- What a parked strand waits for (R12, R163, R395 and the entry of each instruction). -/
inductive Park where
  /-- the reply of a remote access, already performed (R163) -/
  | reply
  /-- a missing translation of this address; the fault entry carries the number (R395) -/
  | fault (va : BitVec 48) (entry : Nat)
  /-- an inbox, queue or stream name (R35) -/
  | names
  /-- a deferred take (R170) -/
  | take
  /-- a take its bank refused (R172) -/
  | takeRefused
  /-- the reservation queue of this word (R177) -/
  | reservation (w : Nat)
  /-- a PENDING key/value entry, its state byte (R174) -/
  | kvEntry (pa : Nat)
  /-- room in a command queue, 0 MX, 1 VX (R182) -/
  | engineRoom (e : Nat)
  /-- a result element (R185) -/
  | element (e : Nat)
  /-- one of the four copies to end (R187) -/
  | copyRoom
  /-- room at the destination core of a SEND (R191, R192) -/
  | sendRoom (p : Nat)
  /-- the restore of a launch that holds the destination (R190) -/
  | greyedTarget (lid : Nat)
  /-- a message of this class (R193) -/
  | message (cls : Nat)
  /-- WAITMSG (R132) -/
  | waitMsg
  /-- WAITA: destination and timeout name, its deadline if any, the length of the instruction (R136), 0 in a substitute,
  which reissues when woken (R419) -/
  | waitA (nd na : NameIx) (deadline : Option Nat) (len : Nat)
  /-- the release of the episode on BRECTr; the flag marks a BARW, which completes at it (R138) -/
  | barrier (r : Nat) (w : Bool) (len : Nat)
  /-- JOIN on a slot (R127) -/
  | join (slot : Nat)
  /-- the control strand's EXIT, until no helper lives (R129) -/
  | helpers
  /-- FGET or SETTLE on a future, with a minimum shade (R199, R209) -/
  | future (h : BitVec 32) (minShade : Nat)
  /-- a waiter node of a home (R362) -/
  | nodes (home : Nat)
  /-- room in a task queue (R204) -/
  | postRoom (c : Nat)
  /-- the arming of a MON or MONX to be recorded at the line's home (R133) -/
  | arming
  /-- the marks of CONF.exit (R152 step 4) -/
  | marks
  /-- room in a backfill queue, the job being formed (R152 step 5) -/
  | backfillRoom (c : Nat)
  /-- rows locked by a repack (R106) -/
  | repack
  /-- IFLUSH (R155) -/
  | flush
  /-- TLBINV, and the chunks of copies that hold a translation it removes, each its core, copy and virtual page
  (R156, R402) -/
  | tlbInv (chunks : List (Nat × Nat × Nat))
  /-- GREY of a launch (R158) -/
  | grey (lid : Nat)
  /-- an access to a page being migrated, or to a replicated page (R304): ASID and 64 KiB page -/
  | migration (asid page : Nat)
  /-- an instruction line (R290) -/
  | fetch (va : Nat)
  /-- its writes to device registers, in order: the first is under way (R316, R427) -/
  | device (writes : List Instr)
  /-- the commands and copies that a FENCE waits for (R142) -/
  | engines
  /-- an event of the launch's replay log that has to come first (R356) -/
  | replay (lid : Nat)
  /-- a task strand bound by its dispatcher, until its footprint is in place (R349) -/
  | dispatch
deriving DecidableEq, Repr

/-- The run state of a strand (R12): in rotation since a cycle, woken and to rejoin, parked with a
cause, or out of rotation for good (R339). -/
inductive Run where
  | ready (since : Nat)
  | woken
  | parked (c : Park)
  | stopped
deriving DecidableEq, Repr

/-- A live strand (R12). -/
structure Strand where
  pc       : BitVec 48
  sv       : Bool
  psv      : Bool
  resumed  : Bool
  tsl      : Bool
  role     : BitVec 2
  tvec     : BitVec 48
  epc      : BitVec 48
  ecause   : BitVec 8
  eval     : BitVec 64
  pword    : BitVec 16
  q        : BitVec 128
  map      : MapCopy
  ubase    : BitVec 14
  usize    : BitVec 15
  lbase    : BitVec 13
  lsize    : BitVec 14
  wid      : BitVec 64
  helper   : Bool
  lid      : Nat
  mons     : List Monitor
  run      : Run
  holds    : Option (Nat × BitVec 48 × Nat)
  takes    : List TakeLane
  pend     : List (BitVec 8 × BitVec 64)
  task     : Option Nat
  shade0   : BitVec 4
  standIn  : BitVec 32
  stopped  : Bool
  job      : Option Job
  /-- the line of its line buffer: virtual line, physical line, words (R290) -/
  lineBuf  : Option (Nat × Nat × BitVec 512)
  /-- the cycle of its last issue (R277, R342) -/
  lastIssue : Option Nat
  yieldAt  : Option Nat
  /-- the cycle in which kydb halted it (R278) -/
  halted   : Option Nat
  skipBrk  : Bool
  /-- the cycle in which it parked (R352) -/
  parkedAt : Nat
  /-- the model's own: tells strands apart for as long as the module runs (R142) -/
  uid      : Nat
  answer   : Option Answer
deriving DecidableEq, Repr

/-- A command an engine holds, with what its ENQ captured (R47, R182, R222, R443): the words, their offset in the local
store, TAU0-TAU3, KVDESC, the mode, the physical cores of the issuing core's peers, the strand while it lives, its slot
and number, the cap of its publications (R207), its launch, and when it was issued. -/
structure EngineCmd where
  words  : BitVec 256
  off    : Nat
  tau    : List (BitVec 32)
  kvdesc : BitVec 64
  sv     : Bool
  peers  : Table Nat
  key    : Option Nat
  uid    : Nat
  slot   : Nat
  cap    : Nat
  lid    : Nat
  born   : Nat
deriving DecidableEq, Repr

/-- An MX accumulator tile: element (i, j) in bits 32(32i + j) upwards, and its attributes (R227).
`ty` 0 FP32, 1 INT32; `dom` 0 unset, 1 plain, 2 hrow. -/
structure Acc where
  vals  : BitVec 32768
  ty    : BitVec 1
  dom   : BitVec 2
  lvl   : BitVec 3
  shade : BitVec 4
  mask  : BitVec 32
deriving DecidableEq, Repr

/-- What an MMAQ holds between its operand fetch and its end (R378): the operands as fetched (rows of A by K block,
tiles of B), the rows that are not skipped, A's shade, the block it takes next, the tables taken for the present K
block, the working copy, the element flags gathered so far. -/
structure MmaqWork where
  a      : List (List (BitVec 512))
  b      : List (BitVec 3072)
  live   : BitVec 32
  shade  : BitVec 4
  blk    : Nat
  tables : List (BitVec 128)
  acc    : Acc
  flags  : BitVec 8
deriving DecidableEq, Repr

/-- An MX or VX engine (R38, R39, R220, R399). A result element carries the stand-in handle of the command that
produced it, 0 for none (R366). `fault` is the address and access of the missing translation that stopped it; `stalled`
the physical state byte a VTKV waits on (R246); `finished` is the element of a command whose writes are done and whose
completion waits for room in the FIFO (R39) or for its turn in a replay, with its stand-in handle. -/
structure Engine where
  executing : Option EngineCmd
  queue     : List EngineCmd
  fifo      : List (BitVec 64 × BitVec 32)
  fault     : Option (BitVec 48 × Nat)
  work      : Option MmaqWork
  stalled   : Option Nat
  finished  : Option (BitVec 64 × BitVec 32)
deriving DecidableEq, Repr

/-- The translation that a chunk of a TABLE holds (R401): the virtual page, the physical page address, the leaf, and the
first and last address of what the translation covers (R402); a near-region window has none, which `hi` 0 below `lo` 1
says. -/
structure Held where
  page : Nat
  pa   : Nat
  leaf : Nat
  lo   : Nat
  hi   : Nat
deriving DecidableEq, Repr

/-- A copy in flight (R187, R401): what CXGO captured (with the physical cores of the peers, R47), the run and the offset it
has reached, the bytes written, its status once it has ended, the address and access (from bit 48) of the fault entry it
waits on, the index of its present run (GATHER, SCATTER), by physical address what the bytes it has written held before
(R253), by physical block number the leaf and the bytes written, one bit each, of TOLERANT blocks it has covered in part
(R299), the translation that a chunk of a TABLE holds (R401), by physical address the bytes of 4-byte words that it has not
had whole yet, each with its virtual address and leaf (R253), and the translations through which its writes that are still to
be performed were made (R402). -/
structure Copy where
  regs   : List (BitVec 64)
  peers  : Table Nat
  uid    : Nat
  slot   : Nat
  lid    : Nat
  asid   : Nat
  sv     : Bool
  mode   : Nat
  run    : Nat
  off    : Nat
  bytes  : Nat
  status : Option Nat
  fault  : Option Nat
  index  : Option Nat
  old    : Table Byte
  cover  : Table (Nat × Nat)
  held   : Option Held
  part   : Table (Nat × Nat × Byte)
  dests  : List Held
deriving DecidableEq, Repr

/-- A mailbox message (R192): class 0 COPY, 1 NOTE, 2 USER0, 3 USER1. -/
structure Msg where
  cls : Nat
  lo  : BitVec 64
  hi  : BitVec 64
deriving DecidableEq, Repr

/-- An inbox slot (R191). -/
structure Inbox where
  present  : Bool
  value    : BitVec 64
  overflow : List (BitVec 64)
deriving DecidableEq, Repr

/-- A network queue (R194). -/
structure NetQueue where
  setting : BitVec 64
  items   : List (BitVec 64)
deriving DecidableEq, Repr

/-- A stream descriptor (R195). -/
structure Stream where
  setting : BitVec 64
  cursor  : Nat
deriving DecidableEq, Repr

/-- A write-merge buffer entry (R286); `view` 0 E2M1, 1 cb3, 2 E4M3, 3 E5M2; `who` are the strands whose stores it
holds. -/
structure MergeEntry where
  view    : Nat
  block   : Nat
  who     : List Nat
  config  : BitVec 64
  vals    : BitVec 512
  written : BitVec 32
deriving DecidableEq, Repr

/-- A table-store slot (R38): entry e in bits 16e upwards. -/
structure TableSlot where
  bits : BitVec 128
  full : Bool
deriving DecidableEq, Repr

/-- A core's barrier state for one BRECT (R138-R141, R327): ARRIVED, whether its arrival has been sent on, and the
arrivals that have reached it, each the rectangle it carries with the logical core it comes from. -/
structure Barrier where
  arrived : Bool
  sent    : Bool
  held    : List (BitVec 64 × Nat)
deriving DecidableEq, Repr

/-- A repack under way (R105): the strand, the bank, the first row, the number of rows, the rows rewritten, what
the bank holds afterwards, the map that takes effect with the flags set and the PC reached. -/
structure Repack where
  key   : Nat
  lane  : Bool
  lo    : Nat
  n     : Nat
  done  : Nat
  ubits : BitVec 16384
  lbits : BitVec 131072
  map   : MapCopy
  flags : BitVec 8
  next  : BitVec 48
deriving DecidableEq, Repr

/-- Where a roaming packet goes (R206). -/
inductive RoamDest where
  | core (p : Nat)
  | cluster (c : Nat)
deriving DecidableEq, Repr

/-- A roaming packet (R345): the strand's private state and its names, packed by R31. `landed` marks one that has arrived,
its core chosen, and waits for room in the core's guest queue (R346). -/
structure Packet where
  strand : Strand
  names  : BitVec 1536
  dest   : RoamDest
  landed : Bool
deriving DecidableEq, Repr

/-- A translation that a TLB holds (R389): ASID, virtual base, log2 of its size, the leaf as inserted, the physical
base. -/
structure TlbEnt where
  asid    : Nat
  va      : Nat
  bits    : Nat
  leaf    : BitVec 64
  pa      : Nat
deriving DecidableEq, Repr

/-- A pointer entry that a cluster's walk cache holds (R389): the ASID, the level whose table it was read from, the
virtual base of what it covers, the entry. -/
structure WalkEnt where
  asid  : Nat
  level : Nat
  va    : Nat
  entry : BitVec 64
deriving DecidableEq, Repr

/-- A core (R38, R40). Lane l's bank lies in bits 8192l upwards of `lbank`; row r of a bank in bits 64r upwards. `lid` is 0
while no launch holds the core. `l1`, `itlb` and `dtlb` are the core's own caches (R289, R389), `issued` the last cycle in
which it issued (R342), `idBase` the copy identifier that was next when its launch took it. `ctl` holds the per-core control
registers of R40 by number. -/
structure Core where
  ubank   : BitVec 16384
  lbank   : BitVec 131072
  badRows : List (Nat × Nat)
  tstore  : Table TableSlot
  badSlots : List Nat
  accs    : Table Acc
  mx      : Engine
  vx      : Engine
  cx      : Table (BitVec 64)
  nextId  : Nat
  idBase  : Nat
  copies  : Table Copy
  l1      : List (Nat × BitVec 512)
  itlb    : List TlbEnt
  dtlb    : List TlbEnt
  mailbox : List Msg
  binds   : Table Nat
  inbox   : Table Inbox
  inq     : Table NetQueue
  outq    : Table NetQueue
  streams : Table Stream
  wmb     : List MergeEntry
  ctl     : Table (BitVec 64)
  bars    : Table Barrier
  repack  : Option Repack
  guests  : List Packet
  lid     : Nat
  logical : Nat
  issued  : Option Nat
deriving DecidableEq, Repr

/-- Future states (R196). -/
inductive FutState where
  | empty
  | pending
  | resolved
  | cancelled
deriving DecidableEq, Repr

/-- Who waits on a future (R362). -/
inductive WaiterKind where
  | strand
  | record
  | refire
  | promote
  | backfill
deriving DecidableEq, Repr

/-- A waiter node: its kind, the strand key or task number it stands for, and its minimum shade. -/
structure Waiter where
  kind : WaiterKind
  ref  : Nat
  min  : Nat
deriving DecidableEq, Repr

/-- A future entry (R196, R358-R361). `owner` is 0 for none; `anon` marks a task future whose handle no
strand holds; `group` is the settle group of a task future. `producer` is the key of a strand; while its launch is greyed
out, 2^30 + 2^20 times the launch's identifier + the key by logical core (R377). -/
structure Future where
  st       : FutState
  value    : BitVec 64
  pub      : Bool
  shade    : BitVec 4
  count    : Nat
  stop     : Bool
  producer : Option Nat
  waiters  : List Waiter
  gen      : BitVec 8
  owner    : Nat
  anon     : Bool
  group    : BitVec 32
deriving DecidableEq, Repr

/-- Where a task stands (R347-R351). -/
inductive TaskState where
  | waiting
  /-- since a cycle, and its place in the order in which records became ready (R348) -/
  | ready (since seq : Nat)
  | fetching (p slot run : Nat)
  | running (p run : Nat)
  /-- its run has exited: its core, the run's number, the key of the strand that exited (R205) -/
  | retiring (p run who : Nat)
deriving DecidableEq, Repr

/-- A posted record and its task (R203, R204, R347). `foot` is the footprint's virtual address, `footPa` the
physical one when POST resolved a near-region address. -/
structure Task where
  entry   : BitVec 48
  map     : MapCopy
  foot    : BitVec 48
  footPa  : Option Nat
  flen    : Nat
  waitf   : BitVec 32
  minShade : Nat
  init    : BitVec 1536
  refire  : Bool
  handle  : BitVec 32
  lid     : Nat
  asid    : Nat
  sv      : Bool
  tvec    : BitVec 48
  wid     : BitVec 64
  home    : Nat
  st      : TaskState
  urgent  : Bool
  shade0  : BitVec 4
  f7      : Bool
  standIn : BitVec 32
  stopped : Bool
  job     : Option Nat
  late    : Bool
  fault   : Option Nat
deriving DecidableEq, Repr

/-- A range descriptor as loaded (R388, R389). -/
structure RangeEnt where
  vbase : Nat
  vlast : Nat
  pbase : Nat
  attr  : BitVec 64
deriving DecidableEq, Repr

/-- A launch (R332-R341). `coreMap` is the core table as captured at admission, logical core 256y + x to
physical core (R414); `fe` is the bitmap of its image's full/empty states (R407), `greying` marks a grey-out under way
(R404); `rrPos` is where the next recorded event goes and `rrDone` the
logged events a replay has performed, `rrWait` the recorded events that wait to be written, first first (R355-R357). -/
structure Launch where
  hdr      : BitVec 2048
  hdrAddr  : BitVec 48
  queue    : Nat
  asid     : Nat
  ctx      : Nat
  coreMap  : Table Nat
  ranges   : List RangeEnt
  fe       : Option (BitVec 16384)
  started  : Bool
  greying  : Bool
  frozen   : Bool
  frozenIn : List Nat
  hung     : Bool
  wdogLeft : Nat
  rrPos    : Nat
  rrFull   : Bool
  rrDone   : List Nat
  rrWait   : List (Nat × Nat)
deriving DecidableEq, Repr

/-- An entry of a launch queue: a pushed header, or a greyed-out launch that has returned (R354). -/
inductive QItem where
  | push (v : BitVec 64)
  | back (lid : Nat)
deriving DecidableEq, Repr

/-- A launch saved at grey-out (R405), by logical core: cores, strands (16 times the logical core plus the slot),
local-store bytes by offset, EMPTY and uncorrectable words by offset; the events that were pending for it, with
logical cores in place of physical ones. -/
structure Saved where
  launch  : Launch
  cores   : Table Core
  strands : Table Strand
  ls      : Table (List Host.Cell)
  empties : Table (List Nat)
  bad     : Table (List Nat)
  events  : List Instr
deriving DecidableEq, Repr

/-- A page-migration counter (R302). -/
structure PageCounter where
  asid  : Nat
  page  : Nat
  count : Nat
  wrote : Bool
deriving DecidableEq, Repr

/-- A cluster's shared state: its fault queue (R397: entry by index, head, tail, entries held; agents waiting to
post), its migration counters (R302), its cached instruction lines by physical line number (R289), its L2 TLB and walk
cache (R389). -/
structure Cluster where
  fq      : Table (BitVec 128)
  fqHead  : BitVec 8
  fqTail  : BitVec 8
  fqCount : Nat
  fqWait  : List (BitVec 128)
  pmc     : List PageCounter
  icache  : List (Nat × BitVec 512)
  l2tlb   : List TlbEnt
  walks   : List WalkEnt
deriving DecidableEq, Repr

/-- A checkpoint image in the persistent tier (R5, R435, R436), taken once every launch is greyed out: what the SRAMs
hold, every row, engine, table and queue with it, and with `whole` the bytes of the dirty pages of the pool too; `dirty` are
those pages, each with its base and the logarithm of its size. -/
structure Image where
  base     : Nat
  whole    : Bool
  dirty    : List (Nat × Nat)
  saved    : Table Saved
  mem      : List Host.Cell
  fe       : List Nat
  cores    : Table Core
  clusters : Table Cluster
  futures  : Table Future
  tasks    : Table Task
  nextTask : Nat
  jobs     : Table Job
  nextJob  : Nat
  tolBlocks : List (Nat × Nat)
deriving DecidableEq, Repr

/-- A write that waits at the home of a reserved word (R177): the agent, a strand's key or a higher number, the place, the
bytes, whether it sets the word full (R171), and whether it is a release of its agent's other writes, which come before it
wherever they wait (R368, R373). -/
structure PendWrite where
  who  : Nat
  pa   : Nat
  n    : Nat
  v    : Nat
  fill : Bool
  rel  : Bool
deriving DecidableEq, Repr

/-- A reservation queue at a word's home (R177-R180): the holder with the cycle of its grant and whether the word
is only on its way to it, the waiting strands in order of arrival, and the writes that wait, in order of arrival. -/
structure Rsv where
  holder    : Option Nat
  granted   : Nat
  forwarded : Bool
  queue     : List Nat
  writes    : List PendWrite
deriving DecidableEq, Repr

/-- A page under migration (R304): `began` once it is write-protected, before which the
migrator waits for the reservations of its words. -/
structure Migration where
  asid  : Nat
  page  : Nat
  frame : Nat
  began : Bool
deriving DecidableEq, Repr

/-- A replicated page (R303): the frame of its copy in the vault of each cluster that has one. -/
structure Replica where
  asid   : Nat
  page   : Nat
  frames : Table Nat
deriving DecidableEq, Repr

/-- A decision of the page migrator (R303): a page to move to a frame, or a page to replicate, with the frame of each
cluster that takes a copy. -/
inductive Decision where
  | move (asid page frame : Nat)
  | replicate (asid page : Nat) (frames : Table Nat)
deriving DecidableEq, Repr

/-- A kydb breakpoint (R275, R328): launch, address, and the logical core it is set for if one is named. -/
structure Break where
  lid  : Nat
  addr : BitVec 48
  core : Option Nat
deriving DecidableEq, Repr

/-- A unit in which an error arises (R437); a row's errors count for its vault. -/
inductive FaultUnit where
  | core (p : Nat)
  | vault (c : Nat)
  | vaultRow (c row : Nat)
  | lane (i : Nat)
  | poolPort (j : Nat)
  | poolDevice (j : Nat)
  | hub
deriving DecidableEq, Repr

/-- What Worash, the management host or the user of kydb is told beyond the report ring. -/
inductive Notice where
  /-- a strand has stopped: launch, logical core, slot and its trap state (R339) -/
  | faulted (lid logical slot : Nat) (epc : BitVec 48) (ecause : BitVec 8) (eval : BitVec 64)
  /-- a launch is hung: logical core, slot and cause of every strand parked longer than a period (R352) -/
  | hung (lid : Nat) (parks : List (Nat × Nat × Park))
  /-- a patch table was refused (R420) -/
  | patchRefused
  /-- a unit was declared lasting-faulty (R437) -/
  | faulty (u : FaultUnit)
  /-- a vault row has no spare left (R437) -/
  | rowFailed (c row : Nat)
  /-- a cluster's counters at the end of a window (R302) -/
  | counters (c : Nat) (xs : List PageCounter)
  /-- the migrator's decisions, to be returned in override mode (R305) -/
  | decisions (ds : List Decision)
  /-- no physical core is left for a logical core of a context (R416) -/
  | sparesExhausted (ctx l : Nat)
  /-- the answer to the management host's read of a register, and of the message area (R430) -/
  | hostRead (off : Nat) (v : BitVec 64)
  | message (off : Nat) (v : BitVec 64)
  /-- what Worash reads in the message area (R430) -/
  | served (off : Nat) (v : BitVec 64)
  /-- a strand halted at a DBRK, with its code (R154) -/
  | breakCode (logical slot : Nat) (code : BitVec 6)
deriving DecidableEq, Repr

/-- One of the sixteen RV64GC application cores of the hub die (R1): the registers of that instruction set.
PRESUMED, log 53. -/
structure HubCore where
  pc   : BitVec 64
  x    : Table (BitVec 64)
  f    : Table (BitVec 64)
  fcsr : BitVec 32
deriving DecidableEq, Repr

/-- What reaches the module from outside its instruction set: the management host, Worash and the firmware, the user of
kydb, the silicon. DESIGN CHOICE, log 44. -/
inductive Input where
  /-- the management host writes a register through BAR0 (R430) -/
  | hostWrite (off : Nat) (v : BitVec 64)
  /-- the management host reads a register through BAR0 (R430) -/
  | hostRead (off : Nat)
  /-- the management host writes and reads the message area of BAR2, and Worash, which serves it, reads and writes it
  (R430) -/
  | message (off : Nat) (v : BitVec 64)
  | messageRead (off : Nat)
  | serve (off : Nat)
  | answer (off : Nat) (v : BitVec 64)
  /-- a core of the hub has executed instructions of its own, which leave it this state (R1) -/
  | hubCore (i : Nat) (c : HubCore)
  /-- firmware extends a measurement register through the root of trust (R433) -/
  | extend (reg : Nat) (d : BitVec 256)
  /-- firmware writes the default core table at an address and names it in a context (R439) -/
  | coreTable (ctx addr : Nat)
  /-- firmware enters a module in the forwarding table (R431) -/
  | forward (dest dir : Nat)
  /-- firmware writes a flash device (R432) -/
  | flash (b : Bool) (x : FlashImage)
  /-- an error was corrected, or was found uncorrectable, in a unit (R437) -/
  | error (u : FaultUnit) (uncorrectable : Bool)
  /-- an uncorrectable error in a word of memory, in the stored form of a compressed block, in a row of a bank (0 uniform,
  1 + l lane l) or in a table-store slot (R296, R403) -/
  | badWord (w : Nat)
  | badBlock (b kind : Nat) (sectors : BitVec 2048)
  | badRow (p bank row : Nat)
  | badSlot (p slot : Nat)
  /-- kydb sets or deletes a breakpoint (R328) -/
  | setBreak (b : Break)
  | clearBreak (b : Break)
  /-- kydb attaches, with or without breaks enabled, or detaches (R154, R275) -/
  | attach (breaks : Bool)
  | detach
  /-- Worash sets or leaves override mode, or returns decisions (R305) -/
  | override (on : Bool)
  | decide (ds : List Decision)
  /-- the hub's cores write memory (R1, R6): page tables, headers, route tables -/
  | hubStore (pa n : Nat) (v : Nat)
  /-- Worash rewrites the entry of a logical core of a context to another physical core (R416) -/
  | retireCore (ctx l : Nat)
deriving DecidableEq, Repr

/-- A packet handed to the Raelo links (R189, R413, R431): destination logical module, the physical identifier and the
first hop of its route entry as it stood at the send, kind and words. Kind 16 is a flit on its way through, for the module
`phys`. -/
structure LinkMsg where
  dest  : Nat
  phys  : Nat
  hop   : Nat
  kind  : Nat
  words : List (BitVec 64)
deriving DecidableEq, Repr

/-- One direction's link (R431): the sequence number of the next flit to send and the flits held until they are
acknowledged, at most 128, each with the packet it carries; the sequence expected next, whether flits are discarded until a
resend, the credits returned last. -/
structure Link where
  next    : Nat
  sent    : List (Nat × LinkMsg × BitVec 2048)
  expect  : Nat
  waiting : Bool
  credits : BitVec 32
deriving DecidableEq, Repr

/-- A patch-table entry (R417). -/
structure PatchEntry where
  sv    : Bool
  usr   : Bool
  mask  : List (BitVec 32)
  val   : List (BitVec 32)
  subst : List (BitVec 32)
deriving DecidableEq, Repr

/-- The word a step executes and the length of its instruction in bytes (R56, R59). DESIGN CHOICE, log 47. -/
structure Fetched where
  word : BitVec 32
  len  : Nat
deriving DecidableEq, Repr

/-- The hub's registers and what it keeps: no strand, engine or copy changes them otherwise than by a write to a
device register, which is an event of the agenda (R427, R430-R438, R417). -/
structure Hub where
  /-- the application cores (R1) -/
  appCores  : Table HubCore
  images    : List Image
  /-- spare rows used of each vault, and failed rows (R437) -/
  spareRows : Table Nat
  failedRows : List (Nat × Nat)
  /-- device registers that hold a value, by offset (R427) -/
  dev       : Table (BitVec 64)
  /-- the eight measurement registers (R433) -/
  meas      : Table (BitVec 256)
  attQueue  : List (BitVec 64)
  attRefused : BitVec 16
  patch     : List PatchEntry
  patchHash : BitVec 256
  /-- the firmware in force, as VERSION gives it (R40, R420) -/
  firmware  : BitVec 32
  /-- the flash devices A and B (R1, R432) -/
  flashA    : FlashImage
  flashB    : FlashImage
  /-- the message area of BAR2, by offset (R430) -/
  bar2      : Table (BitVec 64)
  /-- link state by direction, the forwarding table by physical module, lanes dropped (R431) -/
  links     : Table Link
  forwards  : Table Nat
  lanesLost : List Nat
  /-- corrected errors by unit with their cycles, and the units declared lasting-faulty (R437) -/
  errors    : List (FaultUnit × Nat)
  faulty    : List FaultUnit
  /-- override mode, and the decisions that Worash has not returned yet (R305) -/
  override  : Bool
  decisions : List Decision
  /-- frames of 64 KiB that a migration has left (R304) -/
  vacated   : List Nat
  throttle  : Nat
  powered   : Bool
  recovery  : Bool
deriving DecidableEq, Repr

/-- The machine. DESIGN CHOICE, log 44. DESIGN CHOICE, log 47. -/
structure State where
  hub       : Hub
  /-- bytes by 52-bit physical address (R280); unlisted bytes read 0 -/
  mem       : List Host.Cell
  /-- local-store words whose full/empty bit is EMPTY, by the physical address of the word (R38) -/
  empties   : List Nat
  cores     : Table Core
  strands   : Table Strand
  clusters  : Table Cluster
  futures   : Table Future
  launches  : Table Launch
  saved     : Table Saved
  tasks     : Table Task
  nextTask  : Nat
  jobs      : Table Job
  nextJob   : Nat
  rsvs      : Table Rsv
  /-- deferred takes in order of joining: word, strand key, lane (R170) -/
  deferred  : List (Nat × Nat × Nat)
  packets   : Table Packet
  nextPacket : Nat
  migrations : List Migration
  replicas  : List Replica
  /-- uncorrectable granules of memory, by word address (R403) -/
  poison    : List Nat
  /-- compressed blocks whose stored form has been damaged: block number, metadata, sectors (R293-R296) -/
  sectors   : List (Nat × Nat × BitVec 2048)
  /-- pool bytes behind ports that no decoder entry reaches now: by port, cells by pool offset (R429) -/
  shelf     : Table (List Host.Cell)
  /-- 256-byte blocks that are candidates of a tolerance record: physical block number, record (R299) -/
  tolBlocks : List (Nat × Nat)
  /-- launch queues 0-4 (R334) -/
  lq        : Table (List QItem)
  lrHead    : BitVec 32
  lrTail    : BitVec 32
  /-- reports the launch unit holds while the ring is full (R428) -/
  reports   : List (BitVec 128)
  linkOut   : List LinkMsg
  breaks    : List Break
  kydb      : Bool
  /-- kydb has breaks enabled (R154) -/
  breaksOn  : Bool
  told      : List Notice
  cycle     : Nat
  /-- the model's own: words of memory as they stood before a write, newest first, while an engine has a command: the
  tick of the write, the number of the 4-byte word, its bits, the agent that wrote (R183) -/
  hist      : List (Nat × Nat × BitVec 32 × Option Nat)
  /-- the model's own: the strand whose packet's second instruction issues next (R343) -/
  paired    : Option Nat
  /-- the model's own: the next place in the order of becoming ready (R348), the next strand's number -/
  readySeq  : Nat
  nextUid   : Nat
  /-- the model's own: inputs that have not been taken yet -/
  inputs    : List Input
  /-- the model's own: the counter free values are taken at -/
  tick      : Nat
  /-- the model's own: events pending, oldest first -/
  agenda    : List Instr
  /-- the model's own: the strand that issues -/
  cur       : Nat
  /-- the model's own: the instruction being executed -/
  ir        : Fetched
deriving DecidableEq, Repr

/-- An engine with nothing to do. DESIGN CHOICE, log 4. -/
def Engine.idle : Engine := ⟨none, [], [], none, none, none, none⟩

/-- An accumulator tile as ACCZ with FLG[2] = 0 leaves it (R234, R338). DESIGN CHOICE, log 4. -/
def Acc.zeroed : Acc := ⟨0, 0, 0, 0, 15, 0⟩

/-- A core at module reset: rows 0, table-store entries 0 and slots empty (R338), no launch; see the assumption
log for what the spec gives no reset value. DESIGN CHOICE, log 4. -/
def Core.reset : Core :=
  { ubank := 0, lbank := 0, badRows := [], tstore := [], badSlots := [], accs := [], mx := Engine.idle,
    vx := Engine.idle, cx := [], nextId := 1, idBase := 1, copies := [], l1 := [], itlb := [], dtlb := [], mailbox := [],
    binds := [], inbox := [], inq := [], outq := [], streams := [], wmb := [], ctl := [], bars := [], repack := none,
    guests := [], lid := 0, logical := 0, issued := none }

/-- A cluster with an empty fault queue, no count, no cached line and no translation. DESIGN CHOICE, log 4. -/
def Cluster.reset : Cluster := ⟨[], 0, 0, 0, [], [], [], [], []⟩

/-- A future entry that has never been allocated. DESIGN CHOICE, log 4. -/
def Future.reset : Future :=
  ⟨.empty, 0, false, 0, 0, false, none, [], 0, 0, false, 0⟩

/-- A link on which nothing has been sent or received. DESIGN CHOICE, log 6. -/
def Link.reset : Link := ⟨0, [], 0, false, 0⟩

/-- The SHA-256 of the patch-table header with COUNT 0, which PATCHHASH holds while no table is loaded (R417):
the digest's bytes in order, byte 0 lowest. A law under Laws/ derives it from the hash itself. -/
def emptyPatchHash : BitVec 256 :=
  0x596A_7D23_D9FB_CE6B_78AB_96B5_1F0D_DDA6_4FC6_5A66_C456_1D56_E113_F290_AB96_6D67

/-- A core of the hub before its first instruction. PRESUMED, log 53. -/
def HubCore.reset : HubCore := ⟨0, [], [], 0⟩

/-- The hub at reset: no table loaded (R417), CEWIN and CETHR at their defaults (R427), PCAP at the most its
range allows, measurement registers 0 (R433). DESIGN CHOICE, log 6. PRESUMED, log 53. -/
def Hub.reset : Hub :=
  { appCores := [], images := [], spareRows := [], failedRows := [], dev := [(0x4000, 0x0010_0000_0A0F), (0x4010, 7500)],
    meas := [], attQueue := [], attRefused := 0, patch := [], patchHash := emptyPatchHash, firmware := 0,
    flashA := FlashImage.blank, flashB := FlashImage.blank, bar2 := [], links := [], forwards := [], lanesLost := [],
    errors := [], faulty := [], override := false, decisions := [], vacated := [], throttle := 0, powered := true,
    recovery := false }

/-- The machine right after reset: no launch, no live strand, every local-store byte 0 and word full, rows and
table store 0 (R338), the hub as `Hub.reset`. DESIGN CHOICE, log 4. -/
def State.reset : State :=
  { hub := Hub.reset, mem := [], empties := [], cores := [], strands := [], clusters := [], futures := [],
    launches := [], saved := [], tasks := [], nextTask := 1, jobs := [], nextJob := 1, rsvs := [], deferred := [],
    packets := [], nextPacket := 1, migrations := [], replicas := [], poison := [], sectors := [], shelf := [],
    tolBlocks := [], lq := [], lrHead := 0, lrTail := 0, reports := [], linkOut := [], breaks := [], kydb := false,
    breaksOn := false, told := [], cycle := 0, hist := [], paired := none, readySeq := 0, nextUid := 1, inputs := [],
    tick := 0, agenda := [], cur := 0, ir := ⟨0, 4⟩ }

end Sys2Proof.Machine
end

