-- ==== Sys2Proof/Machine/Table.lean ====
section
/-!
DEFINITION. Tables (lists of keyed values in rising key order) and the canonical byte memory, with the
little-endian reading and writing of several bytes (spec/00 R9).
-/

namespace Sys2Proof.Machine

/-- The value at a key. -/
def tget {β : Type} : Table β → Nat → Option β
  | [], _ => none
  | (a, v) :: r, k => if a = k then some v else tget r k

/-- The value at a key, or what an unlisted key holds. -/
def tgetD {β : Type} (t : Table β) (k : Nat) (d : β) : β := (tget t k).getD d

/-- Put a value at a key, keeping the keys rising. -/
def tset {β : Type} : Table β → Nat → β → Table β
  | [], k, v => [(k, v)]
  | (a, w) :: r, k, v =>
    if a = k then (k, v) :: r else if k < a then (k, v) :: (a, w) :: r else (a, w) :: tset r k v

/-- Remove a key. -/
def tdel {β : Type} (t : Table β) (k : Nat) : Table β := t.filter fun e => e.1 != k

/-- Change every value of a table. -/
def tmap {β : Type} (t : Table β) (f : Nat → β → β) : Table β := t.map fun e => (e.1, f e.1 e.2)

/-! ### Memory -/

/-- What an unlisted address reads as: 0 for local stores (R338); for vaults and pool a choice of the model.
DESIGN CHOICE, log 5. -/
def unlistedByte : Byte := 0

/-- The byte at an address. -/
def memGet (m : List Host.Cell) (a : Nat) : Byte := tgetD m a unlistedByte

/-- Write a byte: the list stays rising and lists no byte equal to what an unlisted address reads as. -/
def memSet : List Host.Cell → Nat → Byte → List Host.Cell
  | [], a, b => if b = unlistedByte then [] else [(a, b)]
  | (x, w) :: r, a, b =>
    if x = a then (if b = unlistedByte then r else (a, b) :: r)
    else if a < x then (if b = unlistedByte then (x, w) :: r else (a, b) :: (x, w) :: r)
    else (x, w) :: memSet r a b

/-- Every address in the list is above `lo`, rising, and no entry is what an unlisted address reads as. -/
def memWfFrom : Nat → List Host.Cell → Bool
  | _, [] => true
  | lo, (a, b) :: r => decide (lo ≤ a) && b != unlistedByte && memWfFrom (a + 1) r

/-- The canonical form of memory. -/
def Memory.wf (m : List Host.Cell) : Bool := memWfFrom 0 m

/-- `n` bytes from address `a`, little-endian (R9). -/
def memRead (m : List Host.Cell) (a : Nat) : Nat → Nat
  | 0 => 0
  | n + 1 => (memGet m a).toNat + 256 * memRead m (a + 1) n

/-- Write the low `n` bytes of `v` at `a`, little-endian. -/
def memWrite (m : List Host.Cell) (a : Nat) : Nat → Nat → List Host.Cell
  | 0, _ => m
  | n + 1, v => memWrite (memSet m a (BitVec.ofNat 8 v)) (a + 1) n (v / 256)

/-- The bytes of an interval, as cells with their offsets from its start. -/
def memSlice (m : List Host.Cell) (a n : Nat) : List Host.Cell :=
  (m.filter fun c => a ≤ c.1 && c.1 < a + n).map fun c => (c.1 - a, c.2)

/-- Memory without an interval: its bytes read as an unlisted address does. -/
def memClear (m : List Host.Cell) (a n : Nat) : List Host.Cell :=
  m.filter fun c => !(a ≤ c.1 && c.1 < a + n)

/-- Memory with the bytes of `src` placed from address `a`. -/
def memPaste (m : List Host.Cell) (a : Nat) (src : List Host.Cell) : List Host.Cell :=
  src.foldl (fun acc c => memSet acc (a + c.1) c.2) m

/-- Put a number into a rising list of numbers. -/
def nInsert : List Nat → Nat → List Nat
  | [], a => [a]
  | x :: r, a => if x = a then x :: r else if a < x then a :: x :: r else x :: nInsert r a

/-- A queue's list with an element changed at a place. -/
def listSet {β : Type} : List β → Nat → β → List β
  | [], _, _ => []
  | _ :: r, 0, v => v :: r
  | x :: r, n + 1, v => x :: listSet r n v

end Sys2Proof.Machine
end

