-- ==== Sys2Proof/Machine/Base.lean ====
section
/-!
DEFINITION. The first shared operations over the state: whose strand issues, names and rows, parking and waking, writes to
memory with their monitors, the full/empty bits and the reservations at a word's home.
-/

namespace Sys2Proof.Machine

abbrev Out := Host.Outcome State Fault Refusal

/-- How an instruction ends early: a trap with its cause and EVAL (R42, R394), or a park. `kept` is a state whose
changes stand although the instruction does not complete (R170, R181, R185); otherwise nothing it did stands
(R392, R36). -/
inductive Stop where
  | trap (cause : Nat) (val : Nat) (kept : Option State)
  | park (why : Park) (kept : Option State)

abbrev Res (α : Type) := Except Stop α

/-- A trap that leaves no effect. -/
def trapNow {α : Type} (cause val : Nat) : Res α := .error (.trap cause val none)

/-- A park that leaves no effect: the instruction reissues. -/
def parkNow {α : Type} (why : Park) : Res α := .error (.park why none)

/-! Cause codes of R42. -/
def cILLEGAL : Nat := 1
def cWIDTH : Nat := 2
def cMAPROOM : Nat := 3
def cDIVZERO : Nat := 4
def cALIGN : Nat := 5
def cPROTECT : Nat := 6
def cFETCH : Nat := 7
def cFUTSTALE : Nat := 8
def cFUTCOUNT : Nat := 9
def cRSVHOLD : Nat := 10
def cENGINE : Nat := 11
def cMCHECK : Nat := 12
def cSTACK : Nat := 13
def cTRAP : Nat := 14

/-- ILLEGAL with the offending word (R59). -/
def illegal {α : Type} (s : State) : Res α := trapNow cILLEGAL s.ir.word.toNat

/-! ### Cores and strands -/

/-- A strand slot's contents before anything is put in it. -/
def Strand.blank : Strand :=
  { pc := 0, sv := false, psv := false, resumed := false, tsl := false, role := 0, tvec := 0, epc := 0, ecause := 0,
    eval := 0, pword := 1, q := 0x01010101010101010101010101010101, map := ⟨0, []⟩, ubase := 0, usize := 0,
    lbase := 0, lsize := 0, wid := 0, helper := false, lid := 0, mons := [], run := .ready 0, holds := none,
    takes := [], pend := [], task := none, shade0 := 15, standIn := 0, stopped := false, job := none,
    lineBuf := none, lastIssue := none, yieldAt := none, halted := none, skipBrk := false, parkedAt := 0, uid := 0,
    answer := none }

/-- The strand of a key; a FREE slot reads as a blank one. -/
def strandAt (s : State) (k : Nat) : Strand := tgetD s.strands k Strand.blank

/-- The strand that issues. -/
def curStrand (s : State) : Strand := strandAt s s.cur

/-- Put a strand. -/
def setStrand (s : State) (k : Nat) (t : Strand) : State := { s with strands := tset s.strands k t }

/-- Change the strand that issues. -/
def setCur (s : State) (f : Strand → Strand) : State := setStrand s s.cur (f (curStrand s))

/-- The physical core of a strand key. -/
def keyCore (k : Nat) : Nat := k / 16

/-- The physical core of the strand that issues. -/
def curP (s : State) : Nat := keyCore s.cur

/-- The slot of the strand that issues. -/
def curSlot (s : State) : Nat := s.cur % 16

/-- A core. -/
def coreAt (s : State) (p : Nat) : Core := tgetD s.cores p Core.reset

/-- Put a core. -/
def setCore (s : State) (p : Nat) (c : Core) : State := { s with cores := tset s.cores p c }

/-- Change a core. -/
def modCore (s : State) (p : Nat) (f : Core → Core) : State := setCore s p (f (coreAt s p))

/-- The cluster of a physical core (R280: p = 33 cluster + k). -/
def clusterOf (p : Nat) : Nat := p / 33

/-- A cluster. -/
def clusterAt (s : State) (c : Nat) : Cluster := tgetD s.clusters c Cluster.reset

/-- Put a cluster. -/
def setCluster (s : State) (c : Nat) (x : Cluster) : State := { s with clusters := tset s.clusters c x }

/-- The live strands of a core, by key. -/
def strandsOf (s : State) (p : Nat) : Table Strand := s.strands.filter fun e => keyCore e.1 == p

/-- A slot of a core is FREE. -/
def slotFree (s : State) (p slot : Nat) : Bool := (tget s.strands (16 * p + slot)).isNone

/-- Append an event to the agenda. -/
def addEvent (s : State) (e : Instr) : State := { s with agenda := s.agenda ++ [e] }

/-- The launch of an identifier. -/
def launchAt (s : State) (lid : Nat) : Option Launch := tget s.launches lid

/-- A field of a launch header: the bits [lo + len - 1 : lo] of the word at byte offset `off` (R332). -/
def Launch.field (l : Launch) (off lo len : Nat) : Nat := fieldN l.hdr.toNat (8 * off + lo) len

/-- The watchdog period of a launch in cycles (R332 WDOG). -/
def Launch.period (l : Launch) : Nat :=
  let w := l.field 0x78 0 32
  (if w = 0 then 16384 else w) * 65536

/-- A progress event of a launch restarts its watchdog (R352). -/
def progress (s : State) (lid : Nat) : State :=
  { s with launches := tmap s.launches fun i l => if i = lid then { l with wdogLeft := l.period } else l }

/-- A releasing or acquiring instruction of the strand that issues completes: progress of its launch (R352). -/
def progressCur (s : State) : State := progress s (curStrand s).lid

/-- The physical core that holds a logical core of a launch (R414). -/
def corePhys (s : State) (lid logical : Nat) : Option Nat :=
  match launchAt s lid with
  | some l => tget l.coreMap logical
  | none => none

/-- The launch identifier, physical core pair of whatever launch holds a logical core. -/
def holderOf (s : State) (logical : Nat) : Option (Nat × Nat) :=
  match s.launches.find? (fun e => (tget e.2.coreMap logical).isSome) with
  | some e => (tget e.2.coreMap logical).map fun p => (e.1, p)
  | none => none

/-- A number below `n` that the spec leaves open: `use` tells the uses of a step apart, and `k` the places of one use. -/
def freeNat (s : State) (use k n : Nat) : Nat := (Config.freeWord (Config.draw (Config.draw s.tick use) k)).toNat % n

/-! ### Parking and waking -/

/-- A strand leaves rotation (R12, R163). DEDUCED, log 10. -/
def parkStrand (s : State) (k : Nat) (why : Park) : State :=
  setStrand s k { strandAt s k with run := .parked why, parkedAt := s.cycle }

/-- An event that happens next, before any other. -/
def addNext (s : State) (e : Instr) : State := { s with agenda := e :: s.agenda }

/-- The wake event of a parked strand: its rejoining rotation follows at once (R344). DEDUCED, log 10. -/
def wake (s : State) (k : Nat) : State :=
  match tget s.strands k with
  | some t =>
    match t.run with
    | .parked _ => addNext (setStrand s k { t with run := .woken }) (.strandRejoin k)
    | _ => s
  | none => s

/-- Wake every strand parked for a cause that a test picks. DEDUCED, log 34. -/
def wakeWhere (s : State) (f : Nat → Strand → Park → Bool) : State :=
  s.strands.foldl (fun acc e =>
    match e.2.run with
    | .parked c => if f e.1 e.2 c then wake acc e.1 else acc
    | _ => acc) s

/-- Wake the strands of a core parked on an inbox, queue or stream name (R35). -/
def wakeNames (s : State) (p : Nat) : State :=
  wakeWhere s fun k _ c => keyCore k == p && c == .names

/-! ### Names -/

/-- What a map declares of a name: index, kind, type, width, mode, binding (R24-R26). Index 0 has kind 8. -/
structure NameInfo where
  ix    : Nat
  kind  : Nat
  ty    : Nat
  width : Nat
  mode  : Nat
  bind  : Nat
deriving DecidableEq, Repr

/-- The constant zero (R27, R82). -/
def NameInfo.zero : NameInfo := ⟨0, 8, 0, 64, 0, 0⟩

/-- A map entry read by R24. -/
def entryInfo (ix : Nat) (e : BitVec 32) : NameInfo :=
  { ix := ix, kind := fieldN e.toNat 6 3, ty := fieldN e.toNat 9 3, width := fieldN e.toNat 0 6 + 1,
    mode := fieldN e.toNat 12 2, bind := fieldN e.toNat 14 12 }

/-- A name of a map; none when the index is undeclared (R27). -/
def nameInfo (m : MapCopy) (n : NameIx) : Option NameInfo :=
  if n = 0 then some NameInfo.zero
  else (m.entries[n.toNat - 1]?).map (entryInfo n.toNat)

/-- Kinds that act in every lane (R26). -/
def NameInfo.isLane (i : NameInfo) : Bool := i.kind == 1 || i.kind == 5

/-- Integer type, or index 0 (R85). -/
def NameInfo.isInt (i : NameInfo) : Bool := i.ty < 2

/-- Floating-point type, or index 0. -/
def NameInfo.isFp (i : NameInfo) : Bool := i.ty ≥ 2 || i.kind == 8

/-- A field that may be read (R67). -/
def NameInfo.srcKind (i : NameInfo) : Bool := i.kind != 4

/-- A field that may only be written (R67). -/
def NameInfo.dstKind (i : NameInfo) : Bool := i.kind != 2 && i.kind != 3

/-- The row bits before name `ix` in the uniform bank (`lane` false) or a lane bank (R31). -/
def bitsBefore (m : MapCopy) (ix : Nat) (lane : Bool) : Nat :=
  (m.entries.take (ix - 1)).foldl (fun acc e =>
    let i := entryInfo 1 e
    if (if lane then i.kind == 1 else i.kind == 0 || i.kind == 6) then acc + i.width else acc) 0

/-- The bits of all names of a bank. -/
def bankBits (m : MapCopy) (lane : Bool) : Nat := bitsBefore m (m.entries.length + 1) lane

/-- The first bit of a row-bank name in its bank. -/
def nameBit (t : Strand) (i : NameInfo) : Nat :=
  if i.kind = 1 then t.lbase.toNat + bitsBefore t.map i.ix true
  else t.ubase.toNat + bitsBefore t.map i.ix false

/-- The bits of a row-bank name: lane `l` of a lane name, or the uniform value. -/
def rowRead (c : Core) (t : Strand) (i : NameInfo) (l : Nat) : Nat :=
  if i.kind = 1 then fieldN c.lbank.toNat (8192 * l + nameBit t i) i.width
  else fieldN c.ubank.toNat (nameBit t i) i.width

/-- Write exactly a row-bank name's bits (R33). -/
def rowWrite (c : Core) (t : Strand) (i : NameInfo) (l v : Nat) : Core :=
  if i.kind = 1 then
    { c with lbank := BitVec.ofNat 131072 (setFieldN c.lbank.toNat (8192 * l + nameBit t i) i.width v) }
  else { c with ubank := BitVec.ofNat 16384 (setFieldN c.ubank.toNat (nameBit t i) i.width v) }

/-- A bit range of a bank meets a row that a repack has locked (R106). -/
def bitsLocked (c : Core) (lane : Bool) (lo len : Nat) : Bool :=
  match c.repack with
  | some r => r.lane == lane && len != 0 && lo / 64 < r.lo + r.n && r.lo ≤ (lo + len - 1) / 64
  | none => false

/-- A name with a bit in a locked row (R106). -/
def nameLocked (c : Core) (t : Strand) (i : NameInfo) : Bool :=
  (i.kind == 0 || i.kind == 1 || i.kind == 6) && bitsLocked c (i.kind == 1) (nameBit t i) i.width

/-- The EVAL of the MCHECK of a row, by its bank and number (R403). -/
def rowEval (b : Nat × Nat) : Nat := (if b.1 = 0 then 0 else 2 ^ 60) + b.2 % 256 * 2 ^ 48

/-- A row of a bank in which a name has a bit holds an uncorrectable error: the EVAL of its MCHECK (R403).
Bank 0 is the uniform bank, 1 + l lane bank l. -/
def badRowEval (c : Core) (t : Strand) (i : NameInfo) : Option Nat :=
  if i.kind == 0 || i.kind == 1 || i.kind == 6 then
    match c.badRows.find? (fun b =>
        (if i.kind = 1 then b.1 != 0 else b.1 == 0) &&
        nameBit t i / 64 ≤ b.2 && b.2 ≤ (nameBit t i + i.width - 1) / 64) with
    | some b => some (rowEval b)
    | none => none
  else none

/-! ### Predicates and flags (R15-R19) -/

/-- Predicate p`i` of a strand. -/
def predP (t : Strand) (i : Nat) : Bool := i == 0 || bitN t.pword.toNat i

/-- Predicate q`i` of a lane. -/
def predQ (t : Strand) (l i : Nat) : Bool := bitN t.q.toNat (8 * l + i)

/-- Write p`i`; p0 stays 1 (R16). -/
def setP (t : Strand) (i : Nat) (b : Bool) : Strand :=
  if i = 0 then t else { t with pword := BitVec.ofNat 16 (setFieldN t.pword.toNat i 1 (if b then 1 else 0)) }

/-- Write q`i` of a lane; q0 is changed by no instruction (R16). -/
def setQ (t : Strand) (l i : Nat) (b : Bool) : Strand :=
  if i = 0 then t else { t with q := BitVec.ofNat 128 (setFieldN t.q.toNat (8 * l + i) 1 (if b then 1 else 0)) }

/-- Set the sticky flags of a mask, f0 lowest (R18, R19). -/
def setFlags (t : Strand) (f : BitVec 8) : Strand := { t with pword := t.pword ||| (f ++ (0 : BitVec 8)) }

/-- Flag f7 (R18). -/
def flag7 (t : Strand) : Bool := bitN t.pword.toNat 15

/-- A roaming strand, as STATUS.ROAMING marks it: one that came by ROAM or that a dispatcher placed
(R40 SLOT, R350). -/
def roaming (t : Strand) : Bool := 2 ≤ t.role.toNat

/-! ### Writes to memory -/

/-- The line of a physical address. -/
def lineOf (pa : Nat) : Nat := pa / 64

/-- Put a fired monitor (time of arming, strand, number) into a list in order of arming. -/
def insertFired (x : Nat × Nat × Nat) : List (Nat × Nat × Nat) → List (Nat × Nat × Nat)
  | [] => [x]
  | y :: r => if x.1 ≤ y.1 then x :: y :: r else y :: insertFired x r

/-- A line of a local store, by its alias (R280). -/
def lineInStore (line : Nat) : Bool := 0x4000_0000 ≤ line && line < 0x4000_0000 + 67584 * 2048

/-- The monitors of greyed-out launches that a write to lines of vaults and pool triggers: they are restored triggered
(R326, R405). DEDUCED, log 22. -/
def fireSaved (s : State) (lo hi : Nat) : State :=
  let fire (m : Monitor) : Monitor :=
    if m.armed && !m.dropped && lo ≤ m.line && m.line ≤ hi && !(lineInStore m.line) then
      { m with fired := true, triggered := true } else m
  { s with saved := tmap s.saved fun _ x =>
      { x with strands := tmap x.strands fun _ t => { t with mons := t.mons.map fire } } }

/-- A write to lines `lo .. hi` by `writer`: every armed monitor of another strand on them fires once, its
notice being sent in order of arming (R134, R331). -/
def fireMonitors (s : State) (writer : Option Nat) (lo hi : Nat) : State :=
  let s := if s.saved.isEmpty then s else fireSaved s lo hi
  let hits := s.strands.flatMap fun e =>
    if some e.1 = writer then [] else
      (e.2.mons.zipIdx.filter fun m =>
        m.1.armed && !m.1.fired && !m.1.dropped && lo ≤ m.1.line && m.1.line ≤ hi).map fun m =>
        (m.1.armedAt, e.1, m.2)
  let hits := hits.foldr insertFired []
  hits.foldl (fun acc h =>
    let t := strandAt acc h.2.1
    let ms := t.mons.zipIdx.map fun m => if m.2 = h.2.2 then { m.1 with fired := true } else m.1
    addEvent (setStrand acc h.2.1 { t with mons := ms }) (.monitorNotice h.2.1 h.2.2)) s

/-- A write to bytes that hold the state of a key/value entry: who waits for that entry looks again (R174, R246). -/
def wakeEntries (s : State) (pa n : Nat) : State :=
  let s := wakeWhere s fun _ _ c => match c with
    | .kvEntry a => pa ≤ a && a < pa + n
    | _ => false
  s.cores.foldl (fun acc e => match e.2.vx.stalled with
    | some a => if pa ≤ a && a < pa + n then addEvent acc (.vtkvEntryWake e.1) else acc
    | none => acc) s

/-- An engine has a command it has not completed. -/
def Engine.busy (e : Engine) : Bool := e.executing.isSome || !e.queue.isEmpty || e.work.isSome

/-- What a write leaves for the engines whose commands have been issued and whose operand fetch is not over: the 4-byte
words it changes, as they stood, with the agent that writes; a word that one agent changes twice in one step changes once
(R183, R310). DEDUCED, log 35. -/
def noteHist (s : State) (writer : Option Nat) (pa n : Nat) : List (Nat × Nat × BitVec 32 × Option Nat) :=
  if s.cores.any (fun c => c.2.mx.busy || c.2.vx.busy) then
    let now := s.hist.takeWhile fun h => h.1 == s.tick
    (((List.range ((pa + n + 3) / 4 - pa / 4)).filter fun i =>
        !(now.any fun h => h.2.1 == pa / 4 + i && h.2.2.2 == writer)).map fun i =>
      (s.tick, pa / 4 + i, BitVec.ofNat 32 (memRead s.mem (4 * (pa / 4 + i)) 4), writer)) ++ s.hist
  else []

/-- Write `n` bytes at a physical address as one agent's write: the bytes, the monitors it fires, the
uncorrectable granules (R403) and the damaged blocks (R296) it replaces whole, the waiters on an entry's state. -/
def storePhys (s : State) (writer : Option Nat) (pa n v : Nat) : State :=
  let s := { s with mem := memWrite s.mem pa n v
                    hist := noteHist s writer pa n
                    poison := s.poison.filter fun w => !(pa ≤ w && w + 8 ≤ pa + n)
                    sectors := s.sectors.filter fun b => !(pa ≤ 256 * b.1 && 256 * b.1 + 256 ≤ pa + n)
                    tolBlocks := s.tolBlocks.filter fun b => !(pa / 256 ≤ b.1 && b.1 ≤ (pa + n - 1) / 256) }
  if n = 0 then s else wakeEntries (fireMonitors s writer (lineOf pa) (lineOf (pa + n - 1))) pa n

/-- `n` bytes at a physical address. -/
def loadPhys (s : State) (pa n : Nat) : Nat := memRead s.mem pa n

/-- A block of an interval whose compressed form is damaged (R296): the granule of it that the interval meets first. -/
def damaged (s : State) (pa n : Nat) : Option Nat :=
  (s.sectors.find? fun b => 256 * b.1 < pa + n && pa < 256 * b.1 + 256 &&
    (blockDecode b.2.1 b.2.2.toNat).isNone).map fun b => Nat.max (256 * b.1) (pa / 8 * 8)

/-- The first granule of an interval with an uncorrectable error (R403), or with damaged compressed data (R296).
DESIGN CHOICE, log 44. -/
def poisoned (s : State) (pa n : Nat) : Option Nat :=
  (s.poison.find? fun w => w < pa + n && pa < w + 8).orElse fun _ => damaged s pa n

/-- The local store of a physical core starts here (R280). -/
def lsBase (p : Nat) : Nat := 0x10_0000_0000 + 131072 * p

/-- The vault of a cluster starts here (R280). -/
def vaultBase (c : Nat) : Nat := 0x200_0000 * c

/-- The full/empty bit of the local-store word at a physical address (R38). -/
def wordFull (s : State) (pa : Nat) : Bool := !(s.empties.contains (pa / 8 * 8))

/-- Set a word's full/empty bit. -/
def setFull (s : State) (pa : Nat) (full : Bool) : State :=
  let w := pa / 8 * 8
  { s with empties := if full then s.empties.filter (· != w) else nInsert s.empties w }

/-- The takes deferred on a word go back to their strands, which issue them again. -/
def sendBack (s : State) (w : Nat) : State :=
  let gone := s.deferred.filter fun d => d.1 == w
  gone.foldl (fun acc d => wake acc d.2.1) { s with deferred := s.deferred.filter fun d => d.1 != w }

/-- The value of a granted take goes to the lane of its strand's instruction that waits for it, and to no take granted before
(R170, R171). -/
def takeGranted (t : Strand) (lane w : Nat) (v : BitVec 64) : Strand :=
  { t with takes := t.takes.map fun x =>
      if x.pc = t.pc && x.lane = lane && x.word = w && x.got.isNone then { x with got := some v } else x }

/-- A word has become full: the head of its deferred list, if any, is granted the value and the word is empty
again (R170, R171). A value with an uncorrectable error is delivered to nobody: the takes are issued again and find the word
full with its error (R403). Strands that wait on a stream of the core are woken. DESIGN CHOICE, log 44.
DEDUCED, log 10. -/
def grantTake (s : State) (pa : Nat) : State :=
  let w := pa / 8 * 8
  match s.deferred.find? (fun d => d.1 == w) with
  | some (_, k, l) =>
    if (poisoned s w 8).isSome then sendBack s w
    else
      let s := { s with deferred := s.deferred.erase (w, k, l) }
      let t := takeGranted (strandAt s k) l w (word (loadPhys s w 8))
      let s := setFull (setStrand s k t) w false
      if t.takes.all fun x => x.pc != t.pc || x.got.isSome then wake s k else s
  | none => s

/-- The word's home sets it full: grants follow (R171, R173). -/
def fillWord (s : State) (pa : Nat) : State :=
  let p := (pa - 0x10_0000_0000) / 131072
  wakeNames (grantTake (setFull s pa true) pa) p

/-- The word's home sets it empty, which may let a write stream go on (R195). -/
def emptyWord (s : State) (pa : Nat) : State :=
  let p := (pa - 0x10_0000_0000) / 131072
  wakeNames (setFull s pa false) p

/-- A word is held by, or on its way to, another strand than `k` (R177). -/
def reservedByOther (s : State) (k : Option Nat) (pa n : Nat) : Option Nat :=
  (s.rsvs.find? fun e => e.1 < pa + n && pa < e.1 + 8 && e.2.holder.isSome && e.2.holder != k).map (·.1)

/-- A write applied at its home, with the word set full where it does that (R171, R177). -/
def applyWrite (s : State) (w : PendWrite) : State :=
  let s := storePhys s (some w.who) w.pa w.n w.v
  if w.fill then fillWord s w.pa else s

/-- A write joins those that wait at a home. -/
def joinWrites (s : State) (a : Nat) (w : PendWrite) : State :=
  { s with rsvs := tmap s.rsvs fun k r => if k = a then { r with writes := r.writes ++ [w] } else r }

/-- The reserved word at whose home a write of an agent waits (R177). -/
def waitingAt (s : State) (k : Nat) : Option Nat :=
  (s.rsvs.find? fun r => r.2.writes.any fun x => x.who == k).map (·.1)

/-- A write of a strand or another agent still waits at the home of some word (R177). -/
def writesWaiting (s : State) (k : Nat) : Bool := (waitingAt s k).isSome

/-- An agent's write to bytes of one word arrives at the word's home: while another strand has the word reserved, it waits
there behind the writes that came before it; otherwise it is applied (R177). A release goes first to wherever a write of its
agent waits, and on from there (R368, R373). -/
def homeWrite (s : State) (w : PendWrite) : State :=
  match (if w.rel then waitingAt s w.who else none) with
  | some a => joinWrites s a w
  | none =>
    match reservedByOther s (some w.who) w.pa w.n with
    | some a => joinWrites s a { w with rel := false }
    | none => applyWrite s w

/-- A write that has waited at a home goes on: it is applied there, or, where it waits for the other writes of its agent,
looks for the next of them. -/
def resumeWrite (s : State) (w : PendWrite) : State := if w.rel then homeWrite s w else applyWrite s w

/-! ### The numbers of the agents that write beside the strands; no strand's key is so high -/

/-- The writer of what other modules send. -/
def remoteWriter : Nat := 2 ^ 32

/-- The engine `e` of a core, 0 MX, 1 VX. -/
def engineAgent (p e : Nat) : Nat := 2 ^ 33 + 2 * p + e

/-- A copy of a core. -/
def copyAgent (p id : Nat) : Nat := 2 ^ 34 + 65536 * p + id

/-- The write-merge buffer of a core. -/
def mergeAgent (p : Nat) : Nat := 2 ^ 35 + p

/-- The dispatcher, for the footprint of a task. -/
def footAgent (t : Nat) : Nat := 2 ^ 36 + t

/-- A backfill job. -/
def jobAgent (j : Nat) : Nat := 2 ^ 37 + j

/-- The hub's own writes: attestation, the core tables. -/
def hubWriter : Nat := 2 ^ 32 + 1

/-- The launch unit: launch reports, headers, replay logs. -/
def launchWriter : Nat := 2 ^ 32 + 2

/-- Worash, and what else writes memory from outside. -/
def rootWriter : Nat := 2 ^ 32 + 3

/-- The dispatchers, as they load the local stores of a launch. -/
def loadWriter : Nat := 2 ^ 32 + 4

/-- A copy has bytes of its own, or writes at the homes of words, that are still to be written through a translation
(R253, R177). -/
def destHeld (s : State) (p id : Nat) (c : Copy) (h : Held) : Bool :=
  c.part.any (fun b => h.pa ≤ b.1 && b.1 < h.pa + 4096) || s.rsvs.any fun r => r.2.writes.any fun w =>
    w.who == copyAgent p id && h.pa ≤ w.pa && w.pa < h.pa + 4096

/-- A write cut at the 8-byte words, each part with its bytes. -/
def wordParts (pa n v : Nat) : List (Nat × Nat × Nat) :=
  (List.range ((pa % 8 + n + 7) / 8)).map fun i =>
    let lo := Nat.max pa (8 * (pa / 8 + i))
    let hi := Nat.min (pa + n) (8 * (pa / 8 + i) + 8)
    (lo, hi - lo, v / 2 ^ (8 * (lo - pa)) % 2 ^ (8 * (hi - lo)))

/-- An agent's write arrives at the homes of its words: where one of them is reserved by another, each word goes to its own
home and waits there where it has to (R177); otherwise the write is applied as one. With `rel` it is a release of the agent's
other writes, behind which it waits (R368, R373). -/
def agentPut (s : State) (who : Nat) (rel : Bool) (pa n v : Nat) : State :=
  if (reservedByOther s (some who) pa n).isNone && !(rel && writesWaiting s who) then storePhys s (some who) pa n v
  else (wordParts pa n v).foldl (fun acc x => homeWrite acc ⟨who, x.1, x.2.1, x.2.2, false, rel⟩) s

/-- An agent's write that is no release. -/
def agentWrite (s : State) (who pa n v : Nat) : State := agentPut s who false pa n v

/-- The end of a reservation or of an atomic: the writes that wait at the home are applied in the order in which they
came, and the word goes to the next requester (R177, R179). A replay that waited for a leaf entry looks again (R390). -/
def releaseWord (s : State) (w : Nat) : State :=
  match tget s.rsvs w with
  | some r =>
    let s := wakeWhere s fun k _ c => match c with
      | .reservation x => x == w && !(r.queue.contains k)
      | .replay _ => true
      | _ => false
    let s := { s with rsvs := tset s.rsvs w { r with holder := none, forwarded := false, writes := [] } }
    let s := r.writes.foldl resumeWrite s
    if r.queue.isEmpty then { s with rsvs := tdel s.rsvs w } else addEvent s (.reservationGrant w)
  | none => s

end Sys2Proof.Machine
end

