-- ==== Sys2Proof/Machine/Translate.lean ====
section
/-!
DEFINITION. Addresses: the near region (spec/01 R45-R47), the physical map (spec/10 R280; spec/19 R429), page tables,
range descriptors and TLBs (spec/17 R384-R391), and instruction fetch (spec/10 R289-R292).
-/

namespace Sys2Proof.Machine

/-! ### The physical map -/

/-- What lies at a physical address. -/
inductive Place where
  | vault (c : Nat) (off : Nat)
  | ls (p : Nat) (off : Nat)
  | pool (off : Nat)
  | device (off : Nat)
  | hole
deriving DecidableEq, Repr

/-- A device register as it stands, for the plain ones (R427). -/
def devReg (s : State) (off : Nat) : Nat := (tgetD s.hub.dev off 0).toNat

/-- Pool decoder entry `j` covers the GiB that holds pool offset `off` (R429). -/
def poolCovers (s : State) (off j : Nat) : Bool :=
  let e := devReg s (0x3000 + 8 * j)
  let g := off / 2 ^ 30
  bitN e 63 && fieldN e 0 32 ≤ g && g < fieldN e 0 32 + fieldN e 32 20

/-- The pool port that serves a pool offset; none where no valid entry covers it (R429). -/
def poolPort (s : State) (off : Nat) : Option Nat :=
  ((List.range 64).find? (poolCovers s off)).map fun j =>
    let e := devReg s (0x3000 + 8 * j)
    let rel := off - fieldN e 0 32 * 2 ^ 30
    let way := rel / 2 ^ (8 + fieldN e 60 3) % 2 ^ fieldN e 56 3
    (fieldN e 52 4 + way) % 16

/-- The physical map (R280). The reserved top of a vault is a hole to every translation. -/
def placeOf (s : State) (pa : Nat) : Place :=
  if pa < 0x10_0000_0000 then
    let c := pa / 0x200_0000
    let off := pa % 0x200_0000
    if off < 0x17B_4000 then .vault c off else .hole
  else if pa < 0x10_0000_0000 + 131072 * 67584 then
    .ls ((pa - 0x10_0000_0000) / 131072) ((pa - 0x10_0000_0000) % 131072)
  else if 0x1000_0000_0000 ≤ pa && pa < 0x5000_0000_0000 then
    (if (poolPort s (pa - 0x1000_0000_0000)).isSome then .pool (pa - 0x1000_0000_0000) else .hole)
  else if 0xF000_0000_0000 ≤ pa && pa < 0xF400_0000_0000 then .device (pa - 0xF000_0000_0000)
  else .hole

/-! ### The near region -/

/-- A near-region window and the offset in it (R45); `view` 0 E2M1, 1 cb3, 2 E4M3, 3 E5M2. -/
inductive Near where
  | raw (p : Nat) (off : Nat)
  | view (v : Nat) (off : Nat)
  | tstore (off : Nat)
  | fe (off : Nat)
  | vault (c : Nat) (off : Nat)
  | bad
deriving DecidableEq, Repr

/-- The logical x and y of a logical core number 256y + x. -/
def logX (l : Nat) : Nat := l % 256
def logY (l : Nat) : Nat := l / 256 % 256

/-- The cluster 128d + c of a logical core (R2, R280, R439). -/
def logCluster (l : Nat) : Nat :=
  let x := logX l
  let y := logY l
  128 * (y / 64 * 4 + x / 64) + y % 64 / 8 * 16 + x % 64 / 4

/-- The logical core that is cluster peer `c` of a logical core (R439). -/
def peerOf (l c : Nat) : Nat := 256 * (logY l / 8 * 8 + c / 4) + (logX l / 4 * 4 + c % 4)

/-- The core-table entry of a logical core in a context, read as it stands (R413). -/
def coreTabEntry (s : State) (ctx l : Nat) : Nat := loadPhys s (devReg s (0x1000 + 32 * ctx) / 4 * 4 + 4 * l) 4

/-- The physical core of a logical core for a launch: as captured for its own rectangle (R414), otherwise by
the context's core table. -/
def physOf (s : State) (lid l : Nat) : Option Nat :=
  match corePhys s lid l with
  | some p => some p
  | none =>
    match launchAt s lid with
    | some la =>
      let e := coreTabEntry s la.ctx l
      if bitN e 31 && fieldN e 17 14 == 0 && fieldN e 0 17 < Config.physicalCores then some (fieldN e 0 17) else none
    | none => none

/-- A near-region access of `n` bytes from a core, whose peer windows name the cores that `peer` gives (R45); a peer that
no map and no valid entry gives a core has no window. DESIGN CHOICE, log 51. -/
def nearWith (c : Core) (peer : Nat → Option Nat) (p va n : Nat) : Near :=
  if va + n ≤ 0x2_0000 then .raw p va
  else if 0x10_0000 ≤ va && va + n ≤ 0x20_0000 then .view 0 (va - 0x10_0000)
  else if 0x20_0000 ≤ va && va + n ≤ 0x30_0000 then .view 1 (va - 0x20_0000)
  else if 0x30_0000 ≤ va && va + n ≤ 0x30_0100 then .tstore (va - 0x30_0000)
  else if 0x40_0000 ≤ va && va + n ≤ 0x50_0000 then .view 2 (va - 0x40_0000)
  else if 0x50_0000 ≤ va && va + n ≤ 0x50_4000 then .fe (va - 0x50_0000)
  else if 0x60_0000 ≤ va && va + n ≤ 0x70_0000 then .view 3 (va - 0x60_0000)
  else if 0x100_0000 ≤ va && va < 0x300_0000 then
    let off := (va - 0x100_0000) % 0x10_0000
    if off + n ≤ 0x2_0000 then
      match peer ((va - 0x100_0000) / 0x10_0000) with
      | some q => .raw q off
      | none => .bad
    else .bad
  else if 0x400_0000 ≤ va && va + n ≤ 0x400_0000 + 0x17B_4000 then .vault (logCluster c.logical) (va - 0x400_0000)
  else .bad

/-- A near-region access of `n` bytes by a core, its peers as they are now. -/
def nearOf (s : State) (p va n : Nat) : Near :=
  let c := coreAt s p
  nearWith c (fun i => physOf s c.lid (peerOf c.logical i)) p va n

/-- The peers of a core that its launch's own map does not name, as the core table gives them now: what a hand-over
captures (R47). -/
def outerPeers (s : State) (p : Nat) : Table Nat :=
  let c := coreAt s p
  (List.range 32).filterMap fun i =>
    let l := peerOf c.logical i
    match corePhys s c.lid l with
    | some _ => none
    | none => (physOf s c.lid l).map fun q => (i, q)

/-- A near-region access for an agent to which a core has handed an address, with the peers captured then (R47). -/
def nearKept (s : State) (peers : Table Nat) (p va n : Nat) : Near :=
  let c := coreAt s p
  nearWith c (fun i => (corePhys s c.lid (peerOf c.logical i)).orElse fun _ => tget peers i) p va n

/-- A virtual address lies in the near region. -/
def isNear (va : Nat) : Bool := va < 0x1000_0000

/-- The ASID of a launch. -/
def asidOf (s : State) (lid : Nat) : Nat := ((launchAt s lid).map (·.asid)).getD 0

/-! ### Walks -/

/-- What an access needs of its page (R387). -/
inductive Access where
  | read
  | write
  | fetch
deriving DecidableEq, Repr

/-- Why a translation does not serve an access; a missing one carries the level, minus 1, of the entry read with
V = 0 (R397). `held` is no fault: another agent has the word of the leaf entry reserved, and the walker's CAS of it waits
(R177, R390). -/
inductive XFault where
  | missing (level : Nat)
  | forbidden
  | noX
  | noU
  | hole
  | device
  | format
  | mcheck (pa : Nat)
  | held (w : Nat)
deriving DecidableEq, Repr

/-- A translation found: the virtual base and log2 of the size it covers, the leaf, the physical base, and the
address of the leaf entry when a walk has just read it. -/
structure Xlat where
  va    : Nat
  bits  : Nat
  leaf  : Nat
  pa    : Nat
  entry : Option Nat
deriving DecidableEq, Repr

/-- A table's or page's frame lies in the vault and pool ranges of R280: the first 24 MiB of a vault's slot of 32 MiB. -/
def inMemoryRange (pa : Nat) : Bool :=
  (pa < 0x10_0000_0000 && pa % 0x200_0000 < 0x180_0000) || (0x1000_0000_0000 ≤ pa && pa < 0x5000_0000_0000)

/-- Index of a level into the address (R385). -/
def levelIndex (level va : Nat) : Nat := fieldN va (48 - 9 * level) 9

/-- The format rules of an entry with V = 1 (R386, R387). -/
def entryFormatOk (level e : Nat) : Bool :=
  fieldN e 58 6 == 0 && !(bitN e 52) && !(bitN e 8) && (bitN e 57 || fieldN e 53 4 == 0) &&
  (if bitN e 1 then
     level != 1 && (level == 4 || !(bitN e 9)) && (!(bitN e 9) || fieldN e 12 4 == 0) &&
     (level != 2 || fieldN e 12 18 == 0) && (level != 3 || fieldN e 12 9 == 0) && (!(bitN e 3) || bitN e 2)
   else
     level != 4 && fieldN e 2 10 == 0 && fieldN e 52 6 == 0 && inMemoryRange (fieldN e 12 40 * 4096))

/-- The page size of a leaf as log2 (R385). -/
def leafBits (level e : Nat) : Nat :=
  if level = 2 then 30 else if level = 3 then 21 else if bitN e 9 then 16 else 12

/-- The physical base of a leaf. -/
def leafBase (level e : Nat) : Nat := fieldN e 12 40 * 4096 / 2 ^ leafBits level e * 2 ^ leafBits level e

/-- The base of the addresses that an entry of a level covers (R385). -/
def levelBase (level va : Nat) : Nat := va / 2 ^ (48 - 9 * level) * 2 ^ (48 - 9 * level)

/-- The pointer entry that a walk cache holds for a level of an address (R389). -/
def cachedPointer (ws : List WalkEnt) (asid level va : Nat) : Option Nat :=
  (ws.find? fun w => w.asid == asid && w.level == level && w.va == levelBase level va).map (·.entry.toNat)

/-- Walk from a level (R385-R387); `fuel` is the number of levels left, `ws` the pointer entries the walk cache holds, to
which the ones read are added. -/
def walkFrom (s : State) (asid : Nat) : Nat → Nat → Nat → Nat → List WalkEnt → Except XFault (Xlat × List WalkEnt)
  | 0, _, _, _, _ => .error .format
  | fuel + 1, level, table, va, ws =>
    match cachedPointer ws asid level va with
    | some e => walkFrom s asid fuel (level + 1) (fieldN e 12 40 * 4096) va ws
    | none =>
      let a := table + 8 * levelIndex level va
      match poisoned s a 8 with
      | some w => .error (.mcheck w)
      | none =>
        let e := loadPhys s a 8
        if !(bitN e 0) then .error (.missing (level - 1))
        else if !(entryFormatOk level e) then .error .format
        else if bitN e 1 then
          let b := leafBits level e
          .ok (⟨va / 2 ^ b * 2 ^ b, b, e, leafBase level e, some a⟩, ws)
        else walkFrom s asid fuel (level + 1) (fieldN e 12 40 * 4096) va (⟨asid, level, levelBase level va, word e⟩ :: ws)

/-- Where the descriptor of an ASID lies (R384). -/
def asidDesc (s : State) (asid : Nat) : Nat := devReg s 0x100 / 32 * 32 + 32 * asid

/-- The address-space descriptor of an ASID: its root, unless it cannot be read or breaks a rule (R384, R403). -/
def asidRoot (s : State) (asid : Nat) : Except XFault Nat :=
  let a := asidDesc s asid
  match poisoned s a 32 with
  | some w => .error (.mcheck w)
  | none =>
    let d0 := loadPhys s a 8
    let d1 := loadPhys s (a + 8) 8
    if bitN d0 0 && fieldN d0 52 12 == 0 && fieldN d0 1 11 == 0 && fieldN d1 52 12 == 0 && !(bitN d1 4) &&
        fieldN d1 0 4 ≤ 8 && loadPhys s (a + 16) 16 == 0 then .ok (fieldN d0 12 40 * 4096) else .error .format

/-- Walk the page tables of an ASID for a cluster. -/
def walkWith (s : State) (cluster asid va : Nat) : Except XFault (Xlat × List WalkEnt) := do
  let root ← asidRoot s asid
  walkFrom s asid 4 1 root va (clusterAt s cluster).walks

/-- What a walk finds. -/
def walk (s : State) (cluster asid va : Nat) : Except XFault Xlat := (walkWith s cluster asid va).map (·.1)

/-- The range descriptors of an ASID as a core loads them (R388, R389): one that breaks a rule, is not enabled or
cannot be read is left out. DEDUCED, log 27. DESIGN CHOICE, log 27. -/
def loadRanges (s : State) (asid : Nat) : List RangeEnt :=
  match asidRoot s asid with
  | .error _ => []
  | .ok _ =>
    let d1 := loadPhys s (asidDesc s asid + 8) 8
    (List.range (fieldN d1 0 4)).filterMap fun i =>
      let r := fieldN d1 5 47 * 32 + 32 * i
      let vb := loadPhys s r 8
      let vl := loadPhys s (r + 8) 8
      let pb := loadPhys s (r + 16) 8
      let at' := loadPhys s (r + 24) 8
      let ok := fieldN vb 48 16 == 0 && fieldN vb 0 16 == 0 && fieldN vl 48 16 == 0 && fieldN vl 0 16 == 0 &&
        vb ≤ vl && fieldN pb 52 12 == 0 && fieldN pb 0 16 == 0 && fieldN at' 58 6 == 0 && fieldN at' 12 40 == 0 &&
        !(bitN at' 52) && !(bitN at' 9) && !(bitN at' 8) && !(bitN at' 7) && !(bitN at' 6) && !(bitN at' 1) &&
        (bitN at' 57 || fieldN at' 53 4 == 0) && (!(bitN at' 3) || bitN at' 2)
      if ok && bitN at' 0 && (poisoned s r 32).isNone then some ⟨vb, vl + 0xFFFF, pb, word at'⟩ else none

/-- The permission check of a leaf (R387): a user access needs U. -/
def leafAllows (leaf : Nat) (acc : Access) (sv : Bool) : Except XFault Unit :=
  match acc with
  | .fetch => if !(bitN leaf 4) then .error .noX else if !sv && !(bitN leaf 5) then .error .noU else .ok ()
  | .read => if bitN leaf 2 && (sv || bitN leaf 5) then .ok () else .error .forbidden
  | .write => if bitN leaf 3 && (sv || bitN leaf 5) then .ok () else .error .forbidden

/-- Whether an access would set a bit of a leaf (R390): A, or D for a write. -/
def needsUpdate (leaf : Nat) (acc : Access) : Bool := !(bitN leaf 6) || (acc == .write && !(bitN leaf 7))

/-- The leaf with the bits an access sets. -/
def updatedLeaf (leaf : Nat) (acc : Access) : Nat :=
  setFieldN (setFieldN leaf 6 1 1) 7 1 (if acc = .write || bitN leaf 7 then 1 else 0)

/-- The last check: holes forbid, and device registers are for supervisor strands only (R162, R280). -/
def placeAllows (s : State) (pa : Nat) (acc : Access) (sv : Bool) : Except XFault Unit :=
  match placeOf s pa with
  | .hole => .error .hole
  | .device _ => if acc = .fetch then .error .device else if sv then .ok () else .error .device
  | _ => .ok ()

/-! ### Translation caches (R389) -/

/-- Whose translation caches an access goes through: a core's with its cluster's, or a cluster's alone. -/
inductive Via where
  | core (p : Nat)
  | cluster (c : Nat)
deriving DecidableEq, Repr

/-- The cluster of the walkers. -/
def Via.home (v : Via) : Nat := match v with
  | .core p => clusterOf p
  | .cluster c => c

/-- The TLB of a core that an access uses: I-TLB for a fetch, D-TLB otherwise. -/
def coreTlb (c : Core) (acc : Access) : List TlbEnt := if acc = .fetch then c.itlb else c.dtlb

/-- An entry serves an address; one with D = 0 serves no write (R389, R390). -/
def TlbEnt.serves (e : TlbEnt) (asid va : Nat) (acc : Access) : Bool :=
  e.asid == asid && e.va == va / 2 ^ e.bits * 2 ^ e.bits &&
    !(acc == .write && bitN e.leaf.toNat 3 && !(bitN e.leaf.toNat 7))

/-- The entry of the core's own TLB, then of the L2 TLB, that serves an address. -/
def tlbFind (s : State) (via : Via) (asid va : Nat) (acc : Access) : Option TlbEnt :=
  let own := match via with
    | .core p => (coreTlb (coreAt s p) acc).find? fun (e : TlbEnt) => e.serves asid va acc
    | .cluster _ => none
  own.orElse fun _ => (clusterAt s via.home).l2tlb.find? fun (e : TlbEnt) => e.serves asid va acc

/-- An entry put into a TLB of `cap` entries in place of one for the same page, or of one that `pick` chooses when the TLB
is full (R389 "not specified"). -/
def tlbPut (cap pick : Nat) (l : List TlbEnt) (e : TlbEnt) : List TlbEnt :=
  let l := l.filter fun x => !(x.asid == e.asid && x.va == e.va && x.bits == e.bits)
  if l.length < cap then e :: l else e :: l.eraseIdx (pick % l.length)

/-- A translation enters the core's own TLB, of 32 entries for fetches and of 64 for data, and the L2 TLB, of 4,096
(R389). DESIGN CHOICE, log 27. -/
def tlbInsert (s : State) (via : Via) (acc : Access) (e : TlbEnt) : State :=
  let c := clusterAt s via.home
  let s := setCluster s via.home { c with l2tlb := tlbPut 4096 (freeNat s 21 e.va (2 ^ 16)) c.l2tlb e }
  match via with
  | .core p =>
    modCore s p fun x =>
      if acc = .fetch then { x with itlb := tlbPut 32 (freeNat s 20 e.va (2 ^ 16)) x.itlb e }
      else { x with dtlb := tlbPut 64 (freeNat s 20 e.va (2 ^ 16)) x.dtlb e }
  | .cluster _ => s

/-- The walker's CAS of the leaf it has read, where the access sets a bit: it waits while the word is reserved (R177, R390).
The state and the leaf. -/
def setBits (s : State) (x : Xlat) (acc : Access) : Except XFault (State × Nat) :=
  match x.entry, needsUpdate x.leaf acc with
  | some a, true =>
    match reservedByOther s none a 8 with
    | some w => .error (.held w)
    | none => .ok (storePhys s none a 8 (updatedLeaf x.leaf acc), updatedLeaf x.leaf acc)
  | _, _ => .ok (s, x.leaf)

/-- Translate an address for an access (R384-R391): the range descriptors of the launch first, then the TLBs, then a walk,
which sets A and D by a CAS and inserts what it found. The state, the physical address and the leaf's attributes.
DESIGN CHOICE, log 27. -/
def translate (s : State) (lid : Nat) (via : Via) (asid : Nat) (sv : Bool) (acc : Access) (va : Nat) :
    Except XFault (State × Nat × Nat) :=
  let range : Option RangeEnt := match launchAt s lid with
    | some l => l.ranges.find? fun (r : RangeEnt) => decide (r.vbase ≤ va) && decide (va ≤ r.vlast)
    | none => none
  match range with
  | some r => do
    leafAllows r.attr.toNat acc sv
    let pa := r.pbase + (va - r.vbase)
    placeAllows s pa acc sv
    .ok (s, pa, r.attr.toNat)
  | none =>
    match tlbFind s via asid va acc with
    | some e => do
      leafAllows e.leaf.toNat acc sv
      let pa := e.pa + va % 2 ^ e.bits
      placeAllows s pa acc sv
      .ok (tlbInsert s via acc e, pa, e.leaf.toNat)
    | none => do
      let (x, ws) ← walkWith s via.home asid va
      leafAllows x.leaf acc sv
      let pa := x.pa + va % 2 ^ x.bits
      placeAllows s pa acc sv
      let (s, leaf) ← setBits s x acc
      let s := setCluster s via.home { clusterAt s via.home with walks := ws }
      .ok (tlbInsert s via acc ⟨asid, x.va, x.bits, word leaf, x.pa⟩, pa, leaf)

/-- What PREF and prefetch find (R291, R389): a range descriptor, an entry of the TLBs, or, where a walk is allowed, a
leaf that already has A = 1, which is inserted as it stands. -/
def peekTranslate (s : State) (lid : Nat) (via : Via) (asid : Nat) (sv walks : Bool) (acc : Access) (va : Nat) :
    Option (State × Nat × Nat) :=
  let range : Option RangeEnt := match launchAt s lid with
    | some l => l.ranges.find? fun (r : RangeEnt) => decide (r.vbase ≤ va) && decide (va ≤ r.vlast)
    | none => none
  let held : Bool := range.isSome || (tlbFind s via asid va acc).isSome
  let ready : Bool := match walk s via.home asid va with
    | .ok x => !(needsUpdate x.leaf acc)
    | .error _ => false
  if held || (walks && ready) then (translate s lid via asid sv acc va).toOption else none

/-! ### The page-migration counters (R302) -/

/-- The place of the counter with the lowest count, the lowest number on a tie. -/
def lowestCounter (cs : List PageCounter) : Nat :=
  (cs.zipIdx.foldl (fun (best : Nat × Nat) c => if c.1.count < best.1 then (c.1.count, c.2) else best)
    (2 ^ 16, 0)).2

/-- One line read or written from a cluster (R302). -/
def countLine (s : State) (c asid va : Nat) (wrote : Bool) : State :=
  let x := clusterAt s c
  let page := va / 65536
  let pmc :=
    if x.pmc.any fun e => e.asid == asid && e.page == page then
      x.pmc.map fun e => if e.asid == asid && e.page == page then
        { e with count := Nat.min (e.count + 1) 65535, wrote := e.wrote || wrote } else e
    else if x.pmc.length < 256 then x.pmc ++ [⟨asid, page, 1, wrote⟩]
    else listSet x.pmc (lowestCounter x.pmc) ⟨asid, page, 1, wrote⟩
  setCluster s c { x with pmc := pmc }

/-- Count a line of memory at a physical address that a cluster reads or writes at a virtual one: vault and pool lines
alone count (R302). -/
def countPlace (s : State) (c asid va pa : Nat) (wrote : Bool) : State :=
  match placeOf s pa with
  | .vault _ _ | .pool _ => countLine s c asid va wrote
  | _ => s

/-- The page of an address is write-protected by the migrator, or replicated: a write to it waits (R304). -/
def pageHeld (s : State) (asid ea : Nat) : Bool :=
  s.migrations.any (fun m => m.began && m.asid == asid && m.page == ea / 65536) ||
    s.replicas.any fun r => r.asid == asid && r.page == ea / 65536

/-! ### Fault entries (R395-R397) -/

/-- A fault-queue entry (R397): level minus 1, access, address, unit, slot, logical core, launch, ASID. -/
def faultEntry (level access va unit slot logical lid asid : Nat) : BitVec 128 :=
  BitVec.ofNat 128 (va % 2 ^ 48 + access % 8 * 2 ^ 48 + level % 4 * 2 ^ 56 +
    (asid % 2 ^ 16 + lid % 2 ^ 16 * 2 ^ 16 + logical % 2 ^ 16 * 2 ^ 32 + slot % 16 * 2 ^ 48 + unit % 8 * 2 ^ 52) * 2 ^ 64)

/-- An agent hands its entry to the cluster's fault queue, which posts it when room exists (R397). -/
def postFault (s : State) (c : Nat) (e : BitVec 128) : State :=
  let x := clusterAt s c
  addEvent (setCluster s c { x with fqWait := x.fqWait ++ [e] }) (.faultQueuePost c)

/-- A strand parks silently on a missing translation (R395): nothing it did stands, and its entry goes to the
fault queue. -/
def parkFault {α : Type} (s0 : State) (level access va : Nat) : Res α :=
  let p := curP s0
  let t := curStrand s0
  let s := postFault s0 (clusterOf p)
    (faultEntry level access va 0 (curSlot s0) (coreAt s0 p).logical t.lid (asidOf s0 t.lid))
  .error (.park (.fault (BitVec.ofNat 48 va) level) (some s))

/-- EVAL of a PROTECT trap for an address (R394). -/
def protectVal (x : XFault) (va : Nat) : Nat := va % 2 ^ 48 + (if x = .format then 2 ^ 61 else 0)

/-- How a data access of the strand that issues ends on a fault of its translation (R387, R395, R403); behind
a reserved leaf entry it waits (R177). -/
def dataFault {α : Type} (s0 : State) (x : XFault) (access va : Nat) : Res α :=
  match x with
  | .missing l => parkFault s0 l access va
  | .mcheck pa => trapNow cMCHECK (pa % 2 ^ 48 + 6 * 2 ^ 56)
  | .held w => parkNow (.reservation w)
  | _ => trapNow cPROTECT (protectVal x va)

/-! ### Instruction fetch (R289-R292) -/

/-- EVAL of a FETCH trap (R394): the address of the word and the reason. -/
def fetchVal (x : XFault) (va : Nat) : Nat :=
  va % 2 ^ 48 + 2 ^ 56 * (match x with
    | .missing _ => 0
    | .noX => 1
    | .noU => 2
    | .hole => 3
    | .device => 4
    | .format => 5
    | _ => 6)

/-- The 32-bit word at an address of a 64-byte line. -/
def lineWord (line : BitVec 512) (va : Nat) : BitVec 32 := BitVec.ofNat 32 (line.toNat / 2 ^ (8 * (va % 64)))

/-- A line put into a cache of `sets` sets and `ways` ways; when its set is full, the line that `pick` chooses leaves it.
The cache, and the line that left (R289 "not specified"). -/
def cachePut (sets ways pick : Nat) (l : List (Nat × BitVec 512)) (line : Nat) (data : BitVec 512) :
    List (Nat × BitVec 512) × Option Nat :=
  let l := l.filter fun e => e.1 != line
  let same := l.filter fun e => e.1 % sets == line % sets
  if same.length < ways then ((line, data) :: l, none)
  else
    let out := (same[pick % same.length]?).map (·.1)
    ((line, data) :: l.filter (fun e => some e.1 != out), out)

/-- A line as a cache holds it. -/
def cacheGet (l : List (Nat × BitVec 512)) (line : Nat) : Option (BitVec 512) := (l.find? fun e => e.1 == line).map (·.2)

/-- The line buffers of the strands that a test on their keys picks drop a physical line (R289). -/
def dropBuffers (s : State) (pick : Nat → Bool) (gone : Nat → Bool) : State :=
  { s with strands := tmap s.strands fun k t =>
      if pick k && t.lineBuf.any (fun b => gone b.2.1) then { t with lineBuf := none } else t }

/-- A line leaves a core's L1, and the core's line buffers with it (R289). -/
def leaveL1 (s : State) (p : Nat) (gone : Nat → Bool) : State :=
  dropBuffers (modCore s p fun c => { c with l1 := c.l1.filter fun e => !(gone e.1) }) (fun k => keyCore k == p) gone

/-- A line leaves a cluster's middle cache, and every L1 and line buffer of the cluster with it (R289). -/
def leaveMiddle (s : State) (c : Nat) (gone : Nat → Bool) : State :=
  let s := setCluster s c { clusterAt s c with icache := (clusterAt s c).icache.filter fun e => !(gone e.1) }
  let keep (p : Nat) (x : Core) : Core :=
    if clusterOf p = c then { x with l1 := x.l1.filter fun e => !(gone e.1) } else x
  let s := { s with cores := tmap s.cores keep }
  dropBuffers s (fun k => clusterOf (keyCore k) == c) gone

/-- A line enters a cluster's middle cache of 256 sets and 8 ways; the line it displaces leaves the L1s (R289).
DESIGN CHOICE, log 27. -/
def fillMiddle (s : State) (c line : Nat) (data : BitVec 512) : State :=
  let x := clusterAt s c
  let (l, out) := cachePut 256 8 (freeNat s 23 line 8) x.icache line data
  let s := setCluster s c { x with icache := l }
  match out with
  | some g => leaveMiddle s c (· == g)
  | none => s

/-- A line enters a core's L1 of 64 sets and 4 ways (R289). DESIGN CHOICE, log 27. -/
def fillL1 (s : State) (p line : Nat) (data : BitVec 512) : State :=
  let x := coreAt s p
  let (l, out) := cachePut 64 4 (freeNat s 22 line 4) x.l1 line data
  let s := setCore s p { x with l1 := l }
  match out with
  | some g => leaveL1 s p (· == g)
  | none => s

/-- The 64 bytes of a physical line, as memory holds them. -/
def lineBytes (s : State) (line : Nat) : BitVec 512 := BitVec.ofNat 512 (loadPhys s (line * 64) 64)

/-- A line of an address put into the middle cache of the strand's cluster if it can be fetched without a walk, and from
there, with `l1`, into the L1 of its core; otherwise nothing (R123, R291). -/
def prefetchInto (l1 : Bool) (s : State) (va : Nat) : State :=
  if isNear va then s
  else
    let t := curStrand s
    let p := curP s
    let c := clusterOf p
    match peekTranslate s t.lid (.cluster c) (asidOf s t.lid) t.sv false .fetch va with
    | none => s
    | some (s', pa, _) =>
      let line := lineOf pa
      let s2 :=
        if (cacheGet (clusterAt s' c).icache line).isSome || (poisoned s' (line * 64) 64).isSome then s'
        else fillMiddle (countPlace s' c (asidOf s t.lid) va pa false) c line (lineBytes s' line)
      match l1 && (cacheGet (coreAt s2 p).l1 line).isNone, cacheGet (clusterAt s2 c).icache line with
      | true, some data => fillL1 s2 p line data
      | _, _ => s2

/-- The prefetch of a line into the middle cache (R291). -/
def prefetchLine (s : State) (va : Nat) : State := prefetchInto false s va

/-- The sequential prefetch after a demand miss or on entering a new line: up to two further lines, how many being open
(R291). DESIGN CHOICE, log 27. -/
def prefetchNext (s : State) (va : Nat) : State :=
  (List.range (freeNat s 24 va 3)).foldl (fun acc i => prefetchLine acc ((va / 64 * 64 + 64 * (i + 1)) % 2 ^ 48)) s

/-- The word at a virtual address as the strand that issues fetches it: from its line buffer, or through a translation
from the core's L1; a line that the L1 lacks takes the strand out of rotation until it arrives (R290). `head` marks the
instruction's first word, whose line the line buffer takes. DESIGN CHOICE, log 27. -/
def fetchWord (s : State) (va : Nat) (head : Bool) : Res (State × BitVec 32) :=
  let t := curStrand s
  let fromBuf : Option (BitVec 32) := match t.lineBuf with
    | some (l, _, bytes) => if l = va / 64 then some (lineWord bytes va) else none
    | none => none
  match fromBuf with
  | some w => .ok (s, w)
  | none =>
    if isNear va then trapNow cFETCH (va % 2 ^ 48 + 6 * 2 ^ 56)
    else
      let p := curP s
      match translate s t.lid (.core p) (asidOf s t.lid) t.sv .fetch va with
      | .error (.mcheck pa) => trapNow cMCHECK (pa % 2 ^ 48 + 6 * 2 ^ 56)
      | .error (.held w) => parkNow (.reservation w)
      | .error x => trapNow cFETCH (fetchVal x va)
      | .ok (s', pa, _) =>
        let line := lineOf pa
        match cacheGet (coreAt s' p).l1 line with
        | some data =>
          let s1 : State := if head = true then setCur s' (fun t => { t with lineBuf := some (va / 64, line, data) }) else s'
          .ok (prefetchNext s1 va, lineWord data va)
        | none =>
          match (cacheGet (clusterAt s' (clusterOf p)).icache line), poisoned s' (line * 64) 64 with
          | none, some w => trapNow cMCHECK (w % 2 ^ 48 + 5 * 2 ^ 56)
          | _, _ => .error (.park (.fetch va) (some (addEvent s' (.fetchLineArrival s.cur))))

/-- The word after a LIMM; any other word stands alone (R51, R56). -/
def fetchSecond (s : State) (w : BitVec 32) : Res (State × Option (BitVec 32)) :=
  if opOf w = 0x7F then
    match fetchWord s (((curStrand s).pc.toNat + 4) % 2 ^ 48) false with
    | .ok (s', v) => .ok (s', some v)
    | .error e => .error e
  else .ok (s, none)

/-- The patch-table entry whose pattern stands at the PC of the strand that issues, all of it in the line the
strand holds (R418); the lowest index if several match. -/
def patchMatch (s : State) : Option Nat :=
  let t := curStrand s
  match t.lineBuf with
  | none => none
  | some (_, _, line) =>
    (s.hub.patch.zipIdx.find? fun e =>
      (if t.sv then e.1.sv else e.1.usr) && t.pc.toNat % 64 + 4 * e.1.mask.length ≤ 64 &&
      (e.1.mask.zip e.1.val).zipIdx.all fun m => lineWord line (t.pc.toNat + 4 * m.2) &&& m.1.1 == m.1.2).map (·.2)

/-- The instruction of the words fetched. -/
def decodeFetched (w : BitVec 32) (w2 : Option (BitVec 32)) : Except DecodeError Instr :=
  match w2 with
  | some v => decodePair (fld 25 0 w) v
  | none => decodeWord w

/-- The latch of the words fetched: the word that R59 reports, and the instruction's length. -/
def latchOf (w : BitVec 32) (w2 : Option (BitVec 32)) : Fetched :=
  match w2 with
  | some v => ⟨v, 8⟩
  | none => ⟨w, 4⟩

/-! ### Which strand issues (R342, R130) -/

/-- A strand that YIELDed holds back until every other strand then ready has issued, or 16 cycles have passed
(R130). DESIGN CHOICE, log 45. -/
def yieldOver (s : State) (k : Nat) (t : Strand) : Bool :=
  match t.yieldAt with
  | none => true
  | some c => c + 16 ≤ s.cycle || !(s.strands.any fun e =>
      e.1 != k && keyCore e.1 == keyCore k && e.2.lastIssue.all (· < c) && e.2.halted.isNone &&
      (match e.2.run with
       | .ready since => since ≤ c
       | _ => false))

/-- A grey-out has stopped a strand; one that holds a reservation, or has been granted one, runs to its REL (R404). -/
def greyStopped (s : State) (k : Nat) (t : Strand) : Bool :=
  (launchAt s t.lid).any (·.greying) && t.holds.isNone && s.rsvs.all fun r => r.2.holder != some k

/-- A strand is in rotation, and nothing keeps it from issuing: neither kydb, a YIELD, a grey-out, nor a write of its own
that still waits at a word's home (R163, R177), which does not keep it from a trap it owes (R180). -/
def inRotation (s : State) (k : Nat) (t : Strand) : Option Nat :=
  match t.run with
  | .ready since =>
    if t.halted.isSome || !(yieldOver s k t) || greyStopped s k t || (t.pend.isEmpty && writesWaiting s k) then none
    else some since
  | _ => none

/-- A strand is eligible in a cycle: in rotation, and its last issue 8 or more cycles ago (R342). The cycle since which it
has been in rotation, and its last issue if it has issued since then. -/
def eligible (s : State) (k : Nat) (t : Strand) : Option (Nat × Option Nat) :=
  (inRotation s k t).bind fun since =>
    if since ≤ s.cycle && t.lastIssue.all (fun c => c + 8 ≤ s.cycle) then some (since, t.lastIssue.filter (since ≤ ·))
    else none

/-- The candidate with the lowest number, on a tie the first. -/
def leastBy (f : Nat × Nat × Option Nat → Nat) (xs : List (Nat × Nat × Option Nat)) : Option (Nat × Nat × Option Nat) :=
  xs.foldl (fun best x => match best with
    | some b => if f x < f b then some x else best
    | none => some x) none

/-- The cycle from which a candidate has waited: its last issue, or its joining rotation where it has not issued since.
DESIGN CHOICE, log 2. -/
def waitsSince (x : Nat × Nat × Option Nat) : Nat := x.2.2.getD x.2.1

/-- The strand that a core issues in a cycle (R342): the eligible one that issued least recently, one that has not yet issued
since joining rotation counting from then, so that none waits longer than R344 allows; on a tie the one longest in rotation,
then the lowest slot. DESIGN CHOICE, log 2. -/
def coreIssuer (s : State) (p : Nat) : Option Nat :=
  let xs := s.strands.filterMap fun e =>
    if keyCore e.1 = p then (eligible s e.1 e.2).map fun r => (e.1, r.1, r.2) else none
  let least := (leastBy waitsSince xs).map waitsSince
  (leastBy (fun x => x.2.1) (xs.filter fun x => some (waitsSince x) == least)).map (·.1)

/-- A core has issued its packet of the present cycle (R342). -/
def hasIssued (s : State) (p : Nat) : Bool := (coreAt s p).issued == some s.cycle

/-- The strand that issues next: the one whose packet has a second instruction (R343), otherwise that of the first core
that has not issued in this cycle and has a strand to issue; none when the cycle is over. DESIGN CHOICE, log 2. -/
def nextIssuer (s : State) : Option Nat :=
  match s.paired.filter fun k => (tget s.strands k).any fun t => (inRotation s k t).isSome with
  | some k => some k
  | none => s.strands.findSome? fun e =>
      if hasIssued s (keyCore e.1) then none else coreIssuer s (keyCore e.1)

/-- The strand takes its issue turn; the second instruction of a packet belongs to the first's turn (R343). -/
def beginIssue (s : State) (k : Nat) : State :=
  let s := if s.paired = some k then { s with paired := none }
    else
      let s := setStrand { s with paired := none } k { strandAt s k with lastIssue := some s.cycle, yieldAt := none }
      modCore s (keyCore k) fun c => { c with issued := some s.cycle }
  { s with cur := k }

/-! ### Launch reports (R427, R428) -/

/-- The reports that the ring at LRBASE holds. -/
def ringSize (s : State) : Nat := (fieldN (devReg s 0x40) 0 8 + 1) * 256

/-- Held reports written at the tail of the ring, in order, while it has room. -/
def writeReports : List (BitVec 128) → State → State
  | [], s => { s with reports := [] }
  | r :: rest, s =>
    if ringSize s ≤ (s.lrTail - s.lrHead).toNat then { s with reports := r :: rest }
    else
      let a := fieldN (devReg s 0x40) 12 40 * 4096 + 16 * (s.lrTail.toNat % ringSize s)
      writeReports rest { agentWrite s launchWriter a 16 r.toNat with lrTail := s.lrTail + 1 }

/-- The ring has no room for a report: the launch unit then admits, ends and restores no launch (R428). -/
def ringFull (s : State) : Bool := !s.reports.isEmpty || ringSize s ≤ (s.lrTail - s.lrHead).toNat

/-- The launch unit writes what reports it can. -/
def flushReports (s : State) : State := if s.reports.isEmpty then s else writeReports s.reports s

/-- The watchdog of a launch does not count: a strand is parked on a fault, an engine is stopped, or a backfill job
waits on a fault (R352). -/
def launchPaused (s : State) (lid : Nat) : Bool :=
  (s.strands.any fun e => e.2.lid == lid && (match e.2.run with
    | .parked (.fault _ _) => true
    | _ => false)) ||
  (s.cores.any fun e => e.2.lid == lid && (e.2.mx.fault.isSome || e.2.vx.fault.isSome ||
    e.2.copies.any fun c => c.2.fault.isSome && c.2.status.isNone)) ||
  (s.jobs.any fun e => e.2.lid == lid && e.2.fault)

/-- The end of a window of 2^20 cycles is an event (R302). -/
def windowEnd (s : State) : State := if s.cycle % 2 ^ 20 = 0 then addEvent s .migrationWindow else s

/-- Time passes (one cycle): the counters advance, the watchdog of every launch that is not paused counts down,
reports go to their ring, and a migration window may end (R302, R352, R428). DESIGN CHOICE, log 2. -/
def passTime (s : State) : State :=
  windowEnd (flushReports { s with cycle := s.cycle + 1, paired := none,
                                   launches := tmap s.launches fun i l =>
                                     if l.started && !l.hung && !(launchPaused s i) then
                                       { l with wdogLeft := l.wdogLeft - 1 }
                                     else l })

/-- A breakpoint stands at the PC of a strand that is about to issue (R275, R328). DEDUCED, log 32. -/
def atBreak (s : State) (k : Nat) (t : Strand) : Bool :=
  !t.skipBrk && s.breaks.any fun b => b.lid == t.lid && b.addr == t.pc &&
    (match b.core with
     | some l => l == (coreAt s (keyCore k)).logical
     | none => true)

end Sys2Proof.Machine
end

