-- ==== Sys2Proof/Machine/Replay.lean ====
section
/-!
DEFINITION. Record and replay of a launch's events (spec/13 R355-R357; spec/14 R358). The log of future operations
is the one R358 lays out; the other events use the same 16 bytes with operation codes of the model's own.
-/

namespace Sys2Proof.Machine

/-- The logical module of a launch's context, x, y and z from bit 0 (R413, R427 SELF). -/
def selfWord (s : State) (lid : Nat) : Nat :=
  match launchAt s lid with
  | some l => fieldN (devReg s (0x1010 + 32 * l.ctx)) 12 12
  | none => 0

/-- The sender word of R192; `unit` is a fault entry's unit number, 0 for a strand. -/
def senderWord (s : State) (lid p slot unit : Nat) : Nat :=
  (coreAt s p).logical % 2 ^ 16 + slot % 16 * 2 ^ 16 + unit % 8 * 2 ^ 20 + selfWord s lid * 2 ^ 32

/-- A launch's RR mode: 0 normal, 1 record, 2 replay (R332). -/
def rrMode (s : State) (lid : Nat) : Nat :=
  match launchAt s lid with
  | some l => l.field 0x68 5 2
  | none => 0

/-- The address of an offset in a launch's record or replay buffer (R332). -/
def rrVa (l : Launch) (off : Nat) : Nat := l.field 0x80 6 42 * 64 + off

/-- The physical address of a launch's record or replay buffer at an offset, if it translates, with what the walk has set
(R332, R390, R443). DEDUCED, log 13. -/
def rrAddr (s : State) (l : Launch) (lid off : Nat) (acc : Access) : Except XFault (State × Nat) :=
  let c := match l.coreMap with
    | e :: _ => clusterOf e.2
    | [] => 0
  (translate s lid (.cluster c) l.asid (l.field 0x68 4 1 == 1) acc (rrVa l off)).map
    fun x => (x.1, x.2.1)

/-- An event's first 8 bytes: state, shade, operation and the low 32 bits of the place (R358); a place of more bits
uses the bits that R358 leaves 0 for other operations. DEDUCED, log 13. -/
def rrWord (op place st shade : Nat) : Nat :=
  place % 2 ^ 32 + op % 2 ^ 8 * 2 ^ 32 + (if op < 16 then shade % 16 * 2 ^ 40 + st % 16 * 2 ^ 44
    else place / 2 ^ 32 % 2 ^ 24 * 2 ^ 40)

/-- Put a launch's record. -/
def setRecord (s : State) (lid : Nat) (l : Launch) : State := { s with launches := tset s.launches lid l }

/-- The recording of a launch stops (R357). -/
def stopRecord (s : State) (lid : Nat) (l : Launch) : State := setRecord s lid { l with rrFull := true, rrWait := [] }

/-- The events that wait are written to the buffer of a launch that records, in order. A full buffer stops the recording
(R357), and so does a page that cannot be written. While the leaf entry of its page is reserved by another agent, so that the
walker's CAS of it waits, or the page may not be written yet, an event waits (R177, R304, R390). DEDUCED, log 13. -/
def rrFlush (lid : Nat) : List (Nat × Nat) → State → State
  | [], s => s
  | e :: rest, s =>
    match launchAt s lid with
    | none => s
    | some l =>
      if l.rrFull then s
      else if l.rrPos + 16 > l.field 0x88 0 40 then stopRecord s lid l
      else
        match rrAddr s l lid l.rrPos .write with
        | .ok (s, pa) =>
          if pageHeld s l.asid (rrVa l l.rrPos) then s else
          let s := setRecord s lid { l with rrPos := l.rrPos + 16, rrWait := rest }
          rrFlush lid rest (agentWrite s launchWriter pa 16 (e.1 + e.2 * 2 ^ 64))
        | .error (.held _) => s
        | .error _ => stopRecord s lid l

/-- The events of a launch that wait are written, as far as they can be. -/
def rrRetry (s : State) (lid : Nat) : State :=
  match launchAt s lid with
  | some l => rrFlush lid l.rrWait s
  | none => s

/-- Append an event to the buffer of a launch that records, behind those that wait to be written (R355, R357).
DEDUCED, log 13. -/
def rrAppend (s : State) (lid lo hi : Nat) : State :=
  match launchAt s lid with
  | some l =>
    if l.field 0x68 5 2 != 1 || l.rrFull then s
    else rrRetry (setRecord s lid { l with rrWait := l.rrWait ++ [(lo, hi)] }) lid
  | none => s

/-- The end event: operation 0xFF, every other field 0 (R358). -/
def rrEnd (lo hi : Nat) : Bool := lo == 0xFF * 2 ^ 32 && hi == 0

/-- At most `n` logged events from number `i` on, each as its two words, with what the walks have set: up to the end event,
to a page that does not translate, to one whose leaf entry is reserved by another agent, whose CAS waits, or to an event with
an uncorrectable error, of which nothing is forwarded (R177, R358, R390, R403). DEDUCED, log 13. -/
def rrEvents (l : Launch) (lid : Nat) : Nat → Nat → State → State × List (Nat × Nat)
  | 0, _, s => (s, [])
  | n + 1, i, s =>
    match rrAddr s l lid (16 * i) .read with
    | .error _ => (s, [])
    | .ok (s1, pa) =>
      if (poisoned s1 pa 16).isSome || rrEnd (loadPhys s1 pa 8) (loadPhys s1 (pa + 8) 8) then (s1, [])
      else
        let (s2, r) := rrEvents l lid n (i + 1) s1
        (s2, (loadPhys s1 pa 8, loadPhys s1 (pa + 8) 8) :: r)

/-- The logged events of a launch in order, and the state that reading them leaves. -/
def rrRead (s : State) (lid : Nat) : State × List (Nat × Nat) :=
  match launchAt s lid with
  | some l => rrEvents l lid (l.field 0x88 0 40 / 16) 0 s
  | none => (s, [])

/-- The logged events of a launch in order. -/
def rrLog (s : State) (lid : Nat) : List (Nat × Nat) := (rrRead s lid).2

/-- The place of a word's home in the log: a local store of the launch by its logical core, so that a replay on other
physical cores finds it (R355, R414). DEDUCED, log 13. -/
def wordPlace (s : State) (lid w : Nat) : Nat :=
  match placeOf s w with
  | .ls p off => if (coreAt s p).lid = lid then 2 ^ 55 + (coreAt s p).logical * 16384 + off / 8 else w / 8
  | _ => w / 8

/-- The place of a cluster's dispatcher in the log: the lowest of the launch's logical cores in the cluster (R355, R414).
DEDUCED, log 13. -/
def clusterPlace (s : State) (lid c : Nat) : Nat :=
  match launchAt s lid with
  | some l => ((l.coreMap.find? fun e => clusterOf e.2 == c).map (·.1)).getD 65536
  | none => 65536

/-- Where two logged words are of one place: the same index of a future, or the same place of another kind of event
(R355). -/
def rrSamePlace (a b : Nat) : Bool :=
  let oa := fieldN a 32 8
  let ob := fieldN b 32 8
  if oa < 16 && ob < 16 then fieldN a 0 24 == fieldN b 0 24
  else oa == ob && fieldN a 0 32 == fieldN b 0 32 && fieldN a 40 24 == fieldN b 40 24

/-- The next logged event of a place that a replay has not performed (R356). -/
def rrNext (s : State) (lid word : Nat) : Option (Nat × Nat × Nat) :=
  match launchAt s lid with
  | some l =>
    ((rrLog s lid).zipIdx.find? fun e => !(l.rrDone.contains e.2) && rrSamePlace e.1.1 word).map
      fun e => (e.2, e.1.1, e.1.2)
  | none => none

/-- Whether an event may be performed now: always unless the launch replays, and then only if it is the next of its
place in the log (R356); if it may, the log counts it as performed and those that waited for it look again.
DEDUCED, log 13. -/
def rrAllow (s : State) (lid op place issuer : Nat) : Option State :=
  if rrMode s lid != 2 then some s
  else
    match rrNext s lid (rrWord op place 0 0) with
    | some (i, w, who) =>
      if fieldN w 32 8 = op && who = issuer then
        let s := (rrRead s lid).1
        let s := { s with launches := tmap s.launches fun k l =>
                     if k = lid then { l with rrDone := i :: l.rrDone } else l }
        some (wakeWhere s fun _ _ c => c == .replay lid)
      else none
    | none => none

/-- The gate of an event of the strand that issues: it parks until its turn (R356). DEDUCED, log 13. -/
def rrGate (s : State) (op place : Nat) : Res State :=
  let t := curStrand s
  match rrAllow s t.lid op place (senderWord s t.lid (curP s) (curSlot s) 0) with
  | some s' => .ok s'
  | none => parkNow (.replay t.lid)

/-- Record an event of the strand that issues (R355). -/
def rrRecord (s : State) (op place st shade : Nat) : State :=
  let t := curStrand s
  rrAppend s t.lid (rrWord op place st shade) (senderWord s t.lid (curP s) (curSlot s) 0)

end Sys2Proof.Machine
end

