-- ==== Sys2Proof/Machine/Ops.lean ====
section
/-!
DEFINITION. The shared operations that end an instruction: futures at their homes, the taking of a trap with the return
from it, and what an instruction or an event leaves.
-/

namespace Sys2Proof.Machine

/-! ### Futures at their homes (R358-R362) -/

/-- The index of a handle. -/
def hIndex (h : BitVec 32) : Nat := fieldN h.toNat 0 24

/-- A future entry. -/
def futAt (s : State) (i : Nat) : Future := tgetD s.futures i Future.reset

/-- Put a future entry. -/
def setFut (s : State) (i : Nat) (f : Future) : State := { s with futures := tset s.futures i f }

/-- The entry a handle names; none when the handle is stale, 0 or names an EMPTY entry (R196). -/
def futOf (s : State) (h : BitVec 32) : Option Future :=
  let f := futAt s (hIndex h)
  if h = 0 || f.st = .empty || f.gen.toNat != fieldN h.toNat 24 8 then none else some f

/-- The home cluster of an index (R358). -/
def futHome (i : Nat) : Nat := fieldN i 0 11 ^^^ fieldN i 11 11

/-- The handle of an index, with its present generation. -/
def handleOf (s : State) (i : Nat) : BitVec 32 := BitVec.ofNat 32 ((futAt s i).gen.toNat * 2 ^ 24 + i)

/-- A task. -/
def taskAt (s : State) (t : Nat) : Option Task := tget s.tasks t

/-- Put a task. -/
def setTask (s : State) (t : Nat) (x : Task) : State := { s with tasks := tset s.tasks t x }

/-- A record becomes ready in its home queue (R348). -/
def makeReady (s : State) (t : Nat) : State :=
  match taskAt s t with
  | some x =>
    let s := setTask { s with readySeq := s.readySeq + 1 } t
      { x with st := .ready s.cycle s.readySeq, urgent := false, late := false }
    let s := addEvent (addEvent s (.taskDispatch x.home)) (.recordUrgent t)
    if x.job.isSome then addEvent s (.backfillPlacementTimeout t) else s
  | none => s

/-- What is done to an entry: resolve it (with a new Value or the old one), or cancel it. -/
inductive Settle where
  | resolve (v : Option (BitVec 64))
  | cancel (code : Nat)
deriving DecidableEq, Repr

/-- The number R358 gives a state. -/
def futStateCode (x : FutState) : Nat :=
  match x with
  | .empty => 0
  | .pending => 1
  | .resolved => 2
  | .cancelled => 3

/-- Who performs an operation on an entry, as the log names it (R358): the operation, the launch that logs it, the issuer;
`own` marks what an entry's home does of itself, which is not held back in a replay and counts as performed there. -/
structure FutLog where
  op  : Nat
  lid : Nat
  who : Nat
  own : Bool := false
deriving DecidableEq, Repr

/-- An operation that an entry's home performs of itself, by no strand's or unit's instruction: the launch that owns the entry
logs it, with no issuer. DEDUCED, log 13. -/
def homeLog (op owner : Nat) : FutLog := ⟨op, owner, 0, true⟩

/-- An operation on an entry is logged with the state and shade the entry has after it (R355, R358). -/
def logFut (s : State) (h : BitVec 32) (x : FutLog) : State :=
  let f := futAt s (hIndex h)
  let s := if x.own then (rrAllow s x.lid x.op h.toNat x.who).getD s else s
  rrAppend s x.lid (rrWord x.op h.toNat (futStateCode f.st) f.shade.toNat) x.who

/-- Free an entry: EMPTY, with its generation advanced (R359, R361). An allocation that waits for it under replay looks
again (R360). -/
def freeFut (s : State) (i : Nat) : State :=
  let f := futAt s i
  let h := handleOf s i
  let s := logFut (setFut s i { Future.reset with gen := f.gen + 1 }) h (homeLog 13 f.owner)
  let s := wakeWhere s fun _ _ c => match c with
    | .replay _ => true
    | _ => false
  s.jobs.foldl (fun acc j => if j.2.waiting then addEvent acc (.backfillJobStart j.2.cluster) else acc) s

/-- An anonymous task future is freed once it has settled and no waiter is left (R361). -/
def freeIfAnon (s : State) (i : Nat) : State :=
  let f := futAt s i
  if f.anon && f.waiters.isEmpty && (f.st = .resolved || f.st = .cancelled) then freeFut s i else s

/-- The handle of a task's future. -/
def taskHandle (s : State) (t : Nat) : BitVec 32 := ((taskAt s t).map (·.handle)).getD 0

/-- A ready record has left a cluster's task queue: who waits for room there tries again (R204). -/
def wakePost (s : State) (c : Nat) : State := wakeWhere s fun _ _ w => w == .postRoom c

/-- Waiter nodes of an entry's home have become free: who waits for one tries again (R362). -/
def wakeNodes (s : State) (i : Nat) (served : List Waiter) : State :=
  if served.isEmpty then s else wakeWhere s fun _ _ c => c == .nodes (futHome i)

/-- The waiter that stands for a record in an entry's list. -/
def Waiter.isRecord (t : Nat) (w : Waiter) : Bool := w.kind != .strand && w.ref == t

/-- A record leaves the lists it waits in, and its nodes are free (R362). -/
def leaveLists (s : State) (t : Nat) : State :=
  let joined := s.futures.filter fun e => e.2.waiters.any (Waiter.isRecord t)
  let s := { s with futures := tmap s.futures fun _ f => { f with waiters := f.waiters.filter fun w => !(w.isRecord t) } }
  joined.foldl (fun acc e => wakeNodes acc e.1 e.2.waiters) s

/-- A task is done with: its record is dropped, and a backfill job that runs it hears of it. -/
def dropTask (s : State) (t : Nat) : State :=
  match taskAt s t with
  | some x =>
    let s := wakePost (leaveLists { s with tasks := tdel s.tasks t } t) x.home
    match x.job with
    | some j => addEvent s (.backfillLayerDone j)
    | none => s
  | none => s

/-- A strand parked in FGET or SETTLE is served: it takes what the entry holds, and wakes (R199, R362).
DEDUCED, log 10. -/
def answerStrand (s : State) (k : Nat) (v : BitVec 64) (ok : Bool) : State :=
  match tget s.strands k with
  | some t =>
    match t.run with
    | .parked (.future h _) => wake (setStrand s k { t with answer := some (.future h v ok) }) k
    | _ => s
  | none => s

/-- One settling: the handle, how, and how it is logged. -/
abbrev Settling := BitVec 32 × Settle × FutLog

/-- What settles a task's future of itself: a promotion, or a cancel that its input passes on (R364, R368). DEDUCED,
log 13. DEDUCED, log 13. -/
def taskSettling (s : State) (t op : Nat) (how : Settle) : Settling :=
  let h := taskHandle s t
  (h, how, homeLog op (futAt s (hIndex h)).owner)

/-- Serve one waiter of an entry that has settled (R362, R364, R366): the state, and what this settles in its
turn. -/
def serveSettled (s : State) (w : Waiter) (how : Settle) (v : BitVec 64) : State × List Settling :=
  match w.kind, how with
  | .strand, _ => (answerStrand s w.ref v (how matches .resolve _), [])
  | .promote, .resolve _ => (dropTask s w.ref, [taskSettling s w.ref 12 (.resolve none)])
  | .promote, .cancel c => (dropTask s w.ref, [taskSettling s w.ref 12 (.cancel c)])
  | _, .resolve _ => (makeReady s w.ref, [])
  | _, .cancel c => (dropTask s w.ref, [taskSettling s w.ref 7 (.cancel c)])

/-- Settle a list of entries, each with what it brings about; one whose handle is stale is no entry any more, and one that
is not PENDING is left as it is (R196, R359). Each is logged as it stands right after its own step, which a promotion and a
free follow (R358). `fuel` bounds the chain: every entry settles once. -/
def settleAll : Nat → State → List Settling → State
  | 0, s, _ => s
  | _ + 1, s, [] => s
  | fuel + 1, s, (h, how, log) :: rest =>
    let i := hIndex h
    let f := (futOf s h).getD Future.reset
    if f.st = .pending then
      let f' : Future :=
        match how with
        | .resolve v => { f with st := .resolved, shade := 15, pub := true, value := v.getD f.value, waiters := [] }
        | .cancel c => { f with st := .cancelled, value := word c, waiters := [] }
      let s := logFut (setFut s i f') h log
      let s := if f.group = 0 then s else addEvent s (.groupMemberUpdate f.group (match how with
        | .resolve _ => 0
        | .cancel c => c))
      let p := f.waiters.foldl (fun (acc : State × List Settling) w =>
        let r := serveSettled acc.1 w how f'.value
        (r.1, acc.2 ++ r.2)) (s, [])
      settleAll fuel (freeIfAnon (wakeNodes p.1 i f.waiters) i) (rest ++ p.2)
    else settleAll fuel (if f.st = .empty then s else logFut s h log) rest

/-- Settle one entry. -/
def settle (s : State) (h : BitVec 32) (how : Settle) (log : FutLog) : State :=
  settleAll (2 + s.futures.length + (s.futures.map fun e => e.2.waiters.length).sum) s [(h, how, log)]

/-- PUBSH of shade `sh` on a handle by `producer`, the caps of the issuer having been applied (R207): the state
and p1. -/
def pubshAt (s : State) (h : BitVec 32) (sh : Nat) (producer : Nat) (log : FutLog) : State × Bool :=
  let i := hIndex h
  let f := (futOf s h).getD Future.reset
  let sh := if f.stop then 15 else sh
  if f.st = .empty then (s, false)
  else if f.st ≠ .pending || (f.pub && sh ≤ f.shade.toNat) then (logFut s h log, false)
  else if sh = 15 then
    (settle (setFut s i { f with producer := some producer }) h (.resolve none) log, true)
  else
    let served := f.waiters.filter fun w => w.min ≤ sh
    let s := setFut s i { f with shade := BitVec.ofNat 4 sh, pub := true, producer := some producer,
                                 waiters := f.waiters.filter fun w => !(w.min ≤ sh) }
    let s := logFut s h log
    (wakeNodes (served.foldl (fun acc w =>
      match w.kind with
      | .strand => answerStrand acc w.ref f.value true
      | _ => makeReady acc w.ref) s) i served, true)

/-- FDEC (R200): none when the count is already 0. -/
def fdecAt (s : State) (h : BitVec 32) (log : FutLog) : Option (State × Bool) :=
  let i := hIndex h
  let f := futAt s i
  if f.st ≠ .pending then some (logFut s h log, false)
  else if f.count = 0 then none
  else if f.count = 1 then some (settle (setFut s i { f with count := 0 }) h (.resolve none) log, true)
  else some (logFut (setFut s i { f with count := f.count - 1 }) h log, false)

/-! ### Traps (R392-R394) -/

/-- A report the launch unit is to write (R428). -/
def report (s : State) (lid status kind : Nat) (hi : Nat) : State :=
  { s with reports := s.reports ++ [BitVec.ofNat 128 (lid % 65536 + status * 2 ^ 16 + kind * 2 ^ 24 + hi * 2 ^ 64)] }

/-- A task ends faulted (R353): dispatch of its launch is frozen in its home cluster, its task future is cancelled
with the code, the record is dropped. DEDUCED, log 21. -/
def taskFaulted (s : State) (t code : Nat) : State :=
  match taskAt s t with
  | some x =>
    let s := { s with launches := tmap s.launches fun i l =>
                if i = x.lid then { l with frozenIn := nInsert l.frozenIn x.home } else l }
    let e := taskSettling s t 7 (.cancel code)
    settle (dropTask s t) e.1 e.2.1 e.2.2
  | none => s

/-- A strand leaves rotation for good with its trap state written (R339, R393): a task strand's task ends
faulted, another strand is reported to Worash. DEDUCED, log 21. -/
def stopStrand (s : State) (k : Nat) (t : Strand) : State :=
  let s := setStrand s k { t with run := .stopped }
  match t.task with
  | some x => taskFaulted s x (0x80 + t.ecause.toNat)
  | none =>
    let l := (coreAt s (keyCore k)).logical
    { report s t.lid t.ecause.toNat 4 (k % 16 + 2 ^ 4 * l) with
        told := s.told ++ [.faulted t.lid l (k % 16) t.epc t.ecause t.eval] }

/-- A strand whose instruction traps gives back the words that are on their way to it, none of which it holds yet
(R177, R178). -/
def letGo (s : State) (k : Nat) : State :=
  (s.rsvs.filter fun e => e.2.forwarded && e.2.holder == some k).foldl (fun acc e => releaseWord acc e.1) s

/-- Withdraw a strand from the waiting lists it stands in, its instruction not having completed. -/
def withdraw (s : State) (k : Nat) : State :=
  let t := strandAt s k
  let joined := s.futures.filter fun e => e.2.waiters.any fun w => w.kind == .strand && w.ref == k
  let s := { s with deferred := s.deferred.filter fun d => d.2.1 != k
                    rsvs := tmap s.rsvs fun _ r => { r with queue := r.queue.filter (· != k) }
                    futures := tmap s.futures fun _ f =>
                      { f with waiters := f.waiters.filter fun w => !(w.kind == .strand && w.ref == k) } }
  let s := joined.foldl (fun acc e => wakeNodes acc e.1 e.2.waiters) s
  letGo (setStrand s k { t with takes := t.takes.filter (·.got.isSome), answer := none }) k

/-- A trap that the strand owes before its next instruction (R180, R399): the waiting lists it stands in forget it,
since the instruction it was parked in reissues. -/
def owedTrap (s : State) (c : BitVec 8) (v : BitVec 64) (rest : List (BitVec 8 × BitVec 64)) : Res State :=
  .error (.trap c.toNat v.toNat (some (setCur (withdraw s s.cur) fun t => { t with pend := rest })))

/-- A strand owes a trap (R180, R399): if it is parked it is woken to take it, but not out of a page fault (R180), a lock
that a repack lifts (R105), an access to device registers (R316), or an access that is only on its way (R163). -/
def oweTrap (s : State) (k : Nat) (cause : Nat) (val : BitVec 64) : State :=
  let t := strandAt s k
  let s := setStrand s k { t with pend := t.pend ++ [(BitVec.ofNat 8 cause, val)] }
  match t.run with
  | .parked (.fault _ _) | .parked .repack | .parked (.device _) => s
  | .parked .reply => if writesWaiting s k then wake s k else s
  | _ => wake s k

/-- TRAP ENTRY (R393): with TVEC = 0, or with the trap state live, the strand stops; otherwise EPC, ECAUSE and EVAL
are saved, PSV takes SV, the mode becomes supervisor, TSL is set and the PC is TVEC. -/
def takeTrap (s : State) (k : Nat) (cause val : Nat) : State :=
  let t := { strandAt s k with answer := none, skipBrk := false }
  if t.tvec = 0 then
    stopStrand s k { t with ecause := BitVec.ofNat 8 cause, eval := word val, epc := t.pc }
  else if t.tsl then
    stopStrand s k { t with ecause := BitVec.ofNat 8 cSTACK, eval := word (t.pc.toNat * 2 ^ 8 + cause) }
  else
    setStrand s k { t with epc := t.pc, ecause := BitVec.ofNat 8 cause, eval := word val, psv := t.sv, sv := true,
                           tsl := true, pc := t.tvec }

/-- RETURN FROM A TRAP (R145): the PC is EPC, the mode PSV, the trap state no longer live (R393). A take granted to an
instruction other than the one at EPC is done with. DEDUCED, log 10. -/
def returnTrap (t : Strand) : Strand :=
  { t with pc := t.epc, sv := t.psv, tsl := false, skipBrk := false, takes := t.takes.filter (·.pc == t.epc) }

/-! ### How an instruction ends -/

/-- The PC after the instruction (R56). -/
def nextPc (s : State) (t : Strand) : BitVec 48 := t.pc + BitVec.ofNat 48 s.ir.len

/-- The instruction completes: the PC advances, what a take of it held is done with. DEDUCED, log 10. -/
def advance (s : State) : State :=
  setCur s fun t => { t with pc := nextPc s t, takes := t.takes.filter (·.pc != t.pc), answer := none, skipBrk := false }

/-- The instruction completes with the PC elsewhere. -/
def jump (s : State) (pc : BitVec 48) : State := setCur s fun t => { t with pc := pc, answer := none, skipBrk := false }

/-- What an instruction of a strand leaves: it completes, traps or parks; the hub's registers change by the
hub's own steps only. -/
def finish (s : State) (r : Res State) : Out :=
  .next { (match r with
    | .ok t => t
    | .error (.trap c v kept) => takeTrap (letGo (kept.getD s) s.cur) s.cur c v
    | .error (.park w kept) => parkStrand (kept.getD s) s.cur w) with hub := s.hub }

/-- What an event outside the hub leaves. -/
def done (s : State) (t : State) : Out := .next { t with hub := s.hub }

/-- An event not yet able to happen stays pending. DESIGN CHOICE, log 1. -/
def again (s : State) (e : Instr) : Out := .next (addEvent s e)

end Sys2Proof.Machine
end

