-- ==== Sys2Proof/Machine/FutureOps.lean ====
section
/-!
DEFINITION. Allocating and freeing futures, and the log of their operations (spec/14 R358-R361; spec/05 R196).
-/

namespace Sys2Proof.Machine

/-- An operation of the strand that issues, as the log names it (R358). -/
def strandLog (s : State) (op : Nat) : FutLog :=
  ⟨op, (curStrand s).lid, senderWord s (curStrand s).lid (curP s) (curSlot s) 0, false⟩

/-- Record a future operation with the entry as it stands (R358). -/
def futLog (s : State) (op : Nat) (h : BitVec 32) : State := logFut s h (strandLog s op)

/-- The index of slot `n` of home `h` (R358). -/
def futIndexOf (h n : Nat) : Nat := n % 8192 * 2048 + (h ^^^ n % 2048)

/-- An index that an allocation may take: EMPTY, and not 0 (R360). -/
def futFree (s : State) (i : Nat) : Bool := i != 0 && (futAt s i).st == .empty

/-- The first EMPTY entry homed in a die, from a free choice on; at most one step more than entries are in use is
needed, and the count covers index 0 (R360). -/
def futInDie (s : State) (die : Nat) : Option Nat :=
  let start := Config.futureChoice s.tick % 2 ^ 20
  ((List.range (Nat.min (s.futures.length + 2) (2 ^ 20))).map fun j =>
    let c := (start + j) % 2 ^ 20
    futIndexOf (128 * die + c % 128) (c / 128)).find? (futFree s)

/-- The first EMPTY entry of the module, from a free choice on (R360). -/
def futAnywhere (s : State) : Option Nat :=
  let start := Config.futureChoice s.tick % 2 ^ 24
  ((List.range (Nat.min (s.futures.length + 2) (2 ^ 24))).map fun j => (start + j) % 2 ^ 24).find? (futFree s)

/-- The entry an allocation takes: one homed in the die if there is one, otherwise any (R360). -/
def futChoose (s : State) (die : Option Nat) : Option Nat :=
  match die with
  | some d => (futInDie s d).orElse fun _ => futAnywhere s
  | none => futAnywhere s

/-- Allocate the entry of a handle: PENDING with a count, its other fields 0, owned by a launch (R197, R359, R360); the
handle brings the entry's present generation, or under replay the logged one. -/
def futAlloc (s : State) (h : BitVec 32) (owner count : Nat) : State :=
  setFut s (hIndex h)
    { Future.reset with st := .pending, count := count, gen := BitVec.ofNat 8 (h.toNat / 2 ^ 24), owner := owner }

/-- The die of a physical core (R280). -/
def dieOf (p : Nat) : Nat := p / 4224

/-- The logged handle that a replay's next allocation by a strand returns (R360). -/
def rrHandle (s : State) (op : Nat) : Option (BitVec 32) :=
  let t := curStrand s
  match launchAt s t.lid with
  | some l =>
    ((rrLog s t.lid).zipIdx.find? fun e => !(l.rrDone.contains e.2) && fieldN e.1.1 32 8 == op &&
      e.1.2 == senderWord s t.lid (curP s) (curSlot s) 0).map fun e => BitVec.ofNat 32 e.1.1
  | none => none

/-- The handle that FNEW or POST returns: the logged one under replay, for whose entry the strand waits (R360). -/
def futChooseFor (s : State) (op : Nat) : Res (Option (BitVec 32)) :=
  let t := curStrand s
  if rrMode s t.lid = 2 then
    match rrHandle s op with
    | some h => if futFree s (hIndex h) then .ok (some h) else parkNow (.replay t.lid)
    | none => parkNow (.replay t.lid)
  else .ok ((futChoose s (some (dieOf (curP s)))).map (handleOf s))

/-- Free an entry that may still have waiters: they complete as cancelled with code 0xF1 first (R361). -/
def futRelease (s : State) (i : Nat) : State :=
  let f := futAt s i
  let s := if f.waiters.isEmpty then s
    else settle s (handleOf s i) (.cancel 0xF1) (homeLog 7 f.owner)
  if (futAt s i).st = .empty then s else freeFut s i

/-- Waiter nodes in use at a home (R362). -/
def nodesAt (s : State) (home : Nat) : Nat :=
  (s.futures.map fun e => if futHome e.1 = home then e.2.waiters.length else 0).sum

/-- A waiter joins an entry (R362). -/
def joinFut (s : State) (i : Nat) (w : Waiter) : State :=
  let f := futAt s i
  setFut s i { f with waiters := f.waiters ++ [w] }

end Sys2Proof.Machine
end

