-- ==== Sys2Proof/Machine/Devices.lean ====
section
/-!
DEFINITION. Reading device registers, and the event that a strand's write to one gives rise to (spec/19 R427).
-/

namespace Sys2Proof.Machine

/-- VERSION: it names the firmware in force (R40, R420). -/
def versionWord (s : State) : Nat :=
  Config.part * 2 ^ 16 + Config.version.toNat + s.hub.firmware.toNat * 2 ^ 32

/-- A word of the eight measurement registers, little-endian (R427, R433). -/
def measWord (s : State) (k : Nat) : Nat := fieldN (tgetD s.hub.meas (k / 4) 0).toNat (64 * (k % 4)) 64

/-- Eight bytes of a cluster's fault queue (R397, R427). -/
def faultQueueWord (s : State) (off : Nat) : Nat :=
  let c := off / 4096 % 2048
  fieldN (tgetD (clusterAt s c).fq (off % 4096 / 16) 0).toNat (8 * (off % 16)) 64

/-- The value of a register that may be read without effect; the spec gives none for a write-only register or an
offset it does not list, which is a free value. -/
def devicePlain (s : State) (off : Nat) : Nat :=
  if off = 0x48 then s.lrTail.toNat * 2 ^ 32 + s.lrHead.toNat
  else if 0x5000 ≤ off && off < 0x5100 then measWord s ((off - 0x5000) / 8)
  else if off = 0x5100 then s.hub.attRefused.toNat
  else if 0x2_0000 ≤ off && off < 0x2_4000 then
    let c := clusterAt s ((off - 0x2_0000) / 8)
    c.fqTail.toNat * 256 + c.fqHead.toNat
  else if 0x100_0000 ≤ off && off < 0x180_0000 then faultQueueWord s (off - 0x100_0000)
  else if off = 0x40 || off = 0x100 || (0x1000 ≤ off && off < 0x1200 && off % 32 < 24) ||
      (0x2000 ≤ off && off < 0x2080) || (0x3000 ≤ off && off < 0x3200) || off = 0x4000 || off = 0x4010 ||
      off = 0x5200 then devReg s off
  else (Config.freeWord (Config.draw (Config.draw s.tick 2) off)).toNat

/-- FUTNEW: an unowned entry with count 0, or handle 0 if none is EMPTY (R427). DEDUCED, log 46. -/
def futNewUnowned (s : State) : State × Nat :=
  match futChoose s none with
  | some i =>
    let h := handleOf s i
    (futAlloc s h 0 0, h.toNat)
  | none => (s, 0)

/-- Read a device register; FUTNEW allocates (R427). DESIGN CHOICE, log 25. DEDUCED, log 46. -/
def deviceRead (s : State) (off : Nat) : State × Nat :=
  if off = 0x2080 then futNewUnowned s else (s, devicePlain s off)

/-- The event of a write to a device register (R427). DESIGN CHOICE, log 25. -/
def deviceEvent (off v : Nat) : Instr :=
  if off < 0x28 then .lqpush (off / 8) (word v)
  else if off = 0x48 then .lrheadWrite (word v)
  else if off = 0x2088 then .futfree (word v)
  else if 0x3000 ≤ off && off < 0x3200 then .pooldecWrite ((off - 0x3000) / 8) (word v)
  else if off = 0x4010 then .pcapWrite (word v)
  else if off = 0x5100 then .attreq (word v)
  else if off = 0x5200 && fieldN v 60 3 = 1 then .ckptSramImage (word v)
  else if off = 0x5200 && fieldN v 60 3 = 2 then .ckptWholeDeviceImage (word v)
  else if off = 0x5200 && fieldN v 60 3 = 3 then .ckptRestore (word v)
  else if 0x1_0000 ≤ off && off < 0x1_4000 then .freply ((off - 0x1_0000) / 8) (word v)
  else if 0x2_0000 ≤ off && off < 0x2_4000 then .fqheadWrite ((off - 0x2_0000) / 8) (word v)
  else .deviceRegisterWrite off (word v)

end Sys2Proof.Machine
end

