-- ==== Sys2Proof/Machine/Operands.lean ====
section
/-!
DEFINITION. Operands: the class and guard of an instruction, the static checks of its names, reading its sources
(row-bank names, inboxes, queues and streams) and writing its destinations (spec/01 R15-R17, R26, R27,
R33, R35-R37, R48; spec/02 R53-R59, R67).
-/

namespace Sys2Proof.Machine

/-- An instruction's class (R54). -/
inductive Cls where
  | uniform
  | lane
deriving DecidableEq, Repr

/-- The class a name decides (codes D and N of R54); an undeclared name decides nothing. -/
def clsOf (t : Strand) (n : NameIx) : Cls :=
  match nameInfo t.map n with
  | some i => if i.isLane then .lane else .uniform
  | none => .uniform

/-- The lanes a lane-class instruction is enabled in (R15). -/
def enabledLanes (t : Strand) (g : Guard) : List Nat :=
  (List.range 16).filter fun l => predQ t l 0 && (predQ t l g.gp.toNat != g.gn)

/-- The lanes with q0 = 1 (R16). -/
def presentLanes (t : Strand) : List Nat := (List.range 16).filter fun l => predQ t l 0

/-- The guard is the form that is never true (R53). -/
def neverGuard (g : Guard) : Bool := g.gn && g.gp == 0

/-- A p guard is true (R53). -/
def guardP (t : Strand) (g : Guard) : Bool := predP t g.gp.toNat != g.gn

/-- All the information of a list of names; none when one is undeclared. -/
def infos (t : Strand) : List NameIx → Option (List NameInfo)
  | [] => some []
  | n :: r =>
    match nameInfo t.map n, infos t r with
    | some i, some l => some (i :: l)
    | _, _ => none

/-- The frame of every instruction (R58): the static checks, then the supervisor check (R60), the never-form, the
guard, and the body with the enabled lanes (lane 0 alone stands for the uniform path). A lane-class
instruction of a roaming strand is ILLEGAL (R17). A lane-class instruction with no enabled lane still runs its body, so that
it takes the queue and inbox entries it names (R36 does not say). DESIGN CHOICE, log 48. -/
def gated (s : State) (cls : Cls) (g : Guard) (static : Bool) (supOnly : Bool) (body : List Nat → Res State) : Out :=
  let t := curStrand s
  finish s <|
    if !static || (cls == .lane && roaming t) then illegal s
    else if supOnly && !t.sv then trapNow cPROTECT (s.ir.word.toNat + 2 ^ 63)
    else if neverGuard g then .ok (advance s)
    else
      match cls with
      | .uniform => if guardP t g then body [0] else .ok (advance s)
      | .lane => body (enabledLanes t g)

/-! ### Reading sources -/

/-- A source as read: its declaration, and its bits, one entry for a uniform name or one per lane. -/
structure Src where
  info : NameInfo
  vals : List Nat

/-- The bits of a source for lane `l`: a uniform value is broadcast (R48). -/
def Src.pat (x : Src) (l : Nat) : Nat := if x.info.isLane then x.vals.getD l 0 else x.vals.getD 0 0

/-- The integer a source holds, by its own signedness (R82). -/
def Src.int (x : Src) (l : Nat) : Int :=
  if x.info.ty = 1 then toSigned x.info.width (x.pat l) else (x.pat l : Int)

/-- An inbox slot. -/
def inboxAt (c : Core) (n : Nat) : Inbox := tgetD c.inbox n ⟨false, 0, []⟩

/-- An input or output queue. -/
def queueAt (q : Table NetQueue) (n : Nat) : NetQueue := tgetD q n ⟨0, []⟩

/-- A stream descriptor. -/
def streamAt (c : Core) (n : Nat) : Stream := tgetD c.streams n ⟨0, 0⟩

/-- Wake the senders that wait for room at a core (R191, R192). -/
def wakeSenders (s : State) (p : Nat) : State := wakeWhere s fun _ _ c => c == .sendRoom p

/-- Take an inbox slot's value (R35, R191): the oldest overflow value moves in. -/
def takeInbox (s : State) (p n : Nat) : Res (State × Nat) :=
  let c := coreAt s p
  let b := inboxAt c n
  if !b.present then parkNow .names
  else
    let b' : Inbox := match b.overflow with
      | v :: r => ⟨true, v, r⟩
      | [] => ⟨false, 0, []⟩
    .ok (progressCur (wakeSenders (setCore s p { c with inbox := tset c.inbox n b' }) p), b.value.toNat)

/-- Pop an input queue (R35); a disabled one that is empty is ILLEGAL (R194). -/
def popInQueue (s : State) (p n : Nat) : Res (State × Nat) :=
  let c := coreAt s p
  let q := queueAt c.inq n
  match q.items with
  | v :: r => .ok (setCore s p { c with inq := tset c.inq n { q with items := r } }, v.toNat)
  | [] => if bitN q.setting.toNat 0 then parkNow .names else illegal s

/-- The bytes of a stream element: the smallest of 1, 2, 4, 8 that holds the width (R35). -/
def streamElem (width : Nat) : Nat := if width ≤ 8 then 1 else if width ≤ 16 then 2 else if width ≤ 32 then 4 else 8

/-- The stream's fields (R195): enabled, write stream, ring length, base. -/
def Stream.fields (x : Stream) : Bool × Bool × Nat × Nat :=
  (bitN x.setting.toNat 35, bitN x.setting.toNat 34, fieldN x.setting.toNat 17 17, fieldN x.setting.toNat 0 17)

/-- The local-store words that cover a group of a stream, as physical addresses: they run straight on where names of
different element sizes have moved the cursor so that a group passes the end of the ring (R195 gives no rule).
DESIGN CHOICE, log 48. -/
def streamWords (p base cursor n : Nat) : List Nat :=
  (List.range (n / 8)).map fun i => lsBase p + base + cursor + 8 * i

/-- Take the next 16 elements of a read stream (R35, R195), unless a word of them holds an uncorrectable error (R403). -/
def readStream (s : State) (p n width : Nat) : Res (State × List Nat) :=
  let c := coreAt s p
  let x := streamAt c n
  let (en, wr, len, base) := x.fields
  if !en || wr then illegal s
  else
    let e := streamElem width
    let ws := streamWords p base x.cursor (16 * e)
    if !(ws.all (wordFull s)) then parkNow .names
    else
      match poisoned s (lsBase p + base + x.cursor) (16 * e) with
      | some w => trapNow cMCHECK (Nat.max w (lsBase p + base + x.cursor) - lsBase p + 2 ^ 56)
      | none =>
      let vs := (List.range 16).map fun l => loadPhys s (lsBase p + base + x.cursor + l * e) e
      let c := { c with streams := tset c.streams n { x with cursor := (x.cursor + 16 * e) % len } }
      .ok (ws.foldl emptyWord (setCore s p c), vs)

/-- Append 16 elements to a write stream (R35, R195); the words written wait at a reserved word's home like any write
(R177). -/
def writeStream (s : State) (p n width : Nat) (vals : List Nat) : Res State :=
  let c := coreAt s p
  let x := streamAt c n
  let (en, wr, len, base) := x.fields
  if !en || !wr then illegal s
  else
    let e := streamElem width
    let ws := streamWords p base x.cursor (16 * e)
    if ws.any (wordFull s) then parkNow .names
    else
      let s := setCore s p { c with streams := tset c.streams n { x with cursor := (x.cursor + 16 * e) % len } }
      let all := vals.zipIdx.foldl (fun acc v => setFieldN acc (8 * e * v.2) (8 * e) v.1) 0
      .ok (ws.zipIdx.foldl (fun acc w => homeWrite acc ⟨s.cur, w.1, 8, fieldN all (64 * w.2) 64, true, false⟩) s)

/-- The bits a row-bank name holds: one number, or one a lane. -/
def rowVals (c : Core) (t : Strand) (i : NameInfo) : List Nat :=
  if i.kind = 1 then (List.range 16).map (rowRead c t i)
  else if i.kind = 8 then [0] else [rowRead c t i 0]

/-- Read one source (R35, R106, R403). -/
def readSrc (s : State) (i : NameInfo) : Res (State × Src) :=
  let p := curP s
  let t := curStrand s
  let c := coreAt s p
  match i.kind with
  | 2 => (takeInbox s p i.bind).map fun r => (r.1, ⟨i, [r.2 % 2 ^ i.width]⟩)
  | 3 => (popInQueue s p i.bind).map fun r => (r.1, ⟨i, [r.2 % 2 ^ i.width]⟩)
  | 5 => (readStream s p i.bind i.width).map fun r => (r.1, ⟨i, r.2.map (· % 2 ^ i.width)⟩)
  | _ =>
    if nameLocked c t i then parkNow .repack
    else
      match badRowEval c t i with
      | some v => trapNow cMCHECK v
      | none => .ok (s, ⟨i, rowVals c t i⟩)

/-- Read the sources in order; a name that stands twice is read once (R37), and so is a lane stream, of which R37 does not
speak: one group of 16 goes to both operands. DESIGN CHOICE, log 48. -/
def readSrcs (s : State) : List NameInfo → List Src → Res (State × List Src)
  | [], acc => .ok (s, acc)
  | i :: r, acc =>
    match acc.find? (fun x => x.info.ix == i.ix) with
    | some x => readSrcs s r (acc ++ [x])
    | none =>
      match readSrc s i with
      | .ok (s', x) => readSrcs s' r (acc ++ [x])
      | .error e => .error e

/-! ### Writing destinations -/

/-- Push an entry on an output queue (R35); a disabled one that is full is ILLEGAL (R194). -/
def pushOutQueue (s : State) (p n v : Nat) : Res State :=
  let c := coreAt s p
  let q := queueAt c.outq n
  if 8 ≤ q.items.length then (if bitN q.setting.toNat 0 then parkNow .names else illegal s)
  else
    let s := setCore s p { c with outq := tset c.outq n { q with items := q.items ++ [word v] } }
    .ok (if bitN q.setting.toNat 0 then addEvent s (.queueTransfer p n) else s)

/-- The rows with an uncorrectable error in which a write of a name to some lanes writes a bit (R403). -/
def badWrites (c : Core) (t : Strand) (i : NameInfo) (lanes : List Nat) : List (Nat × Nat) :=
  c.badRows.filter fun b =>
    (if i.kind = 1 then b.1 != 0 && lanes.contains (b.1 - 1) else b.1 == 0) &&
    nameBit t i / 64 ≤ b.2 && b.2 ≤ (nameBit t i + i.width - 1) / 64

/-- A name covers a row whole. -/
def wholeRow (t : Strand) (i : NameInfo) (row : Nat) : Bool :=
  nameBit t i ≤ 64 * row && 64 * row + 64 ≤ nameBit t i + i.width

/-- Write a row-bank name. A write to part of a row with an uncorrectable error needs the row's old data; one of the whole
row heals it (R403). -/
def writeRows (s : State) (i : NameInfo) (lanes : List Nat) (vals : Nat → Nat) : Res State :=
  let p := curP s
  let t := curStrand s
  let c := coreAt s p
  if nameLocked c t i then parkNow .repack
  else
    let bad := badWrites c t i lanes
    match bad.find? fun b => !(wholeRow t i b.2) with
    | some b => trapNow cMCHECK (rowEval b)
    | none =>
      let c := { c with badRows := c.badRows.filter fun b => !(bad.contains b) }
      .ok (setCore s p (if i.kind = 1 then lanes.foldl (fun c l => rowWrite c t i l (vals l)) c
                        else rowWrite c t i 0 (vals 0)))

/-- Write a destination: `vals l` are the bits for lane `l` (lane 0 for a uniform one). Index 0 discards
(R27); a stream takes 0 for the lanes that are not enabled (R36). -/
def writeDst (s : State) (i : NameInfo) (lanes : List Nat) (vals : Nat → Nat) : Res State :=
  match i.kind with
  | 8 => .ok s
  | 4 => pushOutQueue s (curP s) i.bind (vals 0)
  | 5 => writeStream s (curP s) i.bind i.width
           ((List.range 16).map fun l => if lanes.contains l then vals l else 0)
  | _ => writeRows s i lanes vals

/-- No destination has a bit in rows that a repack has locked: an instruction that acts at a word's home, arms a monitor or
waits in a queue tests this first (R106). -/
def unlocked (s : State) (ds : List NameInfo) : Res Unit :=
  if ds.any (nameLocked (coreAt s (curP s)) (curStrand s)) then parkNow .repack else .ok ()

/-! ### Results of the lanes -/

/-- One lane's result: its bits and flags, or a trap. -/
abbrev LaneRes := Except (Nat × Nat) (Nat × BitVec 8)

/-- The lanes' results together (R84): DIVZERO is reported in preference to another trap, each from the lowest
lane that raises it; otherwise the bits of each lane and the flags any lane produced. -/
def collect (lanes : List Nat) (f : Nat → LaneRes) : Res ((Nat → Nat) × BitVec 8) :=
  let traps := lanes.filterMap fun l => match f l with
    | .error e => some e
    | .ok _ => none
  match traps.find? (fun e => e.1 == cDIVZERO) with
  | some e => trapNow e.1 e.2
  | none =>
    match traps with
    | e :: _ => trapNow e.1 e.2
    | [] =>
      .ok (fun l => match f l with
             | .ok r => r.1
             | .error _ => 0,
           lanes.foldl (fun acc l => acc ||| match f l with
             | .ok r => r.2
             | .error _ => 0) 0)

/-- The frame of an instruction that computes one destination from its sources, lane by lane: the names'
kinds and classes (R48, R67), `typesOk` on the destination and sources, then reading, `f`, writing and flags. -/
def computed (s : State) (g : Guard) (cls : Cls) (static : Bool) (d : NameIx) (srcs : List NameIx)
    (typesOk : NameInfo → List NameInfo → Bool) (f : NameInfo → List Src → Nat → LaneRes) : Out :=
  let t := curStrand s
  match nameInfo t.map d, infos t srcs with
  | some di, some is =>
    let kinds := di.dstKind && is.all (·.srcKind) &&
      (match cls with
       | .uniform => !di.isLane && is.all (fun i => !i.isLane)
       | .lane => di.isLane || di.kind == 8)
    gated s cls g (static && kinds && typesOk di is) false fun lanes => do
      let (s', xs) ← readSrcs s is []
      let (vals, flags) ← collect lanes (f di xs)
      let s'' ← writeDst s' di lanes vals
      .ok (advance (setCur s'' fun t => setFlags t flags))
  | _, _ => gated s cls g false false fun _ => illegal s

/-- Write a predicate: p in the uniform path, q in the enabled lanes. -/
def writePred (s : State) (cls : Cls) (lanes : List Nat) (d : Nat) (v : Nat → Bool) : State :=
  match cls with
  | .uniform => setCur s fun t => setP t d (v 0)
  | .lane => setCur s fun t => lanes.foldl (fun t l => setQ t l d (v l)) t

/-- The frame of an instruction that writes a predicate from its sources; the class is that of the first
source (code N of R54). Naming p0 or q0 is ILLEGAL (R16). -/
def compared (s : State) (g : Guard) (d : Nat) (srcs : List NameIx) (typesOk : List NameInfo → Bool)
    (f : List Src → Nat → Bool) : Out :=
  let t := curStrand s
  match infos t srcs with
  | some is =>
    let cls : Cls := match is with
      | i :: _ => if i.isLane then .lane else .uniform
      | [] => .uniform
    let kinds := is.all (·.srcKind) &&
      (match cls with
       | .uniform => is.all (fun i => !i.isLane)
       | .lane => true)
    gated s cls g (d != 0 && kinds && typesOk is) false fun lanes => do
      let (s', xs) ← readSrcs s is []
      .ok (advance (writePred s' cls lanes d (f xs)))
  | none => gated s .uniform g false false fun _ => illegal s

/-- Write one uniform destination with bits and flags already found, then go on. -/
def writeOne (s : State) (i : NameInfo) (r : LaneRes) : Res State :=
  match r with
  | .error e => trapNow e.1 e.2
  | .ok (v, fl) => do
    let s' ← writeDst s i [0] fun _ => v
    .ok (setCur s' fun t => setFlags t fl)

/-- A uniform source name: any readable kind but a lane one (R48, R67). -/
def uniSrc (i : NameInfo) : Bool := i.srcKind && !i.isLane

/-- A uniform destination name. -/
def uniDst (i : NameInfo) : Bool := i.dstKind && !i.isLane

/-- The frame of a uniform-class instruction with integer sources and a body of its own: `ds` are its
destinations, `srcs` its sources; both lists reach the body, the sources as read. -/
def uniformOp (s : State) (g : Guard) (supOnly static : Bool) (ds srcs : List NameIx)
    (typesOk : List NameInfo → List NameInfo → Bool)
    (body : State → List NameInfo → List Src → Res State) : Out :=
  let t := curStrand s
  match infos t ds, infos t srcs with
  | some di, some is =>
    gated s .uniform g (static && di.all uniDst && is.all uniSrc && typesOk di is) supOnly fun _ => do
      let (s', xs) ← readSrcs s is []
      body s' di xs
  | _, _ => gated s .uniform g false supOnly fun _ => illegal s

/-- Every name is of integer type (R85). -/
def allInt (is : List NameInfo) : Bool := is.all (·.isInt)

/-- Sources and destinations are all integers. -/
def intOnly (ds is : List NameInfo) : Bool := allInt ds && allInt is

/-- The `n`th source read. -/
def nth (xs : List Src) (n : Nat) : Src := xs.getD n ⟨NameInfo.zero, [0]⟩

/-- The `n`th destination. -/
def nthD (ds : List NameInfo) (n : Nat) : NameInfo := ds.getD n NameInfo.zero

end Sys2Proof.Machine
end

