-- ==== Sys2Proof/Machine/Flags.lean ====
section
/-!
DEFINITION. Fitting of integer results and the sticky flags it sets (spec/03 R82-R84, R88, R276; spec/02
R55, R61).
-/

namespace Sys2Proof.Machine

/-- The mask of sticky flag f`i` (R18). -/
def flagBit (i : Nat) : BitVec 8 := BitVec.ofNat 8 (2 ^ i)

/-- The range of an integer name (R82). -/
def intRange (ty width : Nat) : Int × Int :=
  if ty = 1 then (-(2 : Int) ^ (width - 1), (2 : Int) ^ (width - 1) - 1) else (0, (2 : Int) ^ width - 1)

/-- The mode an instruction fits by: the FN override, or the declared one (R61). -/
def modeOf (f : Nat) (i : NameInfo) : Nat := if f = 0 then i.mode else f - 1

/-- fit() for an integer of a type and width under a mode: 0 wrap, 1 saturate, 2 trap (R83). The bits and the
flags; a WIDTH trap carries the low 64 bits of the exact value (R276). -/
def fitAs (ty width mode : Nat) (v : Int) : LaneRes :=
  let (lo, hi) := intRange ty width
  if lo ≤ v && v ≤ hi then .ok (zpat v width, 0)
  else if mode = 2 then .error (cWIDTH, zpat v 64)
  else if mode = 1 then .ok (zpat (if v < lo then lo else hi) width, flagBit 1)
  else .ok (zpat v width, flagBit 0)

/-- fit() to a name: index 0 discards the value without flag or trap (R27). -/
def fitInt (i : NameInfo) (mode : Nat) (v : Int) : LaneRes :=
  if i.kind = 8 then .ok (0, 0) else fitAs i.ty i.width mode v

/-- fit() by the declared mode. -/
def fitDecl (i : NameInfo) (v : Int) : LaneRes := fitInt i i.mode v

/-- An immediate as a number, sign-extended from its top bit after widening (R55). -/
def immSigned {n : Nat} (i : Imm n) : Int :=
  match i.ext with
  | none => toSigned n i.bits.toNat
  | some e => toSigned (n + 25) (e.toNat * 2 ^ n + i.bits.toNat)

/-- An immediate as a number, zero-extended (R55). -/
def immUnsigned {n : Nat} (i : Imm n) : Nat :=
  match i.ext with
  | none => i.bits.toNat
  | some e => e.toNat * 2 ^ n + i.bits.toNat

/-- Bitwise operations on the infinite two's-complement forms of 130 bits, which hold every operand (R82, R87). -/
def intBits (f : Nat → Nat → Nat) (a b : Int) : Int := toSigned 130 (f (zpat a 130) (zpat b 130))

/-- Division truncated toward zero (R87). -/
def truncDiv (a b : Int) : Int := Int.tdiv a b

/-- DIVZERO with the dividend's low 64 bits (R394). -/
def divZero {α : Type} (a : Int) : Except (Nat × Nat) α := .error (cDIVZERO, zpat a 64)

/-- The bits of a rotate left (R87). -/
def rotBits (k y c : Nat) : Nat :=
  let j := c % k
  (y * 2 ^ j + y / 2 ^ (k - j)) % 2 ^ k

/-- The conditions of CMP and CMPI (R61, R111): exact comparison of `a` and `b`, or of the patterns `ua` and `ub`
for ltu and geu. -/
def intCond (c : Nat) (a b : Int) (ua ub : Nat) : Bool :=
  match c with
  | 0 => a == b
  | 1 => a != b
  | 2 => a < b
  | 3 => a ≤ b
  | 4 => a > b
  | 5 => a ≥ b
  | 6 => ua < ub
  | _ => ua ≥ ub

/-- Zero bits above the highest 1 of `k` bits (R110). -/
def clzBits (k y : Nat) : Nat := if y = 0 then k else k - 1 - Nat.log2 y

/-- Zero bits below the lowest 1 of `k` bits. -/
def ctzBits (k y : Nat) : Nat := ((List.range k).find? fun i => bitN y i).getD k

/-- The number of 1 bits. -/
def popBits (k y : Nat) : Nat := ((List.range k).filter fun i => bitN y i).length

/-- Bit i moved to bit k - 1 - i. -/
def revBits (k y : Nat) : Nat :=
  (List.range k).foldl (fun acc i => if bitN y i then acc + 2 ^ (k - 1 - i) else acc) 0

/-- The counting functions of BITC (R110). -/
def bitCount (f k y : Nat) : Nat :=
  match f with
  | 0 => clzBits k y
  | 1 => ctzBits k y
  | 2 => popBits k y
  | _ => revBits k y

end Sys2Proof.Machine
end

