-- ==== Sys2Proof/Machine/Float.lean ====
section
/-!
DEFINITION. Number formats and exact arithmetic (spec/07 R254-R265; spec/03 R92-R101). A value is a NaN, an
infinity, or an exact binary fraction; `more` says that the true value lies strictly between `m` and `m + 1` units
of 2^e, which is how a quotient, a root or a transcendental is carried to its one rounding.
-/

namespace Sys2Proof.Machine

/-- An exact value. -/
inductive FVal where
  | nan
  | inf (neg : Bool)
  | fin (neg : Bool) (m : Nat) (e : Int) (more : Bool)
deriving DecidableEq, Repr

/-- A floating-point format (R254). -/
structure Fmt where
  bits   : Nat
  ebits  : Nat
  mbits  : Nat
  bias   : Nat
  hasInf : Bool
deriving DecidableEq, Repr

def fp32 : Fmt := ⟨32, 8, 23, 127, true⟩
def bf16 : Fmt := ⟨16, 8, 7, 127, true⟩
def e4m3 : Fmt := ⟨8, 4, 3, 7, false⟩
def e5m2 : Fmt := ⟨8, 5, 2, 15, true⟩

/-- The format of a name TYPE of 2-5 (R24). -/
def fmtOf (ty : Nat) : Fmt := if ty = 2 then bf16 else if ty = 4 then e4m3 else if ty = 5 then e5m2 else fp32

/-- The canonical NaN's pattern (R92). -/
def Fmt.nanBits (f : Fmt) : Nat :=
  if f.hasInf then (2 ^ f.ebits - 1) * 2 ^ f.mbits + 2 ^ (f.mbits - 1) else 2 ^ (f.bits - 1) - 1

/-- The pattern of an infinity. -/
def Fmt.infBits (f : Fmt) (neg : Bool) : Nat :=
  (if neg then 2 ^ (f.bits - 1) else 0) + (2 ^ f.ebits - 1) * 2 ^ f.mbits

/-- The pattern of the largest finite value (R254). -/
def Fmt.maxBits (f : Fmt) : Nat :=
  if f.hasInf then (2 ^ f.ebits - 1) * 2 ^ f.mbits - 1 else 2 ^ (f.bits - 1) - 2

/-- The pattern reads as a NaN (R254, R255). -/
def Fmt.isNanBits (f : Fmt) (p : Nat) : Bool :=
  let q := p % 2 ^ (f.bits - 1)
  if f.hasInf then q > (2 ^ f.ebits - 1) * 2 ^ f.mbits else q == 2 ^ (f.bits - 1) - 1

/-- Decode a pattern (R255). -/
def Fmt.decode (f : Fmt) (p : Nat) : FVal :=
  let neg := bitN p (f.bits - 1)
  let ef := fieldN p f.mbits f.ebits
  let mf := fieldN p 0 f.mbits
  if f.isNanBits p then .nan
  else if f.hasInf && ef == 2 ^ f.ebits - 1 then .inf neg
  else if ef = 0 then .fin neg mf (1 - (f.bias : Int) - f.mbits) false
  else .fin neg (2 ^ f.mbits + mf) ((ef : Int) - f.bias - f.mbits) false

/-- A rounding direction: 0 RNE, 1 RTZ, 2 RUP, 3 RDN (R217, R257). -/
abbrev Rnd := Nat

/-- A rounded finite value n × 2^q with what happened to it: inexact, beyond the largest finite value, tiny. -/
structure Rounded where
  neg     : Bool
  n       : Nat
  q       : Int
  inexact : Bool
  ovf     : Bool
  tiny    : Bool
deriving DecidableEq, Repr

/-- The increment a direction gives a truncated magnitude: `rem` of `2^k` was cut off, `more` of less than a unit
below that. -/
def roundUp (rm : Rnd) (neg : Bool) (n rem k : Nat) (more : Bool) : Bool :=
  let inexact := rem != 0 || more
  match rm with
  | 0 => if k = 0 then false
         else if rem > 2 ^ (k - 1) then true
         else if rem = 2 ^ (k - 1) then more || n % 2 == 1 else false
  | 1 => false
  | 2 => !neg && inexact
  | _ => neg && inexact

/-- a × 2^x < b × 2^y. -/
def magLt (a : Nat) (x : Int) (b : Nat) (y : Int) : Bool :=
  if x ≤ y then a < b * 2 ^ (y - x).toNat else a * 2 ^ (x - y).toNat < b

/-- Round a magnitude m × 2^e (R257): neighbours with an unbounded exponent above and the fixed subnormal
spacing below. -/
def Fmt.roundMag (f : Fmt) (rm : Rnd) (neg : Bool) (m : Nat) (e : Int) (more : Bool) : Rounded :=
  if m = 0 && !more then ⟨neg, 0, 0, false, false, false⟩
  else
    let qmin : Int := 1 - (f.bias : Int) - f.mbits
    let top : Int := (Nat.log2 m : Int) + e
    let q := max qmin (top - f.mbits)
    let (n0, rem, k) : Nat × Nat × Nat :=
      if q ≤ e then (m * 2 ^ (e - q).toNat, 0, 0)
      else (m / 2 ^ (q - e).toNat, m % 2 ^ (q - e).toNat, (q - e).toNat)
    let n := if roundUp rm neg n0 rem k more then n0 + 1 else n0
    let inexact := rem != 0 || more
    let maxM := if f.hasInf then 2 ^ (f.mbits + 1) - 1 else 2 ^ (f.mbits + 1) - 2
    let maxQ : Int := (2 ^ f.ebits - 1 : Int) - f.bias - f.mbits - (if f.hasInf then 1 else 0)
    ⟨neg, n, q, inexact, magLt maxM maxQ n q,
     n != 0 && inexact && magLt n q (2 ^ f.mbits) qmin⟩

/-- The pattern of a rounded value within the format's range. -/
def Fmt.pack (f : Fmt) (r : Rounded) : Nat :=
  let s := if r.neg then 2 ^ (f.bits - 1) else 0
  if r.n = 0 then s
  else
    let (n, q) := if r.n ≥ 2 ^ (f.mbits + 1) then (r.n / 2, r.q + 1) else (r.n, r.q)
    if n < 2 ^ f.mbits then s + n
    else s + (q + f.mbits + f.bias).toNat * 2 ^ f.mbits + (n - 2 ^ f.mbits)

/-- The pattern of the largest finite value with a sign. -/
def Fmt.maxSigned (f : Fmt) (neg : Bool) : Nat := (if neg then 2 ^ (f.bits - 1) else 0) + f.maxBits

/-- A finite overflow in a rounding direction goes to the infinity, not to the largest finite value. -/
def overToInf (rm : Rnd) (neg : Bool) : Bool :=
  match rm with
  | 0 => true
  | 1 => false
  | 2 => !neg
  | _ => neg

/-- The IEEE 754 conversion of a value: its pattern and whether it was inexact, overflowed, tiny. A finite overflow of a
format without infinities gives its NaN in every direction (R94). -/
def Fmt.ieee (f : Fmt) (rm : Rnd) (v : FVal) : Nat × Bool × Bool × Bool :=
  match v with
  | .nan => (f.nanBits, false, false, false)
  | .inf neg => (if f.hasInf then f.infBits neg else f.nanBits, false, false, false)
  | .fin neg m e more =>
    let r := f.roundMag rm neg m e more
    if r.ovf then
      (if !f.hasInf then f.nanBits else if overToInf rm neg then f.infBits neg else f.maxSigned neg, true, true, false)
    else (f.pack r, r.inexact, false, r.tiny)

/-- The FP32 pattern of a value, rounded to nearest even. -/
def toFp32 (v : FVal) : Nat := (fp32.ieee 0 v).1

/-- fit() for a floating-point name (R92-R95): the value rounded in a direction, then the mode. `fl` are flags the
operation has already set. -/
def fitFp (i : NameInfo) (mode : Nat) (rm : Rnd) (v : FVal) (fl : BitVec 8) : LaneRes :=
  if i.kind = 8 then .ok (0, 0)
  else
    let f := fmtOf i.ty
    match v with
    | .nan => .ok (f.nanBits, fl)
    | .inf neg =>
      if f.hasInf then .ok (f.infBits neg, fl)
      else if mode = 2 then .error (cWIDTH, fp32.infBits neg)
      else if mode = 1 then .ok (f.maxSigned neg, fl ||| flagBit 1)
      else .ok (f.nanBits, fl ||| flagBit 3)
    | .fin neg m e more =>
      let r := f.roundMag rm neg m e more
      if r.ovf then
        if mode = 2 then .error (cWIDTH, toFp32 v)
        else if mode = 1 then .ok (f.maxSigned neg, fl ||| flagBit 5 ||| flagBit 2 ||| flagBit 1)
        else .ok ((f.ieee rm v).1, fl ||| flagBit 5 ||| flagBit 2)
      else
        .ok (f.pack r, fl ||| (if r.inexact then flagBit 2 else 0) ||| (if r.tiny then flagBit 6 else 0))

/-- The value of a floating-point source for lane `l`; index 0 is +0 (R82). -/
def Src.fval (x : Src) (l : Nat) : FVal :=
  if x.info.kind = 8 then .fin false 0 0 false else (fmtOf x.info.ty).decode (x.pat l)

/-! ### Exact operations -/

/-- A signed integer with a power of two as a value; an exact zero takes the sign `zneg`. -/
def ofScaled (n : Int) (e : Int) (zneg : Bool) : FVal :=
  if n = 0 then .fin zneg 0 0 false else .fin (n < 0) n.natAbs e false

/-- The signed integer of a magnitude. -/
def sgn (neg : Bool) (m : Nat) : Int := if neg then -(m : Int) else m

/-- The exact integer of an exact value's numerator over 2^e, for e at most its exponent. -/
def scaledTo (neg : Bool) (m : Nat) (x e : Int) : Int := sgn neg (m * 2 ^ (x - e).toNat)

/-- Exact sum (R92); the flag says invalid. -/
def FVal.add (a b : FVal) : FVal × Bool :=
  match a, b with
  | .nan, _ => (.nan, false)
  | _, .nan => (.nan, false)
  | .inf x, .inf y => if x = y then (.inf x, false) else (.nan, true)
  | .inf x, _ => (.inf x, false)
  | _, .inf y => (.inf y, false)
  | .fin na ma ea _, .fin nb mb eb _ =>
    if ma = 0 && mb = 0 then (.fin (na && nb) 0 0 false, false)
    else if ma = 0 then (b, false)
    else if mb = 0 then (a, false)
    else
      let e := min ea eb
      (ofScaled (scaledTo na ma ea e + scaledTo nb mb eb e) e false, false)

/-- The sign turned. -/
def FVal.neg : FVal → FVal
  | .nan => .nan
  | .inf s => .inf (!s)
  | .fin s m e x => .fin (!s) m e x

/-- The magnitude. -/
def FVal.abs : FVal → FVal
  | .nan => .nan
  | .inf _ => .inf false
  | .fin _ m e x => .fin false m e x

/-- Exact product; 0 × infinity is invalid. -/
def FVal.mul (a b : FVal) : FVal × Bool :=
  match a, b with
  | .nan, _ => (.nan, false)
  | _, .nan => (.nan, false)
  | .inf x, .inf y => (.inf (x != y), false)
  | .inf x, .fin y m _ _ => if m = 0 then (.nan, true) else (.inf (x != y), false)
  | .fin x m _ _, .inf y => if m = 0 then (.nan, true) else (.inf (x != y), false)
  | .fin na ma ea _, .fin nb mb eb _ => (.fin (na != nb) (ma * mb) (ea + eb) false, false)

/-- Zero times an infinity, in either order. -/
def FVal.zeroTimesInf (a b : FVal) : Bool :=
  match a, b with
  | .inf _, .fin _ 0 _ _ => true
  | .fin _ 0 _ _, .inf _ => true
  | _, _ => false

/-- c + a × b, exact (R96): 0 × infinity is invalid even when the addend is a NaN (R92). -/
def FVal.fma (c a b : FVal) : FVal × Bool :=
  if a.zeroTimesInf b then (.nan, true)
  else
    let p := (a.mul b).1
    c.add p

def FVal.isNan : FVal → Bool
  | .nan => true
  | _ => false

def FVal.isZero : FVal → Bool
  | .fin _ 0 _ more => !more
  | _ => false

def FVal.isNeg : FVal → Bool
  | .nan => false
  | .inf s => s
  | .fin s _ _ _ => s

/-- a < b as numbers; false when either is a NaN; zeros are equal. -/
def FVal.lt (a b : FVal) : Bool :=
  match a, b with
  | .nan, _ => false
  | _, .nan => false
  | .inf x, .inf y => x && !y
  | .inf x, _ => x
  | _, .inf y => !y
  | .fin na ma ea _, .fin nb mb eb _ =>
    let e := min ea eb
    scaledTo na ma ea e < scaledTo nb mb eb e

/-- a = b as numbers. -/
def FVal.eq (a b : FVal) : Bool := !a.isNan && !b.isNan && !(a.lt b) && !(b.lt a)

/-- The choice of FMIN (`max` false) or FMAX, with -0 below +0 and a NaN losing to a number (R97). -/
def FVal.pick (max : Bool) (a b : FVal) : FVal :=
  if a.isNan then b
  else if b.isNan then a
  else
    let below (x y : FVal) : Bool := x.lt y || (x.isZero && y.isZero && x.isNeg && !y.isNeg)
    if below a b then (if max then b else a) else if below b a then (if max then a else b) else a

/-- The conditions of FCMP (R102). -/
def fpCond (c : Nat) (a b : FVal) : Bool :=
  match c with
  | 0 => a.eq b
  | 1 => !(a.eq b)
  | 2 => a.lt b
  | 3 => a.lt b || a.eq b
  | 4 => b.lt a
  | 5 => b.lt a || a.eq b
  | 6 => a.isNan || b.isNan
  | _ => !a.isNan && !b.isNan

/-- The exact sum of a list (R114): the canonical NaN and invalid for opposite infinities; an exact zero is -0
only if every summand is. -/
def sumExact : List FVal → FVal × Bool
  | [] => (.fin false 0 0 false, false)
  | [x] => (x, false)
  | x :: r =>
    let (y, bad) := sumExact r
    let (z, bad') := x.add y
    (z, bad || bad')

/-- The exact sum of a list of values, none of them lost to a NaN on the way: any NaN gives a NaN without the
flag, opposite infinities among the numbers give it with the flag. DESIGN CHOICE, log 55. -/
def sumAll (xs : List FVal) : FVal × Bool :=
  if xs.any (·.isNan) then (.nan, false) else sumExact xs

/-- An integer as a value. -/
def ofInt (v : Int) : FVal := ofScaled v 0 false

/-- Round a value to an integer in a direction, with whether that changed it (R98). -/
def roundInt (rm : Rnd) (neg : Bool) (m : Nat) (e : Int) (more : Bool) : Int × Bool :=
  if 0 ≤ e then (sgn neg (m * 2 ^ e.toNat), more)
  else
    let k := (-e).toNat
    let n := m / 2 ^ k
    let rem := m % 2 ^ k
    let n' := if roundUp rm neg n rem k more then n + 1 else n
    (sgn neg n', rem != 0 || more)

/-! ### Functions (R99, R101) -/

/-- The integer square root, bit by bit from bit `b`. -/
def isqrtBits : Nat → Nat → Nat → Nat
  | 0, n, r => if (r + 1) * (r + 1) ≤ n then r + 1 else r
  | b + 1, n, r =>
    let r' := r + 2 ^ (b + 1)
    isqrtBits b n (if r' * r' ≤ n then r' else r)

/-- The integer square root. -/
def isqrt (n : Nat) : Nat := isqrtBits (Nat.log2 n / 2 + 1) n 0

/-- 1 / (m × 2^e) to more than any format's precision. -/
def recipMag (m : Nat) (e : Int) : Nat × Int × Bool :=
  let k := Nat.log2 m + 100
  (2 ^ k / m, -e - k, 2 ^ k % m != 0)

/-- 1 / sqrt(m × 2^e) likewise. -/
def rsqrtMag (m : Nat) (e : Int) : Nat × Int × Bool :=
  let (m, e) := if e % 2 = 0 then (m, e) else (2 * m, e - 1)
  let k := Nat.log2 m + 100
  let r := isqrt (2 ^ (2 * k) / m)
  (r, -(e / 2) - k, r * r * m != 2 ^ (2 * k))

/-- Fixed-point precision of the transcendental functions, in bits. DEDUCED, log 41. -/
def fxBits : Nat := 320

/-- floor(ln 2 × 2^320). -/
def ln2Fx : Nat := 
  0xB172_17F7_D1CF_79AB_C9E3_B398_03F2_F6AF_40F3_4326_7298_B62D_8A0D_175B_8BAA_FA2B_E7B8_7620_6DEB_AC98

/-- The series of e^t for t in [0, 1), in fixed point: `n` terms from the `k`-th on, `term` being the
present one. -/
def expSeries : Nat → Nat → Nat → Nat → Nat
  | 0, _, _, acc => acc
  | n + 1, t, term, acc =>
    -- the k-th term follows from the one before it; k counts up as n counts down
    let k := 80 - n
    let term' := term * t / 2 ^ fxBits / k
    expSeries n t term' (acc + term')

/-- e^t in fixed point for t in [0, 1). -/
def expFx (t : Nat) : Nat := expSeries 80 t (2 ^ fxBits) (2 ^ fxBits)

/-- 2^f in fixed point for f in [0, 1), given in fixed point. -/
def exp2Fx (f : Nat) : Nat := expFx (f * ln2Fx / 2 ^ fxBits)

/-- 2^v for a finite v (R99): exact for an integer, otherwise to the precision of the fixed point.
DEDUCED, log 41. -/
def exp2Val (neg : Bool) (m : Nat) (e : Int) : FVal :=
  if m = 0 then .fin false 1 0 false
  else if (Nat.log2 m : Int) + e > 12 then
    -- beyond every format: an overflow or a value below every subnormal
    if neg then .fin false 1 (-8192) true else .fin false 1 8192 false
  else
    let x : Int := if 0 ≤ e + fxBits then sgn neg (m * 2 ^ (e + fxBits).toNat)
                   else (if neg then -1 else 1)
    let i := x / (2 ^ fxBits : Int)
    let f := (x % (2 ^ fxBits : Int)).toNat
    if f = 0 then .fin false 1 i false
    else .fin false (exp2Fx f / 2 ^ 40) (i - fxBits + 40) true

/-- The series of atanh(y) = y + y^3/3 + ..., in fixed point. -/
def atanhSeries : Nat → Nat → Nat → Nat → Nat
  | 0, _, _, acc => acc
  | n + 1, y2, pow, acc =>
    let k := 2 * (110 - n) - 1
    atanhSeries n y2 (pow * y2 / 2 ^ fxBits) (acc + pow / k)

/-- log2 of x in [1, 2), given in fixed point, as fixed point. -/
def log2Fx (x : Nat) : Nat :=
  let one := 2 ^ fxBits
  let y := (x - one) * one / (x + one)
  2 * atanhSeries 110 (y * y / one) y 0 * one / ln2Fx

/-- log2 of a positive finite value (R99). DEDUCED, log 41. -/
def log2Val (m : Nat) (e : Int) : FVal :=
  let b := Nat.log2 m
  let k : Int := b + e
  if m = 2 ^ b then ofInt k
  else
    let frac := log2Fx (m * 2 ^ (fxBits - b))
    let v : Int := k * (2 ^ fxBits : Int) + frac
    if 0 ≤ v then .fin false (v.toNat / 2 ^ 40) (-(fxBits : Int) + 40) true
    else .fin true ((-v).toNat / 2 ^ 40) (-(fxBits : Int) + 40) true

/-- FUN (R99, R101): the exact value and the flags of its special cases. DEDUCED, log 41. -/
def funVal (f : Nat) (a : FVal) : FVal × BitVec 8 :=
  match f, a with
  | _, .nan => (.nan, 0)
  | 4, _ => (a.abs, 0)
  | 5, _ => (a.neg, 0)
  | 0, .inf s => (.fin s 0 0 false, 0)
  | 0, .fin s m e _ =>
    if m = 0 then (.inf s, flagBit 4)
    else
      let (r, x, more) := recipMag m e
      (.fin s r x more, 0)
  | 1, .inf s => if s then (.nan, flagBit 3) else (.fin false 0 0 false, 0)
  | 1, .fin s m e _ =>
    if m = 0 then (.inf s, flagBit 4)
    else if s then (.nan, flagBit 3)
    else
      let (r, x, more) := rsqrtMag m e
      (.fin false r x more, 0)
  | 2, .inf s => if s then (.fin false 0 0 false, 0) else (.inf false, 0)
  | 2, .fin s m e _ => (exp2Val s m e, 0)
  | _, .inf s => if s then (.nan, flagBit 3) else (.inf false, 0)
  | _, .fin s m e _ =>
    if m = 0 then (.inf true, flagBit 4)
    else if s then (.nan, flagBit 3)
    else (log2Val m e, 0)

/-! ### Values of names whose type an instruction leaves open -/

/-- The number a source stands for as an integer. The spec's integer forms say nothing of a floating-point name that
holds no integer: a free value stands there. DEDUCED, log 11. -/
def srcInt (s : State) (x : Src) : Int :=
  if x.info.ty < 2 then x.int 0
  else
    match x.fval 0 with
    | .fin neg m e false =>
      let r := roundInt 1 neg m e false
      if r.2 then (Config.freeWord (Config.draw (Config.draw s.tick 0) x.info.ix)).toNat else r.1
    | _ => (Config.freeWord (Config.draw (Config.draw s.tick 0) x.info.ix)).toNat

/-- The 64-bit word of a source: zpat of its value (R82). DEDUCED, log 11. -/
def srcWord (s : State) (x : Src) : Nat := zpat (srcInt s x) 64

/-- An integer fitted to a destination of either family by its declared mode (R83, R95). DEDUCED, log 11. -/
def fitEither (di : NameInfo) (v : Int) : LaneRes :=
  if 2 ≤ di.ty then fitFp di di.mode 0 (ofInt v) 0 else fitDecl di v

/-! ### E2M1 blocks and cb3 (R260-R265) -/

/-- Twice the magnitude of an E2M1 code (R260). -/
def e2m1Twice (c : Nat) : Nat := [0, 1, 2, 3, 4, 6, 8, 12].getD (c % 8) 0

/-- Decode an element of an E2M1 block (R261). -/
def e2m1Decode (scale extra code : Nat) : FVal :=
  if scale = 255 then .nan
  else
    let v : FVal :=
      if code % 16 = 8 then (if extra % 256 = 0 then .fin true 0 0 false else e4m3.decode extra)
      else .fin (code / 8 % 2 == 1) (e2m1Twice code) (-1) false
    match v with
    | .fin s m e x => .fin s m (e + (scale : Int) - 127) x
    | other => other

/-- The magnitude comparison of finite values. -/
def magOf : FVal → Nat × Int
  | .fin _ m e _ => (m, e)
  | _ => (0, 0)

/-- The place of the value of largest magnitude, the lowest on equal magnitudes (R262). -/
def largestAt (vs : List FVal) : Nat :=
  (vs.zipIdx.foldl (fun (best : Nat × FVal) v =>
    let (m, e) := magOf v.1
    let (bm, be) := magOf best.2
    if magLt bm be m e then (v.2, v.1) else best) (0, vs.getD 0 .nan)).1

/-- |a - b| as a magnitude. -/
def distance (a b : FVal) : Nat × Int := magOf ((a.add b.neg).1)

/-- The encoder of one E2M1 block (R262): SCALE, EXTRA and the 32 codes; also whether an element changed. The pseudocode's
SCALE does not fit its byte where a magnitude is 2^130 or more, which no FP32 value is: the byte is then a free value.
DESIGN CHOICE, log 37. -/
def e2m1Encode (vs : List FVal) : Nat × Nat × List Nat × Bool :=
  if vs.any (·.isNan) then (255, 0, vs.map fun _ => 0, false)
  else
    let mx := vs.getD (largestAt vs) (.fin false 0 0 false)
    let (mm, me) := magOf mx
    if mm = 0 then (127, 0, vs.map fun _ => 0, false)
    else
      let scale := (max 0 ((Nat.log2 mm : Int) + me - 2 + 127)).toNat
      let sc (v : FVal) : FVal := match v with
        | .fin s m e x => .fin s m (e - ((scale : Int) - 127)) x
        | other => other
      let codeVals : List (Nat × FVal) :=
        ((List.range 16).filter (· != 8)).map fun c => (c, e2m1Decode 127 0 c)
      let ymx := sc mx
      let extra := if codeVals.any (fun c => c.2.eq ymx) then 0 else (e4m3.ieee 0 ymx).1
      let cands := if extra = 0 then codeVals else codeVals ++ [(8, e2m1Decode 127 extra 8)]
      let pickCode (y : FVal) : Nat :=
        if y.isZero then 0
        else
          (cands.foldl (fun (best : Nat × (Nat × Int)) c =>
            let d := distance y c.2
            if magLt d.1 d.2 best.2.1 best.2.2 then (c.1, d)
            else if !(magLt best.2.1 best.2.2 d.1 d.2) && best.1 % 2 == 1 && c.1 % 2 == 0 && c.1 != 8 && best.1 != 8
              then (c.1, d) else best)
            (0, magOf y)).1
      let codes := vs.map fun v => pickCode (sc v)
      let scale := if scale ≤ 254 then scale else (Config.wideScale scale).toNat
      let changed := (vs.zip codes).any fun vc => !(vc.1.eq (e2m1Decode scale extra vc.2))
      (scale, extra, codes, changed)

/-- The index a cb3 write takes among the slot's 8 entries (R265): for an infinity that infinity, or else the extreme entry of
its side, all finite ones being equally far from it. DESIGN CHOICE, log 55. -/
def cb3Index (entries : List FVal) (v : FVal) : Nat :=
  if v.isNan then ((entries.zipIdx.find? fun e => e.1.isNan).map (·.2)).getD 0
  else
    let nums := entries.zipIdx.filter fun e => !e.1.isNan
    match v with
    | .inf s =>
      (nums.foldl (fun (best : Option (FVal × Nat)) e =>
        match best with
        | none => some e
        | some b => if (if s then e.1.lt b.1 else b.1.lt e.1) then some e else some b) none).map (·.2) |>.getD 0
    | _ =>
      let fins := nums.filter fun e => match e.1 with
        | .inf _ => false
        | _ => true
      if fins.isEmpty then ((nums.head?).map (·.2)).getD 0
      else
        (fins.foldl (fun (best : Option (FVal × Nat)) e =>
          match best with
          | none => some e
          | some b =>
            let d := distance v e.1
            let db := distance v b.1
            if magLt d.1 d.2 db.1 db.2 then some e else some b) none).map (·.2) |>.getD 0

end Sys2Proof.Machine
end

