-- ==== Sys2Proof/Machine/Views.lean ====
section
/-!
DEFINITION. The decoding views with the write-merge buffer, the table-store window and the full/empty window
(spec/01 R44-R46; spec/07 R260-R265; spec/10 R284-R288).
-/

namespace Sys2Proof.Machine

/-- A per-core control register (R40). -/
def ctlOf (c : Core) (n : Nat) : Nat := (tgetD c.ctl n 0).toNat

/-- RAWBASE and SIDEBASE of a view's configuration (R44). -/
def rawBase (cfg : BitVec 64) : Nat := fieldN cfg.toNat 0 17
def sideBase (cfg : BitVec 64) : Nat := fieldN cfg.toNat 32 17

/-- The present configuration of a view (R44). -/
def viewConfig (c : Core) (v : Nat) : BitVec 64 := tgetD c.ctl (0x14 + v) 0

/-- Entry `e` of a table-store slot, as BF16 bits. -/
def tsEntry (c : Core) (slot e : Nat) : Nat := fieldN (tgetD c.tstore slot ⟨0, false⟩).bits.toNat (16 * e) 16

/-- A slot's eight entries as values. -/
def tsValues (c : Core) (slot : Nat) : List FVal := (List.range 8).map fun e => bf16.decode (tsEntry c slot e)

/-- The byte ranges of the local store that elements `lo .. hi` of a view lie in: offset and length (R284). -/
def viewBytes (v : Nat) (cfg : BitVec 64) (lo hi : Nat) : List (Nat × Nat) :=
  let r := rawBase cfg
  match v with
  | 0 => [(r + lo / 2, hi / 2 - lo / 2 + 1), (sideBase cfg + 2 * (lo / 32), 2 * (hi / 32 - lo / 32 + 1))]
  | 1 => [(r + 3 * lo / 8, (3 * hi + 2) / 8 - 3 * lo / 8 + 1)]
  | _ => [(r + lo, hi - lo + 1)]

/-- The encoded bytes of an access lie in the local store (R45). -/
def viewInside (v : Nat) (cfg : BitVec 64) (lo hi : Nat) : Bool :=
  (viewBytes v cfg lo hi).all fun b => b.1 + b.2 ≤ 131072

/-- A byte of a core's local store. -/
def lsByte (s : State) (p off : Nat) : Nat := loadPhys s (lsBase p + off) 1

/-- The exact value of element `i` of a view, as it stands in the local store (R284). -/
def viewValue (s : State) (p v : Nat) (cfg : BitVec 64) (i : Nat) : FVal :=
  let r := rawBase cfg
  match v with
  | 0 =>
    let b := i / 32
    let code := lsByte s p (r + i / 2) / (if i % 2 = 0 then 1 else 16) % 16
    e2m1Decode (lsByte s p (sideBase cfg + 2 * b)) (lsByte s p (sideBase cfg + 2 * b + 1)) code
  | 1 =>
    let x := loadPhys s (lsBase p + r + 3 * i / 8) 2 / 2 ^ (3 * i % 8) % 8
    bf16.decode (tsEntry (coreAt s p) (i / 128 % 16) x)
  | 2 => e4m3.decode (lsByte s p (r + i))
  | _ => e5m2.decode (lsByte s p (r + i))

/-- An element as the view shows it: BF16, to nearest even, a NaN as 0x7FC0 (R263, R284). -/
def viewPattern (s : State) (p v : Nat) (cfg : BitVec 64) (i : Nat) : Nat := (bf16.ieee 0 (viewValue s p v cfg i)).1

/-- A value rounded to a format, overflow and infinities going to the format's maximum (R285). -/
def clampTo (f : Fmt) (v : FVal) : Nat :=
  match v with
  | .nan => f.nanBits
  | .inf neg => f.maxSigned neg
  | .fin neg m e more =>
    let r := f.roundMag 0 neg m e more
    if r.ovf then f.maxSigned neg else f.pack r

/-- A value with an infinity taken as the largest finite FP32 value (R285). -/
def noInf (v : FVal) : FVal :=
  match v with
  | .inf neg => fp32.decode (fp32.maxSigned neg)
  | other => other

/-- A merge-buffer element's value. -/
def MergeEntry.value (m : MergeEntry) (e : Nat) : FVal := bf16.decode (fieldN m.vals.toNat (16 * e) 16)

/-- The elements a merge-buffer entry holds. -/
def MergeEntry.held (m : MergeEntry) : List Nat := (List.range 32).filter fun e => bitN m.written.toNat e

/-- The strand whose monitors a write-out leaves alone: the one that made every store it holds (R134). -/
def MergeEntry.writer (m : MergeEntry) : Option Nat :=
  match m.who with
  | [k] => some k
  | _ => none

/-- The physical byte ranges a write-out writes: an E2M1 block and its side record whole, otherwise the written
elements (R286). -/
def mergeRanges (p : Nat) (m : MergeEntry) : List (Nat × Nat) :=
  let b := 32 * m.block
  let rs := if m.view = 0 then viewBytes 0 m.config b (b + 31)
    else m.held.flatMap fun e => viewBytes m.view m.config (b + e) (b + e)
  rs.map fun r => (lsBase p + r.1, r.2)

/-- The agent whose writes a write-out makes: the strand that made all its stores, otherwise the core's buffer. -/
def MergeEntry.agent (m : MergeEntry) (p : Nat) : Nat := m.writer.getD (mergeAgent p)

/-- A write of a write-out. A word that a strand has reserved is written at once if the entry holds stores of that strand,
whose own writes do not wait there; behind another's reservation it waits (R177). DESIGN CHOICE, log 49. -/
def mergePut (s : State) (p : Nat) (m : MergeEntry) (pa n v : Nat) : State :=
  if s.rsvs.all fun e => !(e.1 < pa + n && pa < e.1 + 8) || e.2.holder.all m.who.contains then
    storePhys s (some (m.agent p)) pa n v
  else agentWrite s (m.agent p) pa n v

/-- Write one element of an entry of a view other than E2M1 (R285). -/
def viewPut (s : State) (p : Nat) (m : MergeEntry) (i : Nat) (x : FVal) : State :=
  let a := lsBase p + rawBase m.config
  match m.view with
  | 1 =>
    let k := cb3Index (tsValues (coreAt s p) (i / 128 % 16)) x
    let n := if 3 * i % 8 ≤ 5 then 1 else 2
    mergePut s p m (a + 3 * i / 8) n (setFieldN (loadPhys s (a + 3 * i / 8) n) (3 * i % 8) 3 k)
  | 2 => mergePut s p m (a + i) 1 (clampTo e4m3 x)
  | _ => mergePut s p m (a + i) 1 (clampTo e5m2 x)

/-- The payload of a block: code e in nibble e (R261). -/
def packNibbles (codes : List Nat) : Nat := codes.zipIdx.foldl (fun acc c => acc + c.1 * 16 ^ c.2) 0

/-- Write a merge-buffer entry out (R286), as the writes of the strand that made all its stores, otherwise as the core's. -/
def writeOut (s : State) (p : Nat) (m : MergeEntry) : State :=
  let b := 32 * m.block
  if m.view = 0 then
    let vals := (List.range 32).map fun e =>
      if bitN m.written.toNat e then noInf (m.value e) else viewValue s p 0 m.config (b + e)
    let (scale, extra, codes, _) := e2m1Encode vals
    let s := mergePut s p m (lsBase p + rawBase m.config + 16 * m.block) 16 (packNibbles codes)
    mergePut s p m (lsBase p + sideBase m.config + 2 * m.block) 2 (scale + 256 * extra)
  else m.held.foldl (fun acc e => viewPut acc p m (b + e) (m.value e)) s

/-- An entry's 32 written bits are all set. -/
def MergeEntry.full (m : MergeEntry) : Bool := m.written.toNat == 2 ^ 32 - 1

/-- The bytes whose granules a write-out reads: all that it writes, since it replaces no granule whole, but the payload of a
complete E2M1 block (R286, R403). -/
def mergeReads (p : Nat) (m : MergeEntry) : List (Nat × Nat) :=
  if m.view = 0 && m.full then (mergeRanges p m).drop 1 else mergeRanges p m

/-- The old data that a write-out needs, or the table slot of a cb3 entry, has an uncorrectable error: the EVAL of the MCHECK,
whose address is one of the core's own near region (R403). DESIGN CHOICE, log 44. -/
def mergeBad (s : State) (p : Nat) (m : MergeEntry) : Option Nat :=
  match (mergeReads p m).findSome? fun r => poisoned s r.1 r.2 with
  | some w => some (w - lsBase p + 2 ^ 56)
  | none =>
    let slot := m.block / 4 % 16
    if m.view = 1 && (coreAt s p).badSlots.contains slot then some (0x30_0000 + 16 * slot + 4 * 2 ^ 56) else none

/-- Put a core's merge buffer. -/
def setMerge (s : State) (p : Nat) (ms : List MergeEntry) : State := setCore s p { coreAt s p with wmb := ms }

/-- Every entry of a core's merge buffer written out, older first (R286); one whose write-out meets an uncorrectable error
stays in the buffer, until an instruction of the core that writes it out reports the error (R403). DESIGN CHOICE, log 44. -/
def flushMerge (s : State) (p : Nat) : State :=
  (coreAt s p).wmb.foldl (fun acc m =>
    if (mergeBad acc p m).isSome then setMerge acc p ((coreAt acc p).wmb ++ [m]) else writeOut acc p m) (setMerge s p [])

/-- A reserved word that a write-out would write, held by another strand than the one that issues (R177). -/
def mergeBlocked (s : State) (p : Nat) (ms : List MergeEntry) : Option Nat :=
  (ms.flatMap (mergeRanges p)).findSome? fun r => reservedByOther s (some s.cur) r.1 r.2

/-- Entries written out on behalf of the strand that issues: it waits while a word of theirs is reserved (R177, R286), and
traps where old data that they need has an uncorrectable error (R403). DESIGN CHOICE, log 44. -/
def writeOutAll (s : State) (p : Nat) (ms keep : List MergeEntry) : Res State :=
  match mergeBlocked s p ms, ms.findSome? (mergeBad s p) with
  | some w, _ => parkNow (.reservation w)
  | none, some v => trapNow cMCHECK v
  | none, none => .ok (ms.foldl (fun acc m => writeOut acc p m) (setMerge s p keep))

/-- A release by a strand of the core drains the buffer (R286). -/
def drainMerge (s : State) : Res State :=
  let p := curP s
  if (coreAt s p).wmb.isEmpty then .ok s else writeOutAll s p (coreAt s p).wmb []

/-- A word that another strand than `k` has reserved, at whose home a write of `k` waits, or one of its core's merge buffer,
which may hold stores of `k`, or stores that happen before what `k` does (R177, R286, R314).
DESIGN CHOICE, log 49. -/
def storesWait (s : State) (k : Nat) : Option Nat :=
  (s.rsvs.find? fun r => r.2.holder != some k && r.2.writes.any fun x => x.who == k || x.who == mergeAgent (keyCore k)).map
    (·.1)

/-- The earlier stores of the strand that issues are performed: the buffer drains, and the strand waits while one of its
writes, or one of the buffer, waits at the home of a word that another agent has reserved (R142, R177, R286, R314).
DESIGN CHOICE, log 8. DESIGN CHOICE, log 49. -/
def settleStores (s : State) : Res State := do
  let s1 ← drainMerge s
  match storesWait s1 s1.cur with
  | some w => parkNow (.reservation w)
  | none => .ok s1

/-- What a releasing instruction does first: its earlier stores are performed, and its completion counts as progress (R286,
R352). DESIGN CHOICE, log 8. -/
def release (s : State) : Res State := (settleStores s).map progressCur

/-- Read `n` bytes through a view at an offset: the elements as consecutive BF16 patterns; an entry that holds one of
them is written out first (R284). -/
def readView (s : State) (v off n : Nat) : Res (State × Nat) := do
  let p := curP s
  let c := coreAt s p
  let i := off / 2
  let hit (m : MergeEntry) : Bool :=
    m.view == v && (List.range (n / 2)).any fun j => (i + j) / 32 == m.block && bitN m.written.toNat ((i + j) % 32)
  let s ← if c.wmb.any hit then writeOutAll s p (c.wmb.filter hit) (c.wmb.filter fun m => !hit m) else .ok s
  let cfg := viewConfig (coreAt s p) v
  .ok (s, (List.range (n / 2)).foldl (fun acc j => acc + viewPattern s p v cfg (i + j) * 2 ^ (16 * j)) 0)

/-- An entry with elements `i ..` of its block replaced by BF16 patterns. -/
def mergeInto (m : MergeEntry) (who i n pat : Nat) : MergeEntry :=
  (List.range n).foldl (fun m j =>
    let e := (i + j) % 32
    { m with vals := BitVec.ofNat 512 (setFieldN m.vals.toNat (16 * e) 16 (pat / 2 ^ (16 * j)))
             written := BitVec.ofNat 32 (setFieldN m.written.toNat e 1 1) })
    { m with who := if m.who.contains who then m.who else m.who ++ [who] }

/-- Write `n` bytes through a view: into the merge buffer, which first makes room, and whose complete entry is written
out at once (R286). -/
def writeView (s : State) (v off n pat : Nat) : Res State := do
  let p := curP s
  let c := coreAt s p
  let i := off / 2
  let same (m : MergeEntry) : Bool := m.view == v && m.block == i / 32
  let s ← if c.wmb.any same then .ok s
    else
      let s ← (match c.wmb with
        | m :: _ :: _ => writeOutAll s p [m] (c.wmb.drop 1)
        | _ => .ok s)
      let c := coreAt s p
      .ok (setCore s p { c with wmb := c.wmb ++ [⟨v, i / 32, [], viewConfig c v, 0, 0⟩] })
  let c := coreAt s p
  let wmb := c.wmb.map fun m => if same m then mergeInto m s.cur i (n / 2) pat else m
  let s := setCore s p { c with wmb := wmb }
  if wmb.any (·.full) then writeOutAll s p (wmb.filter (·.full)) (wmb.filter fun m => !m.full) else .ok s

/-! ### The table-store window (R288) -/

/-- Read `n` bytes of the table store. -/
def readTable (s : State) (p off n : Nat) : Nat :=
  fieldN (tgetD (coreAt s p).tstore (off / 16) ⟨0, false⟩).bits.toNat (8 * (off % 16)) (8 * n)

/-- A slot has been set full: an MMAQ that waits on the table store looks again (R233, R288). -/
def slotFilled (s : State) (p : Nat) : State :=
  if (coreAt s p).mx.work.isSome then addEvent s (.mmaqSlotTake p) else s

/-- Write `n` bytes of the table store: entry 0 empties the slot before, entry 7 fills it after (R288). -/
def writeTable (s : State) (p off n v : Nat) : State :=
  let c := coreAt s p
  let old := tgetD c.tstore (off / 16) ⟨0, false⟩
  let full := if off % 16 + n = 16 then true else if off % 16 = 0 then false else old.full
  let new : TableSlot := ⟨BitVec.ofNat 128 (setFieldN old.bits.toNat (8 * (off % 16)) (8 * n) v), full⟩
  let s := setCore s p { c with tstore := tset c.tstore (off / 16) new }
  if off % 16 + n = 16 then slotFilled s p else s

/-! ### The full/empty window (R46) -/

/-- Read `n` bytes of the full/empty window: 1 for full, 0 for empty. -/
def readFe (s : State) (p off n : Nat) : Nat :=
  (List.range n).foldl (fun acc j => acc + (if wordFull s (lsBase p + 8 * (off + j)) then 1 else 0) * 256 ^ j) 0

/-- Write `n` bytes of the full/empty window: bit 0 of each byte sets its word's state. -/
def writeFe (s : State) (p off n v : Nat) : State :=
  (List.range n).foldl (fun acc j =>
    let w := lsBase p + 8 * (off + j)
    if v / 256 ^ j % 2 = 1 then fillWord acc w else emptyWord acc w) s

end Sys2Proof.Machine
end

