-- ==== Sys2Proof/Machine/Access.lean ====
section
/-!
DEFINITION. A strand's accesses to memory: the checks before any lane performs, in two passes, the reading and writing
of one access, and how an instruction with accesses ends (spec/05 R160-R167; spec/17 R387, R403; spec/14 R373;
spec/10 R301, R302, R304).
-/

namespace Sys2Proof.Machine

/-- The groups of R162. -/
inductive Grp where
  | plain
  | ordered
  | take
  | atomic
  /-- MON and MONX, which reach ordinary memory only (R133) -/
  | watch
deriving DecidableEq, Repr

/-- Where an access goes, once found. -/
inductive Target where
  | mem (pa : Nat) (leaf : Option Nat)
  | view (v off : Nat)
  | tstore (off : Nat)
  | fe (off : Nat)
  | device (off : Nat)
deriving DecidableEq, Repr

/-- One lane's access: its address and where it goes. -/
structure Touch where
  lane : Nat
  ea   : Nat
  tgt  : Target
deriving DecidableEq, Repr

/-- The word of an access to memory. -/
def touchWord (t : Touch) : Nat := match t.tgt with
  | .mem pa _ => pa
  | _ => 0

/-- An address through a near window that completes within the issue interval (R163). -/
def isOwn (ea : Nat) : Bool := ea < 0x70_0000

/-- The windows of R162 a group may reach, and the size rule of the views and the table store. -/
def nearAllowed (grp : Grp) (n ea : Nat) (w : Near) : Res Target :=
  let narrow {α : Type} (t : α) : Res α := if n = 1 then trapNow cALIGN ea else .ok t
  match grp, w with
  | .plain, .raw p off => .ok (.mem (lsBase p + off) none)
  | .plain, .view v off => narrow (.view v off)
  | .plain, .tstore off => narrow (.tstore off)
  | .plain, .fe off => .ok (.fe off)
  | .plain, .vault c off => .ok (.mem (vaultBase c + off) none)
  | .ordered, .raw p off => .ok (.mem (lsBase p + off) none)
  | .ordered, .vault c off => .ok (.mem (vaultBase c + off) none)
  | .take, .raw p off => .ok (.mem (lsBase p + off) none)
  | .atomic, .raw p off => .ok (.mem (lsBase p + off) none)
  | .atomic, .vault c off => .ok (.mem (vaultBase c + off) none)
  | .watch, .raw p off => .ok (.mem (lsBase p + off) none)
  | .watch, .vault c off => .ok (.mem (vaultBase c + off) none)
  | _, _ => trapNow cPROTECT ea

/-- The encoded bytes of a view access lie in the local store (R45). -/
def nearExtent (s : State) (n ea : Nat) (t : Target) : Res Target :=
  match t with
  | .view v off =>
    if viewInside v (viewConfig (coreAt s (curP s)) v) (off / 2) (off / 2 + n / 2 - 1) then .ok t
    else trapNow cPROTECT ea
  | _ => .ok t

/-- The first pass for one lane: what needs no translation (R161, R162, R167). -/
def passOne (s : State) (grp : Grp) (n ea : Nat) : Res (Option Target) :=
  if ea % n != 0 then trapNow cALIGN ea
  else if isNear ea then do
    let t ← nearAllowed grp n ea (nearOf s (curP s) ea n)
    let t ← nearExtent s n ea t
    .ok (some t)
  else .ok none

/-- The migrator has chosen the page of an address: an atomic of a strand that arrives at the word waits, but not one to
which the word has been granted already (R304). -/
def atomicHeld (s : State) (k asid ea pa : Nat) : Bool :=
  s.migrations.any (fun m => m.asid == asid && m.page == ea / 65536) &&
    !(s.rsvs.any fun r => r.1 == pa / 8 * 8 && r.2.holder == some k)

/-- What a group may reach by translation (R162, R301). -/
def farAllowed (s : State) (grp : Grp) (n ea pa leaf : Nat) : Res Target :=
  match placeOf s pa with
  | .ls _ _ => if grp = .atomic && bitN leaf 57 then trapNow cPROTECT ea else .ok (.mem pa (some leaf))
  | .vault _ _ | .pool _ =>
    if grp = .take || (grp = .atomic && bitN leaf 57) then trapNow cPROTECT ea else .ok (.mem pa (some leaf))
  | .device off =>
    if grp = .take || grp = .atomic || grp = .watch then trapNow cPROTECT ea
    else if n != 8 then trapNow cALIGN ea
    else .ok (.device off)
  | .hole => trapNow cPROTECT ea

/-- How a missing translation or a forbidden access ends an access of a group: the reservation forms trap where
others park (R177). -/
def accessFault {α : Type} (s : State) (grp : Grp) (x : XFault) (code ea : Nat) : Res α :=
  match grp, x with
  | .atomic, .missing _ => trapNow cPROTECT (ea % 2 ^ 48 + 2 ^ 62)
  | _, _ => dataFault s x code ea

/-- The second pass for one lane: translate for each access it makes (R167, R387). `code` is its number in a
fault entry (R397). -/
def passTwo (s0 s : State) (grp : Grp) (accs : List Access) (n code ea : Nat) : Res (State × Target) :=
  let t := curStrand s0
  let asid := asidOf s0 t.lid
  match accs with
  | [] => trapNow cPROTECT ea
  | a :: rest =>
    match translate s t.lid (.core (curP s0)) asid t.sv a ea with
    | .error x => accessFault s0 grp x code ea
    | .ok (s', pa, leaf) =>
      if (a == .write && pageHeld s' asid ea) || (grp == .atomic && a == .read && atomicHeld s' s0.cur asid ea pa) then
        parkNow (.migration asid (ea / 65536))
      else if rest.isEmpty then do
        let tgt ← farAllowed s' grp n ea pa leaf
        .ok (s', tgt)
      else passTwo s0 s' grp rest n code ea

/-- Both passes over the lanes' addresses (R167): the first failure decides, and no lane performs. `s0` is the state the
instruction began in, which stands if it parks on a missing translation. -/
def checkAll (s0 s : State) (grp : Grp) (accs : List Access) (n code : Nat) (eas : List (Nat × Nat)) :
    Res (State × List Touch) := do
  let firsts ← eas.mapM fun e => (passOne s grp n e.2).map fun t => (e.1, e.2, t)
  firsts.foldlM (fun (acc : State × List Touch) f =>
    match f.2.2 with
    | some t => .ok (acc.1, acc.2 ++ [⟨f.1, f.2.1, t⟩])
    | none => do
      let (s', t) ← passTwo s0 acc.1 grp accs n code f.2.1
      .ok (s', acc.2 ++ [⟨f.1, f.2.1, t⟩])) (s, [])

/-- The source code of an MCHECK for a physical address (R403). -/
def mcheckSource (s : State) (pa : Nat) : Nat :=
  match placeOf s pa with
  | .vault _ _ => 2
  | .ls _ _ => 1
  | _ => 3

/-- An uncorrectable error among the bytes of an access that reads them: MCHECK (R403). -/
def mcheckAt (s : State) (t : Touch) (n : Nat) : Option Nat :=
  match t.tgt with
  | .mem pa _ => (poisoned s pa n).map fun _ => t.ea % 2 ^ 48 + mcheckSource s pa * 2 ^ 56
  | .tstore off =>
    if (coreAt s (curP s)).badSlots.contains (off / 16) then some (t.ea % 2 ^ 48 + 4 * 2 ^ 56) else none
  | .view v off =>
    let c := coreAt s (curP s)
    let lo := off / 2
    let hi := off / 2 + n / 2 - 1
    (match (viewBytes v (viewConfig c v) lo hi).findSome? fun b => poisoned s (lsBase (curP s) + b.1) b.2 with
     | some _ => some (t.ea % 2 ^ 48 + 2 ^ 56)
     | none =>
       if v = 1 && (c.badSlots.contains (lo / 128 % 16) || c.badSlots.contains (hi / 128 % 16)) then
         some (t.ea % 2 ^ 48 + 4 * 2 ^ 56)
       else none)
  | _ => none

/-- The first lane whose data has an uncorrectable error decides. -/
def readable (s : State) (ts : List Touch) (n : Nat) : Res Unit :=
  match ts.findSome? fun t => mcheckAt s t n with
  | some v => trapNow cMCHECK v
  | none => .ok ()

/-- A write smaller than its granule needs the old data (R403), and so does one to part of a block whose compressed form
is damaged (R296); a whole granule is replaced. DESIGN CHOICE, log 44. -/
def overwritable (s : State) (ts : List Touch) (n : Nat) : Res Unit :=
  let old (t : Touch) : Option Nat := match t.tgt with
    | .mem pa _ =>
      if n = 8 && (damaged s pa n).isNone then none else mcheckAt s t n
    | _ => mcheckAt s t n
  match ts.findSome? old with
  | some v => trapNow cMCHECK v
  | none => .ok ()

/-! ### The page-migration counters (R302) -/

/-- Count an access to a translated vault or pool page. -/
def countTouch (s : State) (t : Touch) (wrote : Bool) : State :=
  match t.tgt with
  | .mem pa (some _) => countPlace s (clusterOf (curP s)) (asidOf s (curStrand s).lid) t.ea pa wrote
  | _ => s

/-! ### Performing one access -/

/-- Read `n` bytes. DESIGN CHOICE, log 8. -/
def readTouch (s : State) (t : Touch) (n : Nat) : Res (State × Nat) :=
  match t.tgt with
  | .mem pa _ => .ok (countTouch s t false, loadPhys s pa n)
  | .view v off => readView s v off n
  | .tstore off => .ok (s, readTable s (curP s) off n)
  | .fe off => .ok (s, readFe s (curP s) off n)
  | .device off => .ok (deviceRead s off)

/-- Write `n` bytes; a write to a word reserved by another strand waits at the word's home (R177).
DESIGN CHOICE, log 8. -/
def writeTouch (s : State) (t : Touch) (n v : Nat) : Res State :=
  match t.tgt with
  | .mem pa _ =>
    .ok (homeWrite (countTouch s t true) ⟨s.cur, pa, n, v, false, false⟩)
  | .view x off => writeView s x off n v
  | .tstore off => .ok (writeTable s (curP s) off n v)
  | .fe off => .ok (writeFe s (curP s) off n v)
  | .device off => .ok (addEvent s (deviceEvent off v))

/-- Read every lane's access in turn: the patterns by lane. -/
def readTouches (n : Nat) : State → List Touch → Res (State × List (Nat × Nat))
  | s, [] => .ok (s, [])
  | s, t :: r => do
    let (s', v) ← readTouch s t n
    let (s'', vs) ← readTouches n s' r
    .ok (s'', (t.lane, v) :: vs)

/-- Write every lane's access in increasing order of lane: the highest one's bytes stand (R167). -/
def writeTouches (write : State → Touch → Nat → Res State) (v : Nat → Nat) : State → List Touch → Res State
  | s, [] => .ok s
  | s, t :: r => do
    let s' ← write s t (v t.lane)
    writeTouches write v s' r

/-- A plain write of `n` bytes. -/
def plainWrite (n : Nat) (s : State) (t : Touch) (v : Nat) : Res State := writeTouch s t n v

/-- The pattern of a lane. -/
def laneVal (vs : List (Nat × Nat)) (l : Nat) : Nat := ((vs.find? fun v => v.1 == l).map (·.2)).getD 0

/-! ### How an instruction with accesses ends -/

/-- An event is a write to a device register (R427). -/
def isDeviceWrite (e : Instr) : Bool := match e with
  | .lqpush _ _ | .lrheadWrite _ | .futfree _ | .pooldecWrite _ _ | .pcapWrite _ | .attreq _ | .ckptSramImage _
  | .ckptWholeDeviceImage _ | .ckptRestore _ | .freply _ _ | .fqheadWrite _ _ | .deviceRegisterWrite _ _ => true
  | _ => false

/-- A lane's access pushes a launch header (R427). -/
def isPush (t : Touch) : Bool := match t.tgt with
  | .device off => off < 0x28
  | _ => false

/-- Some access leaves the core's own near windows: the strand leaves rotation until the reply, with everything
done (R163). Its writes to device registers are made one after the other, each once the one before it is performed
(R316), a launch-queue push once the queue has room (R427). `s0` is the state the instruction began in.
DEDUCED, log 9. -/
def endAccess (s0 s : State) (far : Bool) : Res State :=
  if far then
    let new := s.agenda.drop s0.agenda.length
    match new.filter isDeviceWrite with
    | [] => .error (.park .reply (some (addEvent (advance s) (.accessReply s.cur))))
    | w :: ws =>
      let s := { s with agenda := s0.agenda ++ new.filter (fun e => !(isDeviceWrite e)) ++ [w] }
      .error (.park (.device (w :: ws)) (some (addEvent (advance s) (.accessReply s.cur))))
  else .ok (advance s)

/-- Some address of a list is not an own near window. -/
def anyFar (eas : List (Nat × Nat)) : Bool := eas.any fun e => !(isOwn e.2)

/-! ### The key/value descriptor (R371-R373) -/

/-- A key/value region descriptor: its 64 bytes, and its words. -/
structure KvDesc where
  bits   : Nat
  cursor : Nat
  shape  : Nat
  bfjob  : Nat
  bffut  : Nat
  base   : Nat
  dim    : Nat
  state  : Nat
  last   : Nat
deriving DecidableEq, Repr

/-- Layers, tokens, element size, policy STANDIN (R371). -/
def KvDesc.layers (d : KvDesc) : Nat := fieldN d.shape 0 16
def KvDesc.tokens (d : KvDesc) : Nat := fieldN d.shape 16 32
def KvDesc.etype (d : KvDesc) : Nat := fieldN d.shape 48 4
def KvDesc.standin (d : KvDesc) : Bool := bitN d.shape 52
def KvDesc.elem (d : KvDesc) : Nat := [2, 4, 1, 1, 1].getD d.etype 1

/-- The bytes of an entry (R372 ES). -/
def KvDesc.entryBytes (d : KvDesc) : Nat := (d.dim * d.elem + 63) / 64 * 64

/-- The rules of R371 other than those of CURSOR. -/
def KvDesc.ok (d : KvDesc) : Bool :=
  fieldN d.shape 53 11 == 0 && d.etype < 5 && d.tokens != 0 && d.layers != 0 &&
  d.bfjob < 2 ^ 48 && d.bfjob % 64 == 0 && d.bffut < 2 ^ 48 && d.bffut % 4 == 0 && d.base < 2 ^ 48 && d.base % 4096 == 0 &&
  d.dim % 32 == 0 && 32 ≤ d.dim && d.dim ≤ 4096 && d.state < 2 ^ 48 && d.last == 0

/-- The address of a state byte (R372). -/
def KvDesc.stateAt (d : KvDesc) (layer tok : Nat) : Nat := (d.state + (layer - 1) * d.tokens + tok) % 2 ^ 48

/-- A descriptor from its 64 bytes. -/
def kvOfBits (v : Nat) : KvDesc :=
  { bits := v, cursor := fieldN v 0 64, shape := fieldN v 64 64, bfjob := fieldN v 128 64, bffut := fieldN v 192 64,
    base := fieldN v 256 64, dim := fieldN v 320 64, state := fieldN v 384 64, last := fieldN v 448 64 }

/-- A descriptor from 64 bytes of memory. -/
def kvOf (s : State) (pa : Nat) : KvDesc := kvOfBits (loadPhys s pa 64)

/-- The physical address of ordinary memory at a virtual one, near or far, for an agent of a core that acts in a
mode; also the state with what the walk has set. -/
def physFor (s : State) (p lid : Nat) (sv : Bool) (acc : Access) (n va : Nat) : Except XFault (State × Nat) :=
  if isNear va then
    match nearOf s p va n with
    | .raw q off => .ok (s, lsBase q + off)
    | .vault c off => .ok (s, vaultBase c + off)
    | _ => .error .forbidden
  else
    match translate s lid (.core p) (asidOf s lid) sv acc va with
    | .ok (s', pa, _) =>
      match placeOf s' pa with
      | .device _ => .error .device
      | _ => .ok (s', pa)
    | .error x => .error x

/-- Where an address leads without regard to permission, if a translation exists; no bit of an entry is set. -/
def rawPlace (s : State) (p lid va : Nat) : Option Place :=
  let asid := asidOf s lid
  let range : Option RangeEnt := match launchAt s lid with
    | some l => l.ranges.find? fun (r : RangeEnt) => decide (r.vbase ≤ va) && decide (va ≤ r.vlast)
    | none => none
  match range with
  | some r => some (placeOf s (r.pbase + (va - r.vbase)))
  | none =>
    match tlbFind s (.core p) asid va .read with
    | some e => some (placeOf s (e.pa + va % 2 ^ e.bits))
    | none =>
      match walk s (clusterOf p) asid va with
      | .ok x => some (placeOf s (x.pa + va % 2 ^ x.bits))
      | .error _ => none

/-- The physical address of memory at a virtual one of a core, if there is any. -/
def memoryAt (s : State) (p lid va : Nat) : Option Nat :=
  if isNear va then
    match nearOf s p va 1 with
    | .raw q off => some (lsBase q + off)
    | .vault c off => some (vaultBase c + off)
    | _ => none
  else
    match rawPlace s p lid va with
    | some (.ls q off) => some (lsBase q + off)
    | some (.vault c off) => some (vaultBase c + off)
    | some (.pool off) => some (0x1000_0000_0000 + off)
    | _ => none

/-- The descriptor at a core's KVDESC, if it can be read and breaks no rule. -/
def coreKv (s : State) (p lid : Nat) : Option KvDesc :=
  let a := ctlOf (coreAt s p) 0x0D
  if a = 0 then none
  else (memoryAt s p lid a).bind fun pa => if (kvOf s pa).ok then some (kvOf s pa) else none

/-- Two stretches of addresses meet. -/
def overlaps (a n b m : Nat) : Bool := a < b + m && b < a + n

/-- Stretches of physical memory meet the state array of a region, whichever way they are reached (R373): `at'` gives where
an address of the array leads. -/
def meetsState (at' : Nat → Option Nat) (d : KvDesc) (xs : List (Nat × Nat)) : Bool :=
  let fin := d.state + d.layers * d.tokens
  (List.range ((fin + 4095) / 4096 - d.state / 4096)).any fun i =>
    let lo := Nat.max d.state ((d.state / 4096 + i) * 4096)
    let n := Nat.min fin ((d.state / 4096 + i + 1) * 4096) - lo
    match at' lo with
    | some pa => xs.any fun x => overlaps x.1 x.2 pa n
    | none => false

/-- Stretches of physical memory meet the state array of the region that a core's KVDESC names (R373). -/
def hitsState (s : State) (p lid : Nat) (xs : List (Nat × Nat)) : Bool :=
  match coreKv s p lid with
  | some d => meetsState (memoryAt s p lid) d xs
  | none => false

/-- The bytes that a store of `n` bytes changes: those of its access, or through a view those of the block or elements that
are encoded (R284, R285). -/
def touchBytes (s : State) (t : Touch) (n : Nat) : List (Nat × Nat) :=
  let p := curP s
  match t.tgt with
  | .mem pa _ => [(pa, n)]
  | .view v off =>
    let lo := off / 2
    let hi := lo + n / 2 - 1
    (if v = 0 then viewBytes 0 (viewConfig (coreAt s p) v) (lo / 32 * 32) (hi / 32 * 32 + 31)
      else viewBytes v (viewConfig (coreAt s p) v) lo hi).map fun r => (lsBase p + r.1, r.2)
  | _ => []

/-- The first lane of a store that R373 refuses traps PROTECT. -/
def stateGuard (s : State) (n : Nat) (ts : List Touch) : Res Unit :=
  match ts.find? fun t => hitsState s (curP s) (curStrand s).lid (touchBytes s t n) with
  | some t => trapNow cPROTECT t.ea
  | none => .ok ()

end Sys2Proof.Machine
end

