-- ==== Sys2Proof/Machine/Tile.lean ====
section
/-!
DEFINITION. Tiles: descriptors, element types, parameter records, headers, the writing of values into tile elements and
the Haar transform (spec/06 R214-R219, R226; spec/07 R258-R262, R268-R271, R441).
-/

namespace Sys2Proof.Machine

/-! ### Fields of a command word (R212) -/

/-- Word `i` of a command, D0 to D3. -/
def EngineCmd.d (c : EngineCmd) (i : Nat) : Nat := fieldN c.words.toNat (64 * i) 64

def EngineCmd.fut (c : EngineCmd) : BitVec 32 := BitVec.ofNat 32 (fieldN (c.d 0) 32 32)
def EngineCmd.tag (c : EngineCmd) : Nat := fieldN (c.d 0) 24 8

/-- KBLK of an MX command, SEL of a VX command. -/
def EngineCmd.sel (c : EngineCmd) : Nat := fieldN (c.d 0) 16 8
def EngineCmd.flg (c : EngineCmd) : Nat := fieldN (c.d 0) 10 6
def EngineCmd.fact (c : EngineCmd) : Nat := fieldN (c.d 0) 10 2
def EngineCmd.eng (c : EngineCmd) : Nat := fieldN (c.d 0) 8 2
def EngineCmd.opc (c : EngineCmd) : Nat := fieldN (c.d 0) 0 8

/-- ACC and PRM of D3 in the accumulator form (R216). -/
def EngineCmd.accIx (c : EngineCmd) : Nat := fieldN (c.d 3) 40 3
def EngineCmd.prm (c : EngineCmd) : Nat := fieldN (c.d 3) 0 40

/-! ### Descriptors (R214, R215) -/

/-- A tile descriptor. -/
structure Desc where
  addr   : Nat
  dtype  : Nat
  dom    : Nat
  lvl    : Nat
  rsv    : Bool
  stride : Nat
deriving DecidableEq, Repr

/-- The descriptor a word holds. -/
def descOf (w : Nat) : Desc :=
  ⟨fieldN w 0 40, fieldN w 40 4, fieldN w 44 4, fieldN w 48 3, bitN w 51, fieldN w 52 12⟩

/-- The bits that have to be 0 are: bit 51, and ADDR[39:3] and STRIDE of an accumulator descriptor (R214, R215). -/
def Desc.fieldOk (d : Desc) : Bool := !d.rsv && (d.dtype != 8 || (d.addr / 8 == 0 && d.stride == 0))

/-- DOM and LVL agree and are not reserved. -/
def Desc.domOk (d : Desc) : Bool :=
  (d.dom == 0 && d.lvl == 0) || ((d.dom == 1 || d.dom == 2) && 1 ≤ d.lvl && d.lvl ≤ 5)

/-- The bytes of 32 elements of a DTYPE in a row (R215). -/
def rowBytes (dt : Nat) : Nat := [64, 128, 32, 32, 32, 32, 128, 12, 0].getD dt 0

/-- The bytes of one element, but for e2m1-block and cb3. -/
def elemBytes (dt : Nat) : Nat := rowBytes dt / 32

/-- A piece of virtual memory: its address and length. -/
abbrev Span := Nat × Nat

/-- The rows of an operand: `n` rows of `len` bytes. -/
def Desc.rows (d : Desc) (n len : Nat) : List Span := (List.range n).map fun i => (d.addr + 32 * d.stride * i, len)

/-- The header of a Haar-domain tile (R218). -/
def Desc.header (d : Desc) : List Span := if d.dom = 0 then [] else [(d.addr - 32, 32)]

/-- The floating-point format of a DTYPE. -/
def dtFmt (dt : Nat) : Fmt := if dt = 0 then bf16 else if dt = 2 then e4m3 else if dt = 3 then e5m2 else fp32

/-- Element `e` of a row held as a number (R215, R258, R261). -/
def elemVal (dt row e : Nat) : FVal :=
  match dt with
  | 4 =>
    let blk := fieldN row (256 * (e / 32)) 256
    e2m1Decode (fieldN blk 128 8) (fieldN blk 136 8) (fieldN blk (4 * (e % 32)) 4)
  | 5 => ofInt (toSigned 8 (fieldN row (8 * e) 8))
  | 6 => ofInt (toSigned 32 (fieldN row (32 * e) 32))
  | _ => let n := 8 * elemBytes dt
         (dtFmt dt).decode (fieldN row (n * e) n)

/-- +0. -/
def fzero : FVal := .fin false 0 0 false

/-- The exact integer of a value that is one. -/
def FVal.toInt : FVal → Int
  | .fin s m e _ => sgn s (m * 2 ^ e.toNat)
  | _ => 0

/-! ### Parameter records (R217) -/

/-- A parameter record; `clamp` is the FP32 pattern, 0 for the format maximum. -/
structure Rec where
  clamp : Nat
  scale : FVal
  rnd   : Rnd
  tauix : Nat
  auxi  : Int
  auxf  : FVal
  auxa  : Nat
  kvsel : Nat
deriving DecidableEq, Repr

/-- What a command without a record behaves as. -/
def Rec.default : Rec := ⟨0, .fin false 1 0 false, 0, 0, 0, fzero, 0, 0⟩

/-- Which of the optional fields a command uses. -/
structure RecUse where
  auxi  : Bool := false
  auxf  : Bool := false
  auxa  : Bool := false
  kvsel : Bool := false

/-- A finite FP32 pattern. -/
def finite32 (p : Nat) : Bool := fieldN p 23 8 != 255

/-- The format maximum of a DTYPE (R259). -/
def clampMax (dt : Nat) : FVal := if dt = 4 then fp32.decode fp32.maxBits else (dtFmt dt).decode (dtFmt dt).maxBits

/-- The rules of R217 and R259 for a destination of a DTYPE; -0 counts as negative. DESIGN CHOICE, log 52. -/
def recRules (w dt : Nat) (u : RecUse) : Bool :=
  let clamp := fieldN w 0 32
  let clampOk := if dt = 5 || dt = 6 || dt = 7 then clamp == 0
    else finite32 clamp && !(bitN clamp 31) && !((clampMax dt).lt (fp32.decode clamp))
  let auxfOk := if u.auxf then finite32 (fieldN w 96 32) && !(bitN w 127) else fieldN w 96 32 == 0
  clampOk && finite32 (fieldN w 32 32) && fieldN w 68 12 == 0 && (u.auxi || fieldN w 80 16 == 0) && auxfOk &&
  fieldN w 176 16 == 0 && (u.auxa || fieldN w 128 48 == 0) && (u.kvsel || fieldN w 192 64 == 0)

/-- The record that 32 bytes hold. -/
def recOf (w : Nat) : Rec :=
  { clamp := fieldN w 0 32, scale := if fieldN w 32 32 = 0 then .fin false 1 0 false else fp32.decode (fieldN w 32 32),
    rnd := fieldN w 64 2, tauix := fieldN w 66 2, auxi := toSigned 16 (fieldN w 80 16), auxf := fp32.decode (fieldN w 96 32),
    auxa := fieldN w 128 48, kvsel := fieldN w 192 64 }

/-- SCALE is 1.0. -/
def Rec.unitScale (r : Rec) : Bool := r.scale.eq (.fin false 1 0 false)

/-! ### Headers and shades (R218, R219) -/

/-- n(s): the rows that shade `s` of a tile with L levels holds. -/
def shadeRows (lvl s : Nat) : Nat := if s = 15 then 32 else 2 ^ (5 - lvl + s)

/-- A header keeps the rules of R218 for a descriptor. -/
def headerOk (h : Nat) (d : Desc) : Bool :=
  let s := fieldN h 40 4
  fieldN h 32 3 == d.lvl && fieldN h 35 2 == d.dom && fieldN h 37 3 == 0 && (s < d.lvl || s == 15) &&
  fieldN h 46 2 == 0 && fieldN h 48 16 == 0x4854 && fieldN h 64 192 == 0

/-- The header of a written tile. -/
def headerWord (d : Desc) (mask shade tauix : Nat) : Nat :=
  mask % 2 ^ 32 + (d.lvl + 8 * d.dom) * 2 ^ 32 + (shade + 16 * tauix) * 2 ^ 40 + 0x4854 * 2 ^ 48

/-- Row (or column) `i` of a Haar tile holds data (R219). -/
def liveLine (d : Desc) (mask shade i : Nat) : Bool := d.dom == 0 || (i < shadeRows d.lvl shade && bitN mask i)

/-- An operand as an engine holds it; the shade and mask of a plain one are 15 and all ones. -/
structure Operand where
  vals  : List (List FVal)
  shade : Nat
  mask  : Nat
  tauix : Nat

/-- The effective mask of an operand: the rows it holds data in (R219, R231). -/
def Operand.liveMask (o : Operand) (d : Desc) : Nat :=
  (List.range 32).foldl (fun acc i => if liveLine d o.mask o.shade i then acc + 2 ^ i else acc) 0

/-- The values of a tile of 32 rows held as numbers, its dead rows or columns taken as +0 (R219). -/
def tileVals (d : Desc) (mask shade cols : Nat) (rows : List Nat) : List (List FVal) :=
  rows.zipIdx.map fun r => (List.range cols).map fun j =>
    if (if d.dom = 2 then liveLine d mask shade j else liveLine d mask shade r.2) then elemVal d.dtype r.1 j else fzero

/-- Rows become columns. -/
def transpose32 (m : List (List FVal)) : List (List FVal) :=
  (List.range 32).map fun j => m.map fun r => r.getD j fzero

/-! ### Rounding on the way (R224 INEXACT, OVER, UNDER) -/

/-- The flags of a conversion to FP32: inexact, overflow to an infinity, tiny and inexact. -/
def roundFlags (inexact ovf tiny : Bool) : BitVec 8 :=
  (if inexact then flagBit 2 else 0) ||| (if ovf then flagBit 5 else 0) ||| (if tiny then flagBit 6 else 0)

/-- rne32 and round32: a value rounded once to FP32 (R267). DESIGN CHOICE, log 37. -/
def r32 (v : FVal) : FVal × BitVec 8 :=
  let (p, inexact, ovf, tiny) := fp32.ieee 0 v
  (fp32.decode p, roundFlags inexact ovf tiny)

/-- INVALID where a test says so. -/
def invalidIf (b : Bool) : BitVec 8 := if b then flagBit 3 else 0

/-- An operation with its invalid flag, then round32. -/
def r32of (x : FVal × Bool) : FVal × BitVec 8 :=
  let r := r32 x.1
  (r.1, r.2 ||| invalidIf x.2)

/-! ### Writing values into elements (R226) -/

/-- CLAMP as a value: the record's, or the format maximum (R259). -/
def clampVal (dt clamp : Nat) (neg : Bool) : FVal :=
  let m := if clamp = 0 then clampMax dt else fp32.decode clamp
  if neg then m.neg else m

/-- CLAMP in the destination's format, rounded toward zero where it is not exact (R226). -/
def clampBits (dt clamp : Nat) (neg : Bool) : Nat := ((dtFmt dt).ieee 1 (clampVal dt clamp neg)).1

/-- A value written to a floating-point element (R226). -/
def storeFp (dt : Nat) (r : Rec) (v : FVal) : Nat × BitVec 8 :=
  let f := dtFmt dt
  match v with
  | .nan => (f.nanBits, 0)
  | .inf neg => (clampBits dt r.clamp neg, flagBit 1)
  | .fin neg m e more =>
    let x := f.roundMag r.rnd neg m e more
    if x.ovf then (clampBits dt r.clamp neg, flagBit 1 ||| (if x.inexact then flagBit 2 else 0))
    else (f.pack x, roundFlags x.inexact false x.tiny)

/-- A value written to an int8 or int32 element of `w` bits (R226). -/
def storeInt (w : Nat) (r : Rec) (v : FVal) : Nat × BitVec 8 :=
  let lo : Int := -(2 : Int) ^ (w - 1)
  let hi : Int := (2 : Int) ^ (w - 1) - 1
  match v with
  | .nan => (0, flagBit 3)
  | .inf neg => (zpat (if neg then lo else hi) w, flagBit 1)
  | .fin neg m e more =>
    let (n, changed) := roundInt r.rnd neg m e more
    let fl : BitVec 8 := if changed then flagBit 2 else 0
    if n < lo then (zpat lo w, fl ||| flagBit 1) else if hi < n then (zpat hi w, fl ||| flagBit 1) else (zpat n w, fl)

/-- A value written to one element of a type other than e2m1-block. -/
def storeElem (dt : Nat) (r : Rec) (v : FVal) : Nat × BitVec 8 :=
  match dt with
  | 5 => storeInt 8 r v
  | 6 => storeInt 32 r v
  | _ => storeFp dt r v

/-- A value that lies strictly above its digits, told apart from them by half a unit. -/
def sticky : FVal → FVal
  | .fin s m e true => .fin s (2 * m + 1) (e - 1) false
  | v => v

/-- What the block encoder takes: the exact value, an infinity as CLAMP (R226, R259, R262). -/
def blockInput (r : Rec) (v : FVal) : FVal × BitVec 8 :=
  match v with
  | .inf neg => (clampVal 4 r.clamp neg, flagBit 1)
  | v => (sticky v, 0)

/-- Numbers of `bits` bits each, the first lowest. -/
def packList (bits : Nat) (l : List Nat) : Nat := l.foldr (fun x acc => x % 2 ^ bits + acc * 2 ^ bits) 0

/-- The union of flags. -/
def orFlags (l : List (BitVec 8)) : BitVec 8 := l.foldl (· ||| ·) 0

/-- The values of a row as its destination stores them: the row's bytes, flags, and the stored values. An element that
`cut` picks and whose stored value lies below the threshold becomes +0 (R226, R269). -/
def storeRow (dt : Nat) (r : Rec) (tau : FVal) (cut : Nat → Bool) (vs : List FVal) : Nat × BitVec 8 × List FVal :=
  if dt = 4 then
    let ins := vs.map (blockInput r)
    let (scale, extra, codes, changed) := e2m1Encode (ins.map (·.1))
    let codes := codes.zipIdx.map fun c =>
      if cut c.2 && (e2m1Decode scale extra c.1).abs.lt tau then 0 else c.1
    (packList 4 codes + scale * 2 ^ 128 + extra * 2 ^ 136,
     orFlags (ins.map (·.2)) ||| (if changed then flagBit 2 else 0), codes.map (e2m1Decode scale extra))
  else
    let n := 8 * elemBytes dt
    let out := vs.zipIdx.map fun v =>
      let (p, fl) := storeElem dt r v.1
      if cut v.2 && (elemVal dt p 0).abs.lt tau then (0, fl) else (p, fl)
    (packList n (out.map (·.1)), orFlags (out.map (·.2)), out.map fun p => elemVal dt p.1 0)

/-- A write of an engine: address, length, bytes. -/
abbrev Write := Nat × Nat × Nat

/-- The writes of a plain destination, with the flags (R226). -/
def plainWrites (d : Desc) (r : Rec) (rows : List (List FVal)) : List Write × BitVec 8 :=
  let out := rows.map fun vs => storeRow d.dtype r .nan (fun _ => false) vs
  (out.zipIdx.map fun o => (d.addr + 32 * d.stride * o.2, rowBytes d.dtype, o.1.1), orFlags (out.map (·.2.1)))

/-- A stored value counts in the header's MASK (R270). -/
def counts (v : FVal) : Bool := !v.isZero

/-- The writes of a Haar destination: the rows, or columns, below `limit`, then the header; details below `tau` are
written as +0 (R235, R243, R269, R270, R441). -/
def haarWrites (d : Desc) (r : Rec) (tau : FVal) (limit shade tauix : Nat) (rows : List (List FVal)) :
    List Write × BitVec 8 :=
  let band := 2 ^ (5 - d.lvl)
  let whole := d.dom == 2 && d.dtype == 4
  let take (vs : List FVal) : List FVal := if d.dom = 2 && !whole then vs.take limit else vs
  let kept := if d.dom = 2 then rows else rows.take limit
  let out := kept.zipIdx.map fun v =>
    storeRow d.dtype r tau (fun j => if d.dom = 2 then band ≤ j else band ≤ v.2) (take v.1)
  let mask := (List.range limit).foldl (fun acc i =>
    let hit := if d.dom = 2 then out.any fun o => counts (o.2.2.getD i fzero) else (out.getD i (0, 0, [])).2.2.any counts
    if hit then acc + 2 ^ i else acc) 0
  let len := if d.dom = 2 && !whole then limit * elemBytes d.dtype else rowBytes d.dtype
  (out.zipIdx.map (fun o => (d.addr + 32 * d.stride * o.2, len, o.1.1)) ++
     [(d.addr - 32, 32, headerWord d mask shade tauix)],
   orFlags (out.map (·.2.1)))

/-! ### The Haar transform (R268, R271) -/

/-- Half of a value, exact. -/
def FVal.half : FVal → FVal
  | .fin s m e x => .fin s m (e - 1) x
  | v => v

/-- One forward level: approximations, details, flags. -/
def haarPairs : List FVal → List FVal × List FVal × BitVec 8
  | x :: y :: rest =>
    let a := x.add y
    let b := x.add y.neg
    let ra := r32of (a.1.half, a.2)
    let rb := r32of (b.1.half, b.2)
    let (as, ds, fl) := haarPairs rest
    (ra.1 :: as, rb.1 :: ds, ra.2 ||| rb.2 ||| fl)
  | _ => ([], [], 0)

/-- The forward transform of L levels: the band, then the details from the coarsest on. -/
def haarFwd : Nat → List FVal → List FVal × BitVec 8
  | 0, c => (c, 0)
  | k + 1, c =>
    let (as, ds, fl) := haarPairs c
    let (lo, fl') := haarFwd k as
    (lo ++ ds, fl ||| fl')

/-- One inverse level. -/
def haarMerge : List FVal → List FVal → List FVal × BitVec 8
  | c :: cs, y :: ys =>
    let p := r32of (c.add y)
    let q := r32of (c.add y.neg)
    let (rest, fl) := haarMerge cs ys
    (p.1 :: q.1 :: rest, p.2 ||| q.2 ||| fl)
  | _, _ => ([], 0)

/-- The inverse transform of L levels. -/
def haarInv : Nat → List FVal → List FVal × BitVec 8
  | 0, y => (y, 0)
  | k + 1, y =>
    let (c, fl) := haarInv k (y.take (y.length / 2))
    let (x, fl') := haarMerge c (y.drop (y.length / 2))
    (x, fl ||| fl')

/-- A transform applied to each column (DOM 1) or each row (DOM 2). -/
def alongVectors (dom : Nat) (f : List FVal → List FVal × BitVec 8) (m : List (List FVal)) :
    List (List FVal) × BitVec 8 :=
  let out := (if dom = 2 then m else transpose32 m).map f
  (if dom = 2 then out.map (·.1) else transpose32 (out.map (·.1)), orFlags (out.map (·.2)))

/-- An operand reconstructed, if it is in the Haar domain (R236, R244). -/
def reconstruct (d : Desc) (o : Operand) : List (List FVal) × BitVec 8 :=
  if d.dom = 0 then (o.vals, 0) else alongVectors d.dom (haarInv d.lvl) o.vals

end Sys2Proof.Machine
end

