-- ==== Sys2Proof/Machine/Dma.lean ====
section
/-!
DEFINITION. Transfers through a core's DMA port: the writes of engines, copies and footprint write-backs, the merging
of whole blocks on TOLERANT pages, and the counting of lines (spec/10 R293-R302).
-/

namespace Sys2Proof.Machine

/-- A piece of a transfer that lies in one 32-byte sector: virtual address, length, physical address, and the leaf that
maps it, 0 for a near-region window. -/
structure Part where
  va   : Nat
  n    : Nat
  pa   : Nat
  leaf : Nat
deriving DecidableEq, Repr

/-- A span cut at the 32-byte sectors. -/
def pieces (va n : Nat) : List Span :=
  (List.range ((va % 32 + n + 31) / 32)).map fun i =>
    let lo := Nat.max va ((va / 32 + i) * 32)
    (lo, Nat.min (va + n) ((va / 32 + i + 1) * 32) - lo)

/-- The pieces of a list of spans. -/
def spanPieces (l : List Span) : List Span := l.flatMap fun x => pieces x.1 x.2

/-! ### Tolerance records (R298-R301) -/

/-- A usable tolerance record, with its number. -/
structure Tolerance where
  ix  : Nat
  fmt : Nat
  eps : FVal

/-- The record that a TOLERANT leaf names, if it is usable (R298). -/
def toleranceOf (s : State) (leaf : Nat) : Option Tolerance :=
  if bitN leaf 57 then
    let ix := fieldN leaf 53 4
    let w := devReg s (0x2000 + 8 * ix)
    let eps := fp32.decode (fieldN w 0 32)
    if fieldN w 36 28 == 0 && fieldN w 32 4 < 4 && finite32 (fieldN w 0 32) && !(bitN w 31) && !eps.isZero then
      some ⟨ix, fieldN w 32 4, eps⟩
    else none
  else none

/-- The home of a physical address: a vault's cluster, or a pool port. -/
def memoryHome (s : State) (pa : Nat) : Nat :=
  match placeOf s pa with
  | .vault c _ => c
  | .pool off => 4096 + (poolPort s off).getD 0
  | _ => 8192

/-- The elements of a 256-byte block in the record's format. -/
def blockElems (s : State) (t : Tolerance) (b : Nat) : List FVal :=
  let n := elemBytes t.fmt
  (List.range (256 / n)).map fun i => (dtFmt t.fmt).decode (loadPhys s (256 * b + n * i) n)

/-- The key of an element: the nearest integer to v / 2ε, ties to even (R299). DEDUCED, log 43. -/
def tolKey (eps v : FVal) : Option Int :=
  match eps, v with
  | .fin _ me ee _, .fin neg mv ev _ =>
    let e := min ev (ee + 1)
    let a := mv * 2 ^ (ev - e).toNat
    let b := me * 2 ^ (ee + 1 - e).toNat
    let q := a / b
    let r := a % b
    some (sgn neg (if b < 2 * r || (2 * r == b && q % 2 == 1) then q + 1 else q))
  | _, _ => none

/-- An element may stand for another (R299). -/
def tolClose (eps v c : FVal) : Bool :=
  match v, c with
  | .nan, _ => false
  | _, .nan => false
  | .inf a, .inf b => a == b
  | .inf _, _ => false
  | _, .inf _ => false
  | v, c => !(eps.lt ((v.add c.neg).1.abs))

/-- The candidates that a written block merges with: same record, same home, the same hash (the same keys, or a
collision, which is free) and the test of R299. DEDUCED, log 43. -/
def tolMatches (s : State) (t : Tolerance) (b : Nat) : List Nat :=
  let vs := blockElems s t b
  (s.tolBlocks.filter fun c =>
    c.2 == t.ix && c.1 != b && (poisoned s (256 * c.1) 256).isNone && memoryHome s (256 * c.1) == memoryHome s (256 * b) &&
    (let cs := blockElems s t c.1
     (vs.map (tolKey t.eps) == cs.map (tolKey t.eps) || Config.freeBit (Config.draw (Config.draw (Config.draw s.tick 1) b) c.1)) &&
     (vs.zip cs).all fun x => tolClose t.eps x.1 x.2)).map (·.1)

/-- A whole block that a transfer has written: it takes a candidate's content, or is a candidate from now on (R299).
Either way it is a stored block from now on, whose content others may share. Which of several candidates it takes is
free. DEDUCED, log 43. -/
def tolMerge (s : State) (t : Tolerance) (b : Nat) : State :=
  let s1 := { s with tolBlocks := s.tolBlocks ++ [(b, t.ix)] }
  match tolMatches s t b with
  | [] => s1
  | c :: cs =>
    let pick := (c :: cs).getD (freeNat s 1 b (cs.length + 1)) c
    { s1 with mem := memWrite s.mem (256 * b) 256 (loadPhys s (256 * pick) 256) }

/-- The bytes of TOLERANT blocks that a transfer has written, with a further part of it: by block, its leaf and one bit for
each byte. -/
def coverPart (cov : Table (Nat × Nat)) (x : Part) : Table (Nat × Nat) :=
  if bitN x.leaf 57 then
    let b := x.pa / 256
    let m := (tgetD cov b (0, 0)).2
    tset cov b (x.leaf, m ||| ((2 ^ x.n - 1) <<< (x.pa % 256)))
  else cov

/-- The blocks covered whole are merged, and what is left of the cover (R299). DEDUCED, log 43. -/
def mergeCovered (s : State) (cov : Table (Nat × Nat)) : State × Table (Nat × Nat) :=
  let whole (e : Nat × Nat × Nat) : Bool := e.2.2 == 2 ^ 256 - 1
  ((cov.filter whole).foldl (fun acc b => match toleranceOf acc b.2.1 with
      | some t => tolMerge acc t b.1
      | none => acc) s,
   cov.filter fun e => !(whole e))

/-! ### Moving bytes -/

/-- The lines of a transfer count for the page migrator (R302). -/
def countParts (s : State) (c asid : Nat) (ps : List Part) (wrote : Bool) : State :=
  (ps.foldl (fun (acc : State × Nat) x =>
    let counted := x.leaf != 0 && (match placeOf s x.pa with
      | .vault _ _ | .pool _ => true
      | _ => false)
    if counted && acc.2 != x.va / 64 + 1 then (countLine acc.1 c asid x.va wrote, x.va / 64 + 1) else acc) (s, 0)).1

/-- The bytes of parts, the first lowest. -/
def partsRead (s : State) (ps : List Part) : Nat :=
  ps.foldr (fun x acc => loadPhys s x.pa x.n + 2 ^ (8 * x.n) * acc) 0

/-- Write parts with their bytes, as an agent that is no strand, in a transfer that has covered some blocks in part, and after
them those that are a release of them (R368, R373): the merging of TOLERANT blocks now whole, then the count. A write to a
reserved word waits at its home (R177). The state and the cover. -/
def dmaCover (s : State) (who c asid : Nat) (cov : Table (Nat × Nat)) (ws rels : List (Part × Nat)) :
    State × Table (Nat × Nat) :=
  let put (rel : Bool) (acc : State) (w : Part × Nat) : State := agentPut acc who rel w.1.pa w.1.n w.2
  let s1 := rels.foldl (put true) (ws.foldl (put false) s)
  let ps := (ws ++ rels).map (·.1)
  let (s2, cov) := mergeCovered s1 (ps.foldl coverPart cov)
  (countParts s2 c asid ps true, cov)

/-- A transfer that writes all its parts at once, some of them as a release of the others. -/
def dmaWrite (s : State) (who c asid : Nat) (ws rels : List (Part × Nat)) : State := (dmaCover s who c asid [] ws rels).1

/-- An uncorrectable error in parts that are read. -/
def partsPoisoned (s : State) (ps : List Part) : Bool := ps.any fun x => (poisoned s x.pa x.n).isSome

/-- Parts write some bytes of an interval, but not all of it. -/
def partsSome (ps : List Part) (a n : Nat) : Bool :=
  let met := ps.filter fun x => a < x.pa + x.n && x.pa < a + n
  !met.isEmpty && (met.map fun x => Nat.min (a + n) (x.pa + x.n) - Nat.max a x.pa).sum < n

/-- An uncorrectable error in a granule, or a damaged block, that parts write without replacing it whole (R296, R403). -/
def partsUnhealed (s : State) (ps : List Part) : Bool :=
  s.poison.any (fun w => partsSome ps w 8) ||
    s.sectors.any fun b => (blockDecode b.2.1 b.2.2.toNat).isNone && partsSome ps (256 * b.1) 256

end Sys2Proof.Machine
end

