-- ==== Sys2Proof/Machine/EngineIo.lean ====
section
/-!
DEFINITION. What MX and VX commands share in reaching memory: the checks of R221 in their order, the translation of
every page before any computation, reading and writing (spec/06 R220-R222; spec/17 R399; spec/14 R371-R373).
-/

namespace Sys2Proof.Machine

/-- How a command ends before its effect: with a status, stopped by a missing translation (level, access, address), to
be tried again, or stalled on a PENDING entry's state byte. -/
inductive EngStop where
  | status (code : Nat)
  | missing (level access va : Nat)
  | hold
  | stall (pa : Nat)

abbrev Eng (α : Type) := Except EngStop α

/-- A check of R221. -/
def need (b : Bool) (code : Nat) : Eng Unit := if b then .ok () else .error (.status code)

/-- The number of an engine access in a fault entry (R397). -/
def engAccess (acc : Access) : Nat := if acc = .write then 3 else 2

/-- The physical address and leaf of a virtual one for a command of a core (R221, R443): near windows need no
translation, and what is no place for a tile gives ADDRESS. DESIGN CHOICE, log 50. -/
def engXlat (s : State) (p : Nat) (cmd : EngineCmd) (acc : Access) (va n : Nat) : Eng (State × Nat × Nat) :=
  if isNear va then
    match nearKept s cmd.peers p va n with
    | .raw q off => .ok (s, lsBase q + off, 0)
    | .vault c off => .ok (s, vaultBase c + off, 0)
    | _ => .error (.status 6)
  else
    match translate s cmd.lid (.core p) (asidOf s cmd.lid) cmd.sv acc va with
    | .ok (s', pa, leaf) =>
      match placeOf s' pa with
      | .device _ => .error (.status 6)
      | _ => .ok (s', pa, leaf)
    | .error (.missing l) => .error (.missing l (engAccess acc) va)
    | .error (.mcheck _) => .error (.status 12)
    | .error (.held _) => .error .hold
    | .error .device => .error (.status 6)
    | .error _ => .error (.status 11)

/-- The parts of a list of pieces, each translated. -/
def engParts (p : Nat) (cmd : EngineCmd) (acc : Access) : State → List Span → Eng (State × List Part)
  | s, [] => .ok (s, [])
  | s, x :: r => do
    let (s1, pa, leaf) ← engXlat s p cmd acc x.1 x.2
    let (s2, ps) ← engParts p cmd acc s1 r
    .ok (s2, ⟨x.1, x.2, pa, leaf⟩ :: ps)

/-- Every page of spans to be read, translated. -/
def pinReads (s : State) (p : Nat) (cmd : EngineCmd) (l : List Span) : Eng State :=
  (engParts p cmd .read s (spanPieces l)).map (·.1)

/-- Every page of spans to be written, translated; a page under migration makes the command wait (R304). -/
def pinWrites (s : State) (p : Nat) (cmd : EngineCmd) (l : List Span) : Eng State := do
  let (s1, ps) ← engParts p cmd .write s (spanPieces l)
  if ps.any fun x => pageHeld s1 (asidOf s1 cmd.lid) x.va && x.leaf != 0 then .error .hold
  else .ok s1

/-- The parts of spans already translated. -/
def partsOf (s : State) (p : Nat) (cmd : EngineCmd) (acc : Access) (l : List Span) : List Part :=
  match engParts p cmd acc s (spanPieces l) with
  | .ok (_, ps) => ps
  | .error _ => []

/-- The writes of a word of memory, newest first, that an engine may read around: those after a moment, but not what the
engine's own earlier commands wrote, whose writes are performed (R183, R220). -/
def wordWrites (s : State) (eng born w : Nat) : List (Nat × Nat × BitVec 32 × Option Nat) :=
  (s.hist.filter fun h => h.2.1 == w).takeWhile fun h => born < h.1 && h.2.2.2 != some eng

/-- The 4-byte words that a word of memory has held since a moment, the present one first, each with the moment at which it
came to be, or the first moment itself. -/
def wordSince (s : State) (eng born w : Nat) : List (Nat × Nat) :=
  let hs := wordWrites s eng born w
  (loadPhys s (4 * w) 4 :: hs.map (·.2.2.1.toNat)).zip (hs.map (·.1) ++ [born])

/-- A 4-byte word as a command reads it, with the moment at which it came to be: as it stood at some moment since its ENQ
(R183, R225). DEDUCED, log 35. -/
def wordSeen (s : State) (eng born w : Nat) : Nat × Nat :=
  let xs := wordSince s eng born w
  xs.getD (freeNat s 26 w xs.length) (0, born)

/-- The words of a part as a command reads them. -/
def wordsSeen (s : State) (eng born pa n : Nat) : List (Nat × Nat) :=
  (List.range ((pa + n + 3) / 4 - pa / 4)).map fun i => wordSeen s eng born (pa / 4 + i)

/-- Bytes of a part as a command reads them. -/
def partSeen (s : State) (eng born pa n : Nat) : Nat :=
  if s.hist.isEmpty then loadPhys s pa n
  else fieldN (packList 32 ((wordsSeen s eng born pa n).map (·.1))) (8 * (pa % 4)) (8 * n)

/-- The bytes of a span already translated, each of its words as it stood at some moment since the ENQ (R183). -/
def engRead (s : State) (p : Nat) (cmd : EngineCmd) (x : Span) : Nat :=
  (partsOf s p cmd .read [x]).foldr
    (fun y acc => partSeen s (engineAgent p cmd.eng) cmd.born y.pa y.n + 2 ^ (8 * y.n) * acc) 0

/-- The bytes of a span already translated as they stand now. -/
def engReadNow (s : State) (p : Nat) (cmd : EngineCmd) (x : Span) : Nat := partsRead s (partsOf s p cmd .read [x])

/-- The moment at which the last of the words of a span, as the command reads them, came to be. -/
def engMoment (s : State) (p : Nat) (cmd : EngineCmd) (x : Span) : Nat :=
  ((partsOf s p cmd .read [x]).flatMap fun y => (wordsSeen s (engineAgent p cmd.eng) cmd.born y.pa y.n).map (·.2)).foldl
    Nat.max cmd.born

/-- The spans that a command reads: no uncorrectable error lies in them (status MCHECK), and their lines count for the page
migrator (R221, R302). DEDUCED, log 36. -/
def cleanReads (s : State) (p : Nat) (cmd : EngineCmd) (l : List Span) : Eng State := do
  let ps := partsOf s p cmd .read l
  need (!(partsPoisoned s ps)) 12
  .ok (countParts s (clusterOf p) (asidOf s cmd.lid) ps false)

/-- No uncorrectable error in granules that spans write in part. -/
def cleanWrites (s : State) (p : Nat) (cmd : EngineCmd) (l : List Span) : Eng Unit :=
  need (!(partsUnhealed s (partsOf s p cmd .write l))) 12

/-- A write cut into its pieces, each with its bytes. -/
def writePieces (w : Write) : List (Span × Nat) :=
  (pieces w.1 w.2.1).map fun x => (x, w.2.2 / 2 ^ (8 * (x.1 - w.1)) % 2 ^ (8 * x.2))

/-- The writes of a command, all of whose pages are translated, as its engine's (R177, R220). Those to the spans `last`, a Haar
header or the states of key/value entries, are a release of the others (R368, R373). DEDUCED, log 35. -/
def engWrite (s : State) (p : Nat) (cmd : EngineCmd) (last : List Span) (ws : List Write) : State :=
  let isLast (w : Write) : Bool := last.contains (w.1, w.2.1)
  let rows := (ws.filter fun w => !isLast w).flatMap writePieces
  let xs := rows ++ (ws.filter isLast).flatMap writePieces
  match engParts p cmd .write s (xs.map (·.1)) with
  | .ok (s1, ps) =>
    let all := ps.zip (xs.map (·.2))
    dmaWrite s1 (engineAgent p cmd.eng) (clusterOf p) (asidOf s cmd.lid) (all.take rows.length) (all.drop rows.length)
  | .error _ => s

/-! ### ADDRESS, STRIDE, KV (R221) -/

/-- A piece may be part of a tile: a local store, the vault window, or a page that is not a device's; the peers are those
captured at the ENQ (R47). -/
def tilePiece (s : State) (p : Nat) (cmd : EngineCmd) (x : Span) : Bool :=
  if isNear x.1 then
    match nearKept s cmd.peers p x.1 x.2 with
    | .raw _ _ => true
    | .vault _ _ => true
    | _ => false
  else
    match rawPlace s p cmd.lid x.1 with
    | some (.device _) => false
    | _ => true

/-- A tile's place is admitted: its rows and header (R221 ADDRESS); a Haar tile whose header would lie below address 0, of
which R218 does not speak, is not. DEDUCED, log 36. DESIGN CHOICE, log 50. -/
def tileAddrOk (s : State) (p : Nat) (cmd : EngineCmd) (d : Desc) (rows : List Span) : Bool :=
  d.addr % 32 == 0 && (d.dom == 0 || 32 ≤ d.addr) && (rows.all fun x => x.1 + x.2 ≤ 2 ^ 40) &&
  (spanPieces (d.header ++ rows)).all (tilePiece s p cmd)

/-- A destination's STRIDE keeps its rows apart (R215). -/
def strideOk (d : Desc) (len : Nat) : Bool := len ≤ 32 * d.stride

/-- The entry area of a region (R372). -/
def KvDesc.areaBytes (d : KvDesc) : Nat := d.layers * d.tokens * 2 * d.entryBytes

/-- The descriptor at the KVDESC a command captured: none when it is 0, or cannot be read, which the later checks find
(R222). -/
def engKv (s : State) (p : Nat) (cmd : EngineCmd) : Eng (Option KvDesc) :=
  let a := cmd.kvdesc.toNat
  if a = 0 then .ok none
  else
    match engParts p cmd .read s (pieces a 64) with
    | .error (.missing l c va) => .error (.missing l c va)
    | .error .hold => .error .hold
    | .error _ => .ok none
    | .ok (s1, ps) =>
      if partsPoisoned s1 ps then .ok none
      else
        let d := kvOfBits (engRead s1 p cmd (a, 64))
        if d.ok && a % 64 == 0 then .ok (some d) else .error (.status 10)

/-- Spans that a command writes meet the state array of the region its KVDESC names, whichever way they reach it (R373). -/
def engMeetsState (s : State) (p : Nat) (cmd : EngineCmd) (d : KvDesc) (dests : List Span) : Bool :=
  let place (x : Span) : Option (Nat × Nat) :=
    if isNear x.1 then
      match nearKept s cmd.peers p x.1 x.2 with
      | .raw q off => some (lsBase q + off, x.2)
      | .vault c off => some (vaultBase c + off, x.2)
      | _ => none
    else (memoryAt s p cmd.lid x.1).map fun pa => (pa, x.2)
  meetsState (memoryAt s p cmd.lid) d ((spanPieces dests).filterMap place)

/-- The KV check of a command other than VTKV: its operands, headers included, stay off the entry area, its destination off
the state array (R221, R373). DEDUCED, log 36. -/
def kvCheck (s : State) (p : Nat) (cmd : EngineCmd) (srcs dests : List Span) : Eng Unit := do
  match ← engKv s p cmd with
  | none => .ok ()
  | some d =>
    need (!(srcs.any fun x => overlaps x.1 x.2 d.base d.areaBytes) &&
          !(engMeetsState s p cmd d dests)) 10

/-- The span of the captured KVDESC. -/
def kvSpan (cmd : EngineCmd) : List Span := if cmd.kvdesc = 0 then [] else [(cmd.kvdesc.toNat, 64)]

/-! ### The parameter record (R216, R217) -/

/-- Whether the record at an address can be read now, and its bytes; an address fault or error is found by the later
checks. -/
def recordBytes (s : State) (p : Nat) (cmd : EngineCmd) (a : Nat) : Eng (Option Nat) :=
  if a % 32 != 0 then .ok none
  else
    match engParts p cmd .read s [(a, 32)] with
    | .error (.missing l c va) => .error (.missing l c va)
    | .error .hold => .error .hold
    | .error _ => .ok none
    | .ok (s1, ps) => if partsPoisoned s1 ps then .ok none else .ok (some (engRead s1 p cmd (a, 32)))

/-- The record of a command, or the defaults where it has none; PARAM where it breaks a rule. -/
def recordOf (s : State) (p : Nat) (cmd : EngineCmd) (a : Option Nat) (dt : Nat) (u : RecUse) : Eng Rec :=
  match a with
  | none => .ok Rec.default
  | some a => do
    match ← recordBytes s p cmd a with
    | none => .ok Rec.default
    | some w => if recRules w dt u then .ok (recOf w) else .error (.status 5)

/-- A record's place is admitted: where a tile may lie. DESIGN CHOICE, log 50. -/
def recordAddrOk (s : State) (p : Nat) (cmd : EngineCmd) (a : Option Nat) : Bool :=
  match a with
  | none => true
  | some a => a % 32 == 0 && tilePiece s p cmd (a, 32)

/-- The span of a record. -/
def recordSpan (a : Option Nat) : List Span := (a.map fun x => (x, 32)).toList

/-! ### Descriptors in their places -/

/-- FLG[1:0] and FUT agree (R223). DESIGN CHOICE, log 37. -/
def factOk (cmd : EngineCmd) (publishes : Bool) : Bool :=
  cmd.fact != 3 && (cmd.fut != 0 || cmd.fact == 0) && (publishes || cmd.fact != 2)

/-- The bytes of a tile's rows that are read: a row or column taken as zero is not (R219). In an E2M1 row the 16 bytes of
codes, two columns a byte, precede the side record, which every live column needs. -/
def liveSpans (d : Desc) (mask shade : Nat) (rows : List Span) : List Span :=
  if d.dom = 2 then
    let live := (List.range 32).filter (liveLine d mask shade)
    if d.dtype != 4 then
      rows.flatMap fun r => live.map fun j => (r.1 + j * elemBytes d.dtype, elemBytes d.dtype)
    else
      let bytes := (live.map (· / 2)).eraseDups
      rows.flatMap fun r => (bytes.map fun b => (r.1 + b, 1)) ++ (if live.isEmpty then [] else [(r.1 + 16, 2)])
  else if d.dom = 1 then (rows.zipIdx.filter fun r => liveLine d mask shade r.2).map (·.1)
  else rows

/-- The header of an operand as its shade, mask and TAUIX; a plain operand has 15, all ones and 0. HEADER where it
breaks a rule (R218). -/
def headerOf (s : State) (p : Nat) (cmd : EngineCmd) (d : Desc) : Eng (Nat × Nat × Nat) :=
  if d.dom = 0 then .ok (15, 2 ^ 32 - 1, 0)
  else
    let h := engRead s p cmd (d.addr - 32, 32)
    if headerOk h d then .ok (fieldN h 40 4, fieldN h 0 32, fieldN h 44 2) else .error (.status 8)

/-- The parts of an operand that are read: its header first, then, by what that says, its rows. A header that breaks
R218 names no row. -/
def operandSpans (s : State) (p : Nat) (cmd : EngineCmd) (d : Desc) (rows : List Span) : List Span :=
  match headerOf s p cmd d with
  | .ok (shade, mask, _) => d.header ++ liveSpans d mask shade rows
  | .error _ => d.header

/-- The command as it reads the rows of an operand: the header has been read with acquire first, so that no word of a row is
older than the header's (R368). -/
def afterHeader (s : State) (p : Nat) (cmd : EngineCmd) (d : Desc) : EngineCmd :=
  if d.dom = 0 then cmd else { cmd with born := engMoment s p cmd (d.addr - 32, 32) }

/-- An operand read whole, `cols` elements a row. -/
def readOperand (s : State) (p : Nat) (cmd : EngineCmd) (d : Desc) (cols : Nat) (rows : List Span) : Eng Operand := do
  let (shade, mask, tauix) ← headerOf s p cmd d
  .ok ⟨tileVals d mask shade cols (rows.map (engRead s p (afterHeader s p cmd d))), shade, mask, tauix⟩

end Sys2Proof.Machine
end

