-- ==== Sys2Proof/Machine/Arith.lean ====
section
/-!
DEFINITION. Integer arithmetic, opcodes 0x00-0x1F, with moves, bit fields, counts and compares (spec/03 R87-R91,
R109-R112).
-/

namespace Sys2Proof.Machine

/-- The class an instruction of code D has (R54). -/
def classD (s : State) (d : NameIx) : Cls := clsOf (curStrand s) d

/-- Format A integer instructions: an exact value of two sources, fitted by FN's mode (R61, R87). -/
def intBinary (s : State) (g : Guard) (d a b : NameIx) (f : BitVec 3)
    (v : NameInfo → Src → Src → Nat → Int) : Out :=
  computed s g (classD s d) (f.toNat < 4) d [a, b] (fun di is => allInt (di :: is)) fun di xs l =>
    fitInt di (modeOf f.toNat di) (v di (nth xs 0) (nth xs 1) l)

/-- Format I integer instructions: an exact value of a source and the immediate, fitted by the declared mode
(R88). -/
def intImm (s : State) (g : Guard) (d a : NameIx) (immOk : Bool) (v : NameInfo → Src → Nat → Int) : Out :=
  computed s g (classD s d) immOk d [a] (fun di is => allInt (di :: is)) fun di xs l =>
    fitDecl di (v di (nth xs 0) l)

/-- The count a shift reads from a name: mod 64 (R87). -/
def shiftCount (b : Int) : Nat := (b % 64).toNat

def execAdd (g : Guard) (d a b : NameIx) (f : BitVec 3) (s : State) : Out :=
  intBinary s g d a b f fun _ x y l => x.int l + y.int l

def execSub (g : Guard) (d a b : NameIx) (f : BitVec 3) (s : State) : Out :=
  intBinary s g d a b f fun _ x y l => x.int l - y.int l

def execMul (g : Guard) (d a b : NameIx) (f : BitVec 3) (s : State) : Out :=
  intBinary s g d a b f fun _ x y l => x.int l * y.int l

/-- MULH: the floor of the product over 2^width(ND). -/
def execMulh (g : Guard) (d a b : NameIx) (f : BitVec 3) (s : State) : Out :=
  intBinary s g d a b f fun di x y l => x.int l * y.int l / (2 : Int) ^ di.width

/-- DIV and REM: a zero divisor raises DIVZERO in preference to WIDTH (R84, R87). -/
def divBinary (s : State) (g : Guard) (d a b : NameIx) (f : BitVec 3) (v : Int → Int → Int) : Out :=
  computed s g (classD s d) (f.toNat < 4) d [a, b] (fun di is => allInt (di :: is)) fun di xs l =>
    let x := (nth xs 0).int l
    let y := (nth xs 1).int l
    if y = 0 then divZero x else fitInt di (modeOf f.toNat di) (v x y)

def execDiv (g : Guard) (d a b : NameIx) (f : BitVec 3) (s : State) : Out :=
  divBinary s g d a b f truncDiv

def execRem (g : Guard) (d a b : NameIx) (f : BitVec 3) (s : State) : Out :=
  divBinary s g d a b f fun x y => x - y * truncDiv x y

def execAnd (g : Guard) (d a b : NameIx) (f : BitVec 3) (s : State) : Out :=
  intBinary s g d a b f fun _ x y l => intBits (· &&& ·) (x.int l) (y.int l)

def execOr (g : Guard) (d a b : NameIx) (f : BitVec 3) (s : State) : Out :=
  intBinary s g d a b f fun _ x y l => intBits (· ||| ·) (x.int l) (y.int l)

def execXor (g : Guard) (d a b : NameIx) (f : BitVec 3) (s : State) : Out :=
  intBinary s g d a b f fun _ x y l => intBits (· ^^^ ·) (x.int l) (y.int l)

/-- ANDN: NOT b is -1 - b in two's complement. -/
def execAndn (g : Guard) (d a b : NameIx) (f : BitVec 3) (s : State) : Out :=
  intBinary s g d a b f fun _ x y l => intBits (· &&& ·) (x.int l) (-1 - y.int l)

def execShl (g : Guard) (d a b : NameIx) (f : BitVec 3) (s : State) : Out :=
  intBinary s g d a b f fun _ x y l => x.int l * (2 : Int) ^ shiftCount (y.int l)

/-- SHR shifts the bit pattern of NA. -/
def execShr (g : Guard) (d a b : NameIx) (f : BitVec 3) (s : State) : Out :=
  intBinary s g d a b f fun _ x y l => (x.pat l : Int) / (2 : Int) ^ shiftCount (y.int l)

def execSha (g : Guard) (d a b : NameIx) (f : BitVec 3) (s : State) : Out :=
  intBinary s g d a b f fun _ x y l => x.int l / (2 : Int) ^ shiftCount (y.int l)

/-- ROT writes the rotated pattern itself: no flag, no WIDTH (R87). -/
def execRot (g : Guard) (d a b : NameIx) (f : BitVec 3) (s : State) : Out :=
  computed s g (classD s d) (f.toNat < 4) d [a, b] (fun di is => allInt (di :: is)) fun di xs l =>
    .ok (rotBits di.width (zpat ((nth xs 0).int l) di.width) (shiftCount ((nth xs 1).int l)), 0)

def execMin (g : Guard) (d a b : NameIx) (f : BitVec 3) (s : State) : Out :=
  intBinary s g d a b f fun _ x y l => if x.int l ≤ y.int l then x.int l else y.int l

def execMax (g : Guard) (d a b : NameIx) (f : BitVec 3) (s : State) : Out :=
  intBinary s g d a b f fun _ x y l => if x.int l ≤ y.int l then y.int l else x.int l

/-! ### Immediate forms -/

def execAddi (g : Guard) (d a : NameIx) (i : Imm 9) (s : State) : Out :=
  intImm s g d a true fun _ x l => x.int l + immSigned i

def execMuli (g : Guard) (d a : NameIx) (i : Imm 9) (s : State) : Out :=
  intImm s g d a true fun _ x l => x.int l * immSigned i

def execAndi (g : Guard) (d a : NameIx) (i : Imm 9) (s : State) : Out :=
  intImm s g d a true fun _ x l => intBits (· &&& ·) (x.int l) (immUnsigned i)

def execOri (g : Guard) (d a : NameIx) (i : Imm 9) (s : State) : Out :=
  intImm s g d a true fun _ x l => intBits (· ||| ·) (x.int l) (immUnsigned i)

def execXori (g : Guard) (d a : NameIx) (i : Imm 9) (s : State) : Out :=
  intImm s g d a true fun _ x l => intBits (· ^^^ ·) (x.int l) (immUnsigned i)

/-- An immediate count above 63 traps ILLEGAL (R88). -/
def countOk (i : Imm 9) : Bool := immUnsigned i ≤ 63

def execShli (g : Guard) (d a : NameIx) (i : Imm 9) (s : State) : Out :=
  intImm s g d a (countOk i) fun _ x l => x.int l * (2 : Int) ^ (immUnsigned i % 64)

def execShri (g : Guard) (d a : NameIx) (i : Imm 9) (s : State) : Out :=
  intImm s g d a (countOk i) fun _ x l => (x.pat l : Int) / (2 : Int) ^ (immUnsigned i % 64)

def execShai (g : Guard) (d a : NameIx) (i : Imm 9) (s : State) : Out :=
  intImm s g d a (countOk i) fun _ x l => x.int l / (2 : Int) ^ (immUnsigned i % 64)

def execRoti (g : Guard) (d a : NameIx) (i : Imm 9) (s : State) : Out :=
  computed s g (classD s d) (countOk i) d [a] (fun di is => allInt (di :: is)) fun di xs l =>
    .ok (rotBits di.width (zpat ((nth xs 0).int l) di.width) (immUnsigned i % 64), 0)

def execMini (g : Guard) (d a : NameIx) (i : Imm 9) (s : State) : Out :=
  intImm s g d a true fun _ x l => if x.int l ≤ immSigned i then x.int l else immSigned i

def execMaxi (g : Guard) (d a : NameIx) (i : Imm 9) (s : State) : Out :=
  intImm s g d a true fun _ x l => if x.int l ≤ immSigned i then immSigned i else x.int l

/-- LI (R89). -/
def execLi (g : Guard) (d : NameIx) (i : Imm 15) (s : State) : Out :=
  computed s g (classD s d) true d [] (fun di _ => di.isInt) fun di _ _ => fitDecl di (immSigned i)

/-- A destination that is also read is of kind 0, 1 or 6, or index 0 (R86). -/
def readDst (i : NameInfo) : Bool := i.kind == 0 || i.kind == 1 || i.kind == 6 || i.kind == 8

/-- What LIH fits: the immediate over the low 40 bits of ND's pattern, read by ND's signedness (R89). -/
def lihValue (i : NameInfo) (imm pat : Nat) : Int :=
  let x := imm * 2 ^ 40 + pat % 2 ^ 40
  if i.ty = 1 then toSigned 64 x else (x : Int)

/-- LIH; an immediate above 24 bits is ILLEGAL (R62, R89). -/
def execLih (g : Guard) (d : NameIx) (i : Imm 15) (s : State) : Out :=
  computed s g (classD s d) (immUnsigned i < 2 ^ 24) d [d] (fun di _ => di.isInt && readDst di) fun di xs l =>
    fitDecl di (lihValue di (immUnsigned i) ((nth xs 0).pat l))

/-- All integer, or all floating point; index 0 fits both (R85). -/
def sameFamily (is : List NameInfo) : Bool := is.all (·.isInt) || is.all (·.isFp)

/-- A value moved into a name: fitted by R83, or rounded to nearest even and fitted by R95 (R85, R90, R112). -/
def moveFit (di : NameInfo) (mode : Nat) (x : Src) (l : Nat) : LaneRes :=
  if di.isInt && x.info.isInt then fitInt di mode (x.int l) else fitFp di mode 0 (x.fval l) 0

/-- The predicate of the guard file, uniform or of a lane. -/
def predOf (t : Strand) (cls : Cls) (l i : Nat) : Bool :=
  match cls with
  | .uniform => predP t i
  | .lane => predQ t l i

/-- SEL (R90): FN names a predicate of the guard file; 0 always selects NA. -/
def execSel (g : Guard) (d a b : NameIx) (f : BitVec 3) (s : State) : Out :=
  let cls := classD s d
  let t := curStrand s
  computed s g cls true d [a, b] (fun di is => sameFamily (di :: is)) fun di xs l =>
    let pick := f = 0 || predOf t cls l f.toNat
    moveFit di di.mode (if pick then nth xs 0 else nth xs 1) l

def execAbsd (g : Guard) (d a b : NameIx) (f : BitVec 3) (s : State) : Out :=
  intBinary s g d a b f fun _ x y l => |x.int l - y.int l|

/-- MAC reads ND first and fits its sum once (R91). -/
def execMac (g : Guard) (d a b : NameIx) (f : BitVec 3) (s : State) : Out :=
  computed s g (classD s d) (f.toNat < 4) d [d, a, b] (fun di is => allInt (di :: is) && readDst di) fun di xs l =>
    fitInt di (modeOf f.toNat di) ((nth xs 0).int l + (nth xs 1).int l * (nth xs 2).int l)

/-- MOV (R112). -/
def execMov (g : Guard) (d a : NameIx) (f : BitVec 3) (s : State) : Out :=
  computed s g (classD s d) (f.toNat < 4) d [a] (fun di is => sameFamily (di :: is)) fun di xs l =>
    moveFit di (modeOf f.toNat di) (nth xs 0) l

/-! ### Bit fields, counts and compares -/

/-- EXT: the field of NA's infinite two's-complement form, as ND's pattern (R109). -/
def execExt (g : Guard) (d a : NameIx) (p : BitVec 6) (s : State) : Out :=
  computed s g (classD s d) true d [a] (fun di is => allInt (di :: is)) fun di xs l =>
    .ok (zpat ((nth xs 0).int l / (2 : Int) ^ p.toNat) di.width, 0)

/-- INS: NA's pattern placed at a bit of ND; a 1 that falls beyond ND sets f0 (R109). Index 0 takes no flag
(R27). -/
def insBits (di : NameInfo) (old : Nat) (a : NameInfo) (pat pos : Nat) : LaneRes :=
  if di.kind = 8 then .ok (0, 0)
  else
    let room := min a.width (di.width - pos)
    .ok (setFieldN old pos room pat % 2 ^ di.width, if pat / 2 ^ room = 0 then 0 else flagBit 0)

def execIns (g : Guard) (d a : NameIx) (p : BitVec 6) (s : State) : Out :=
  computed s g (classD s d) true d [d, a] (fun di is => allInt (di :: is) && readDst di) fun di xs l =>
    insBits di ((nth xs 0).pat l) (nth xs 1).info ((nth xs 1).pat l) p.toNat

/-- BITC (R110). -/
def execBitc (g : Guard) (d a : NameIx) (f : BitVec 3) (s : State) : Out :=
  computed s g (classD s d) (f.toNat < 4) d [a] (fun di is => allInt (di :: is)) fun di xs l =>
    fitDecl di (bitCount f.toNat (nth xs 0).info.width ((nth xs 0).pat l) : Nat)

/-- CMP (R111). -/
def execCmp (g : Guard) (d : BitVec 3) (a b : NameIx) (f : BitVec 3) (s : State) : Out :=
  compared s g d.toNat [a, b] allInt fun xs l =>
    intCond f.toNat ((nth xs 0).int l) ((nth xs 1).int l) ((nth xs 0).pat l) ((nth xs 1).pat l)

/-- CMPI: for ltu and geu the immediate is zero-extended (R111). -/
def execCmpi (g : Guard) (c d : BitVec 3) (a : NameIx) (i : Imm 9) (s : State) : Out :=
  compared s g d.toNat [a] allInt fun xs l =>
    intCond c.toNat ((nth xs 0).int l) (immSigned i) ((nth xs 0).pat l) (immUnsigned i)

end Sys2Proof.Machine
end

