-- ==== Sys2Proof/Machine/Mem.lean ====
section
/-!
DEFINITION. Plain, indexed, gather and scatter loads and stores, ordered accesses and PREF (spec/05 R160-R169,
R176).
-/

namespace Sys2Proof.Machine

/-- An effective address (R160). -/
def eaOf (base : Nat) (off : Int) : Nat := (((base % 2 ^ 48 : Nat) + off) % (2 : Int) ^ 48).toNat

/-- A floating-point name is loaded and stored at its own size only (R164, R165). -/
def sizeOk (i : NameInfo) (n : Nat) : Bool := i.ty < 2 || 8 * n == (fmtOf i.ty).bits

/-- What a load writes (R164). -/
def loadFit (i : NameInfo) (n pat : Nat) : LaneRes :=
  if 2 ≤ i.ty then .ok (pat, 0)
  else fitDecl i (if i.ty = 1 then toSigned (8 * n) pat else (pat : Int))

/-- The bytes a store writes: fitted to a temporary of the access size, by ND's own mode and signedness (R165). -/
def storeFit (n : Nat) (x : Src) (l : Nat) : LaneRes :=
  if 2 ≤ x.info.ty then .ok (x.pat l, 0) else fitAs x.info.ty (8 * n) x.info.mode (x.int l)

/-- The class rules of an access's names (R48, R67): a lane-class one may broadcast uniform sources. -/
def accessKinds (cls : Cls) (ok : Bool) (di : NameInfo) (is : List NameInfo) : Bool :=
  ok && is.all (·.srcKind) && allInt is &&
  (match cls with
   | .uniform => !di.isLane && is.all (fun i => !i.isLane)
   | .lane => di.isLane || di.kind == 8)

/-- Nothing to do before a relaxed access. -/
def relaxed (s : State) : Res State := .ok s

/-- The frame of a load of `n` bytes: the sources, the address of each lane, the two passes, the reads and the
fit (R164, R167); `acq` marks an acquire, whose completion is progress (R352), `pre` is what comes before the reads. -/
def loadOp (s : State) (g : Guard) (cls : Cls) (static : Bool) (grp : Grp) (n : Nat) (d : NameIx) (srcs : List NameIx)
    (kinds : List NameInfo → Bool) (addr : List Src → Nat → Nat) (acq : Bool) (pre : State → Res State) : Out :=
  let t := curStrand s
  match nameInfo t.map d, infos t srcs with
  | some di, some is =>
    gated s cls g (static && accessKinds cls (di.dstKind && sizeOk di n && kinds is) di is) false fun lanes => do
      let (s1, xs) ← readSrcs s is []
      unlocked s [di]
      let eas := lanes.map fun l => (l, addr xs l)
      let (s2, ts) ← checkAll s s1 grp [.read] n 0 eas
      readable s2 ts n
      let s2 ← pre s2
      let (s3, vs) ← readTouches n s2 ts
      let (vals, fl) ← collect lanes fun l => loadFit di n (laneVal vs l)
      let s4 ← writeDst s3 di lanes vals
      endAccess s (setCur (if acq then progressCur s4 else s4) fun t => setFlags t fl) (anyFar eas)
  | _, _ => gated s cls g false false fun _ => illegal s

/-- The frame of a store of `n` bytes; `pre` is what a release does before it, `write` performs one lane's access
(R165, R167). A store that pushes a launch header is a release (R427). -/
def storeOp (s : State) (g : Guard) (cls : Cls) (static : Bool) (grp : Grp) (n : Nat) (d : NameIx) (srcs : List NameIx)
    (kinds : List NameInfo → Bool) (addr : List Src → Nat → Nat) (pre : State → Res State)
    (write : State → Touch → Nat → Res State) : Out :=
  let t := curStrand s
  match nameInfo t.map d, infos t srcs with
  | some di, some is =>
    gated s cls g (static && accessKinds cls (di.srcKind && sizeOk di n && kinds is) di is) false fun lanes => do
      let (s1, xs) ← readSrcs s (di :: is) []
      let eas := lanes.map fun l => (l, addr (xs.drop 1) l)
      let (s2, ts) ← checkAll s s1 grp [.write] n 1 eas
      stateGuard s2 n ts
      overwritable s2 ts n
      let (vals, fl) ← collect lanes fun l => storeFit n (nth xs 0) l
      let s3 ← if ts.any isPush then release s2 else pre s2
      let s4 ← writeTouches write vals s3 ts
      endAccess s (setCur s4 fun t => setFlags t fl) (anyFar eas)
  | _, _ => gated s cls g false false fun _ => illegal s

/-- The address of the I-format forms: NA plus the scaled immediate (R160). -/
def immAddr (n : Nat) (i : Imm 9) (xs : List Src) (l : Nat) : Nat := eaOf ((nth xs 0).pat l) (immSigned i * n)

/-- The address of the indexed forms: NA plus NB times the size (R160). -/
def indexAddr (n : Nat) (xs : List Src) (l : Nat) : Nat := eaOf ((nth xs 0).pat l) ((nth xs 1).int l * n)

/-- The address of the forms without an offset. -/
def plainAddr (xs : List Src) (l : Nat) : Nat := eaOf ((nth xs 0).pat l) 0

/-- No further rule on the sources. -/
def anyKinds (_ : List NameInfo) : Bool := true

/-- A plain I-format load of `n` bytes. -/
def loadImm (s : State) (g : Guard) (d a : NameIx) (i : Imm 9) (n : Nat) : Out :=
  loadOp s g (classD s d) true .plain n d [a] anyKinds (immAddr n i) false relaxed

def execLdb (g : Guard) (d a : NameIx) (i : Imm 9) (s : State) : Out := loadImm s g d a i 1
def execLdh (g : Guard) (d a : NameIx) (i : Imm 9) (s : State) : Out := loadImm s g d a i 2
def execLdw (g : Guard) (d a : NameIx) (i : Imm 9) (s : State) : Out := loadImm s g d a i 4
def execLdd (g : Guard) (d a : NameIx) (i : Imm 9) (s : State) : Out := loadImm s g d a i 8

/-- A plain I-format store of `n` bytes. -/
def storeImm (s : State) (g : Guard) (d a : NameIx) (i : Imm 9) (n : Nat) : Out :=
  storeOp s g (classD s d) true .plain n d [a] anyKinds (immAddr n i) relaxed (plainWrite n)

def execStb (g : Guard) (d a : NameIx) (i : Imm 9) (s : State) : Out := storeImm s g d a i 1
def execSth (g : Guard) (d a : NameIx) (i : Imm 9) (s : State) : Out := storeImm s g d a i 2
def execStw (g : Guard) (d a : NameIx) (i : Imm 9) (s : State) : Out := storeImm s g d a i 4
def execStd (g : Guard) (d a : NameIx) (i : Imm 9) (s : State) : Out := storeImm s g d a i 8

/-- The size of a size code (R64). -/
def sizeOf (z : BitVec 2) : Nat := 2 ^ z.toNat

/-- LDX (R168). -/
def execLdx (g : Guard) (d a b : NameIx) (z : BitVec 2) (s : State) : Out :=
  loadOp s g (classD s d) true .plain (sizeOf z) d [a, b] anyKinds (indexAddr (sizeOf z)) false relaxed

/-- STX (R168). -/
def execStx (g : Guard) (d a b : NameIx) (z : BitVec 2) (s : State) : Out :=
  storeOp s g (classD s d) true .plain (sizeOf z) d [a, b] anyKinds (indexAddr (sizeOf z)) relaxed
    (plainWrite (sizeOf z))

/-- The base of LDG and STS is a uniform name (R168). -/
def uniformBase (is : List NameInfo) : Bool :=
  match is with
  | a :: _ => !a.isLane
  | [] => false

/-- LDG: lane-class, a uniform base with an index for each lane (R168). -/
def execLdg (g : Guard) (d a b : NameIx) (z : BitVec 2) (s : State) : Out :=
  loadOp s g .lane true .plain (sizeOf z) d [a, b] uniformBase (indexAddr (sizeOf z)) false relaxed

/-- STS (R168). -/
def execSts (g : Guard) (d a b : NameIx) (z : BitVec 2) (s : State) : Out :=
  storeOp s g .lane true .plain (sizeOf z) d [a, b] uniformBase (indexAddr (sizeOf z)) relaxed
    (plainWrite (sizeOf z))

/-- Scopes above 5 and order 3 are reserved (R65, R169). -/
def orderOk (sc : BitVec 3) (o : BitVec 2) : Bool := sc.toNat ≤ 5 && o != 3

/-- LDO (R169): every access is performed in its strand's program order, so an acquire asks for nothing more; order 2
above strand scope, which comes after every earlier access, first waits for the strand's earlier stores. -/
def execLdo (g : Guard) (d a : NameIx) (sc : BitVec 3) (o z : BitVec 2) (s : State) : Out :=
  loadOp s g (classD s d) (orderOk sc o) .ordered (sizeOf z) d [a] anyKinds plainAddr (o != 0)
    (if o = 2 && sc != 0 then settleStores else relaxed)

/-- What a store of an order and a scope does first: a release performs the strand's earlier stores, which at strand scope are
in order already, and is progress (R169, R286, R313, R352). -/
def orderedPre (sc : BitVec 3) (o : BitVec 2) (s : State) : Res State :=
  if o = 0 then .ok s else if sc = 0 then .ok (progressCur s) else release s

/-- STO (R169). -/
def execSto (g : Guard) (d a : NameIx) (sc : BitVec 3) (o z : BitVec 2) (s : State) : Out :=
  storeOp s g (classD s d) (orderOk sc o) .ordered (sizeOf z) d [a] anyKinds plainAddr
    (orderedPre sc o) (plainWrite (sizeOf z))

/-- What PREF does to the caches of translations and the migrator's counters (R176). -/
def prefetchData (s : State) (va : Nat) : State :=
  if isNear va then s
  else
    let t := curStrand s
    let p := curP s
    match peekTranslate s t.lid (.core p) (asidOf s t.lid) t.sv true .read va with
    | none => s
    | some (s', pa, _) =>
      match placeOf s' pa with
      | .device _ => s
      | _ => countPlace s' (clusterOf p) (asidOf s t.lid) va pa false

/-- PREF never traps or parks after its static checks (R176): where its address cannot be read without that, it has no
effect. -/
def execPref (g : Guard) (a : NameIx) (i : Imm 9) (s : State) : Out :=
  match infos (curStrand s) [a] with
  | some is =>
    gated s .uniform g (is.all uniSrc && allInt is) false fun _ =>
      match readSrcs s is [] with
      | .ok (s', xs) => .ok (advance (prefetchData s' (eaOf ((nth xs 0).pat 0) (immSigned i * 64))))
      | .error _ => .ok (advance s)
  | none => gated s .uniform g false false fun _ => illegal s

end Sys2Proof.Machine
end

