-- ==== Sys2Proof/Machine/Kv.lean ====
section
/-!
DEFINITION. The key/value region: its descriptor, entries and states, and LDK (spec/05 R174, R175; spec/14 R366,
R371-R373; spec/01 R47).
-/

namespace Sys2Proof.Machine

/-- EVAL of a refusal with a code and an index (R29, R153, R204). -/
def refuseVal (ix code : Nat) : Nat := 2 ^ 63 + ix * 2 ^ 8 + code

/-- Where an access on behalf of the strand that issues goes, in its mode: ordinary memory only. It counts for the page
migrator (R302). -/
def strandPhys (s0 s : State) (acc : Access) (n code va : Nat) : Res (State × Nat) :=
  let t := curStrand s0
  match physFor s (curP s0) t.lid t.sv acc n va with
  | .error x => dataFault s0 x code va
  | .ok (s', pa) =>
    .ok (if isNear va then s' else countPlace s' (clusterOf (curP s0)) (asidOf s' t.lid) va pa (acc == .write), pa)

/-- Read `n` bytes on behalf of the strand that issues. -/
def strandRead (s0 s : State) (n va : Nat) : Res (State × Nat) := do
  let (s', pa) ← strandPhys s0 s .read n 0 va
  match poisoned s' pa n with
  | some _ => trapNow cMCHECK (va % 2 ^ 48 + mcheckSource s' pa * 2 ^ 56)
  | none => .ok (s', loadPhys s' pa n)

/-- The descriptor at an address, read for the strand that issues; a breach is ILLEGAL with code 13 (R371). -/
def strandKv (s0 s : State) (va : Nat) : Res (State × KvDesc) := do
  let (s', pa) ← strandPhys s0 s .read 64 0 va
  match poisoned s' pa 64 with
  | some _ => trapNow cMCHECK (va % 2 ^ 48 + mcheckSource s' pa * 2 ^ 56)
  | none =>
    let d := kvOf s' pa
    if d.ok then .ok (s', d) else trapNow cILLEGAL (refuseVal 0 13)

/-- The token, layer and offset in the pair of entries that an address names; none outside the entry area (R372). -/
def KvDesc.locate (d : KvDesc) (ea : Nat) : Option (Nat × Nat × Nat) :=
  let pair := 2 * d.entryBytes
  if ea < d.base || d.base + d.layers * d.tokens * pair ≤ ea then none
  else
    let i := (ea - d.base) / pair
    some (i % d.tokens, i / d.tokens + 1, (ea - d.base) % pair)

/-- The address of an offset in the pair of entries of a token and layer (R372). -/
def KvDesc.pairAt (d : KvDesc) (layer tok off : Nat) : Nat :=
  (d.base + ((layer - 1) * d.tokens + tok) * (2 * d.entryBytes) + off) % 2 ^ 48

/-- The state byte of a token and layer, for the strand that issues. -/
def strandState (s0 s : State) (d : KvDesc) (layer tok : Nat) : Res (State × Nat × Nat) := do
  let a := d.stateAt layer tok
  let (s', pa) ← strandPhys s0 s .read 1 0 a
  match poisoned s' pa 1 with
  | some _ => trapNow cMCHECK (a + mcheckSource s' pa * 2 ^ 56)
  | none => .ok (s', loadPhys s' pa 1, pa)

/-- The highest VALID layer below one, counting down (R174). -/
def lowerValid (s0 : State) (d : KvDesc) (tok : Nat) : Nat → State → Res (State × Option Nat)
  | 0, s => .ok (s, none)
  | layer + 1, s => do
    if layer = 0 then .ok (s, none)
    else
      let (s', st, _) ← strandState s0 s d layer tok
      if st = 1 then .ok (s', some layer) else lowerValid s0 d tok layer s'

/-- LDK waits for a PENDING entry, keeping the KVDESC it captured at its issue (R174). -/
def waitEntry {α : Type} (s0 : State) (kv pa : Nat) : Res α :=
  .error (.park (.kvEntry pa) (some (setCur s0 fun t => { t with answer := some (.kvdesc (word kv)) })))

/-- One lane of LDK: the word, and the backfill future's handle if a stand-in was read (R174, R366). -/
def kvLoad (s0 s : State) (kv : Nat) (d : KvDesc) (ea : Nat) : Res (State × Nat × Option (BitVec 32)) :=
  match d.locate ea with
  | none => trapNow cPROTECT ea
  | some (tok, layer, off) => do
    let (s1, st, pa) ← strandState s0 s d layer tok
    if 3 ≤ st then trapNow cPROTECT (d.stateAt layer tok)
    else if st != 2 then
      let (s2, v) ← strandRead s0 s1 8 ea
      .ok (s2, v, none)
    else if !d.standin then waitEntry s0 kv pa
    else
      let (s2, low) ← lowerValid s0 d tok layer s1
      match low with
      | none => waitEntry s0 kv pa
      | some l =>
        let (s3, v) ← strandRead s0 s2 8 (d.pairAt l tok off)
        let (s4, h) ← strandRead s0 s3 4 ((d.bffut + 4 * tok) % 2 ^ 48)
        .ok (s4, v, some (BitVec.ofNat 32 h))

/-- The lanes of LDK in turn: values by lane, and the first stand-in handle met. -/
def kvLoads (s0 : State) (kv : Nat) (d : KvDesc) :
    State → List (Nat × Nat) → Res (State × List (Nat × Nat) × Option (BitVec 32))
  | s, [] => .ok (s, [], none)
  | s, (l, ea) :: r => do
    let (s', v, h) ← kvLoad s0 s kv d ea
    let (s'', vs, h') ← kvLoads s0 kv d s' r
    .ok (s'', (l, v) :: vs, h.orElse fun _ => h')

/-- What a stand-in read leaves in its strand: f7, and the handle unless it has one (R174, R366). -/
def notePending (t : Strand) (h : Option (BitVec 32)) : Strand :=
  match h with
  | none => t
  | some h => { setFlags t (flagBit 7) with standIn := if t.standIn = 0 then h else t.standIn }

/-- KVDESC as an LDK captured it at its issue (R174). -/
def capturedKv (s : State) : Nat :=
  match (curStrand s).answer with
  | some (.kvdesc v) => v.toNat
  | _ => ctlOf (coreAt s (curP s)) 0x0D

/-- LDK (R174): the descriptor of KVDESC, each enabled lane resolved on its own; the alignment of every lane is tested before
any lane's place. DESIGN CHOICE, log 51. -/
def execLdk (g : Guard) (d a : NameIx) (i : Imm 9) (s : State) : Out :=
  let t := curStrand s
  let cls := classD s d
  match nameInfo t.map d, infos t [a] with
  | some di, some is =>
    gated s cls g (accessKinds cls (di.dstKind && sizeOk di 8) di is) false fun lanes => do
      let (s1, xs) ← readSrcs s is []
      unlocked s [di]
      let eas := lanes.map fun l => (l, immAddr 8 i xs l)
      let kv := capturedKv s
      if kv = 0 then trapNow cILLEGAL (refuseVal 0 10)
      else
        match eas.find? fun e => e.2 % 8 != 0 with
        | some e => trapNow cALIGN e.2
        | none => do
          let (s2, desc) ← strandKv s s1 kv
          let (s3, vs, h) ← kvLoads s kv desc s2 eas
          let (vals, fl) ← collect lanes fun l => loadFit di 8 (laneVal vs l)
          let s4 ← writeDst s3 di lanes vals
          endAccess s (setCur (progressCur s4) fun t => notePending (setFlags t fl) h) (!(isOwn kv) || anyFar eas)
  | _, _ => gated s cls g false false fun _ => illegal s

end Sys2Proof.Machine
end

