-- ==== Sys2Proof/Machine/Width.lean ====
section
/-!
DEFINITION. RSZ with its repack, and WIDQ (spec/03 R103-R108; spec/01 R34; spec/17 R403).
-/

namespace Sys2Proof.Machine

/-- A width a type admits (R25). -/
def widthAllowed (ty w : Nat) : Bool :=
  match ty with
  | 0 => 1 ≤ w && w ≤ 64
  | 1 => 1 ≤ w && w ≤ 64
  | 2 => w == 16
  | 3 => w == 32
  | 4 => w == 8
  | 5 => w == 8
  | _ => false

/-- What RSZ's fields give: the new width and the new mode (R103). -/
def rszWidth (i : BitVec 6) : Nat := i.toNat + 1
def rszMode (i : NameInfo) (m : BitVec 1) (w : BitVec 2) : Nat := if m = 1 then w.toNat else i.mode

/-- The static checks of RSZ (R103, R104). -/
def rszStatic (i : NameInfo) (g : Guard) (m : BitVec 1) (w : BitVec 2) (b : BitVec 6) : Bool :=
  i.kind < 2 && widthAllowed i.ty (rszWidth b) && (if m = 1 then w != 3 else w == 0) &&
  (i.kind == 0 || g.gp == 0)

/-- The rows an RSZ affects: the first, and how many (R105). -/
def rszSpan (t : Strand) (i : NameInfo) (new : Nat) : Nat × Nat :=
  if new = i.width then (0, 0)
  else
    let base := if i.kind = 1 then t.lbase.toNat else t.ubase.toNat
    let old := bankBits t.map (i.kind == 1)
    let last := base + max old (old + new - i.width) - 1
    (nameBit t i / 64, last / 64 - nameBit t i / 64 + 1)

/-- The bits of a bank in which a region's tail begins at `pos`: the resized name's new value, the names after it
moved up or down behind it, and zeros where a narrowing frees bits (R103). `tail` is the number of bits of the names
after it. -/
def movedTail (bank pos old new tail v : Nat) : Nat :=
  let rest := fieldN bank (pos + old) tail
  setFieldN bank pos (max old new + tail) (v + rest * 2 ^ new)

/-- The fit of a copy to the new width and mode; a widening always fits (R103). Floating-point names keep their
width and their bits. -/
def rszFit (i : NameInfo) (new mode pat : Nat) : LaneRes :=
  if 2 ≤ i.ty then .ok (pat, 0)
  else fitAs i.ty new mode (if i.ty = 1 then toSigned i.width pat else (pat : Int))

/-- The map with a name's width and mode changed (R103). -/
def rszMap (m : MapCopy) (ix new mode : Nat) : MapCopy :=
  { m with entries := m.entries.zipIdx.map fun e =>
      if e.2 + 1 = ix then BitVec.ofNat 32 (setFieldN (setFieldN e.1.toNat 0 6 (new - 1)) 12 2 mode) else e.1 }

/-- A row of a span with an uncorrectable error: the EVAL of the MCHECK (R403). -/
def badRowIn (c : Core) (lane : Bool) (first n : Nat) : Option Nat :=
  (c.badRows.find? fun b => (if lane then b.1 != 0 else b.1 == 0) && first ≤ b.2 && b.2 < first + n).map
    fun b => (if lane then 2 ^ 60 else 0) + b.2 % 256 * 2 ^ 48

/-- The commit of an RSZ that moves nothing, or the start of its repack (R103-R107). -/
def rszRun (s : State) (i : NameInfo) (new mode : Nat) : Res State := do
  let p := curP s
  let t := curStrand s
  let c := coreAt s p
  let lane := i.kind == 1
  let map := rszMap t.map i.ix new mode
  if new = i.width then .ok (advance (setCur s fun t => { t with map := map }))
  else if c.repack.isSome then parkNow .repack
  else
    let (first, n) := rszSpan t i new
    match badRowIn c lane first n with
    | some v => trapNow cMCHECK v
    | none =>
      let copies := if lane then List.range 16 else [0]
      let (vals, flags) ← collect copies fun l => rszFit i new mode (rowRead c t i l)
      let total := bankBits t.map lane
      let room := (if lane then t.lsize.toNat else t.usize.toNat) - total
      if new > i.width + room then trapNow cMAPROOM (new - i.width + (if lane then 2 ^ 16 else 0))
      else
        let pos := nameBit t i
        let tail := total - bitsBefore t.map i.ix lane - i.width
        let ub := if lane then c.ubank
          else BitVec.ofNat 16384 (movedTail c.ubank.toNat pos i.width new tail (vals 0))
        let lb := if lane then BitVec.ofNat 131072 (copies.foldl (fun b l =>
            movedTail b (8192 * l + pos) i.width new tail (vals l)) c.lbank.toNat) else c.lbank
        let r : Repack := { key := s.cur, lane := lane, lo := first, n := n, done := 0, ubits := ub, lbits := lb,
                            map := map, flags := flags, next := nextPc s t }
        let s := addEvent (setCore s p { c with repack := some r }) (.repackRowWrite p)
        .error (.park .repack (some s))

/-- RSZ (R103-R107): the issuing strand leaves rotation until the unlock. -/
def execRsz (g : Guard) (d : NameIx) (m : BitVec 1) (w : BitVec 2) (i : BitVec 6) (s : State) : Out :=
  match nameInfo (curStrand s).map d with
  | some di =>
    gated s (clsOf (curStrand s) d) g (rszStatic di g m w i) false fun _ => rszRun s di (rszWidth i) (rszMode di m w)
  | none => gated s .uniform g false false fun _ => illegal s

/-- One row of a repack: the bank's row takes its bits of the new content (R105). -/
def repackRow (c : Core) (r : Repack) : Core :=
  let row := 64 * (r.lo + r.done)
  if r.lane then
    { c with lbank := BitVec.ofNat 131072 ((List.range 16).foldl (fun b l =>
        setFieldN b (8192 * l + row) 64 (fieldN r.lbits.toNat (8192 * l + row) 64)) c.lbank.toNat) }
  else { c with ubank := BitVec.ofNat 16384 (setFieldN c.ubank.toNat row 64 (fieldN r.ubits.toNat row 64)) }

/-- REPACK_ROW_WRITE: the engine rewrites its next row; after the last one the unlock follows (R105). -/
def execRepackRowWrite (p : Nat) (s : State) : Out :=
  let c := coreAt s p
  match c.repack with
  | none => done s s
  | some r =>
    let r' := { r with done := r.done + 1 }
    let s := setCore s p { repackRow c r with repack := some r' }
    done s (addEvent s (if r'.done < r.n then .repackRowWrite p else .repackUnlock p))

/-- REPACK_UNLOCK: the new map takes effect, the rows unlock, and every strand of the core that the lock held wakes,
the resizing strand with its RSZ complete (R105, R106). -/
def execRepackUnlock (p : Nat) (s : State) : Out :=
  let c := coreAt s p
  match c.repack with
  | none => done s s
  | some r =>
    let s1 := setCore s p { c with repack := none }
    let t := strandAt s1 r.key
    let s2 := match tget s1.strands r.key with
      | some _ => setStrand s1 r.key (setFlags { t with map := r.map, pc := r.next, skipBrk := false } r.flags)
      | none => s1
    done s (wakeWhere s2 fun k _ w => keyCore k == p && w == .repack)

/-- The names still available of a bank's region: its headroom (R103, R108). -/
def headroom (t : Strand) (lane : Bool) : Nat :=
  (if lane then t.lsize.toNat else t.usize.toNat) - bankBits t.map lane

/-- What WIDQ reads of the strand's own map (R108). -/
def widqValue (t : Strand) (w : Nat) (ix : Nat) (i : NameInfo) : Nat :=
  match w with
  | 0 => i.width
  | 1 => if ix = 0 then 0 else ((t.map.entries[ix - 1]?).map (·.toNat)).getD 0
  | 2 => headroom t false
  | _ => headroom t true

/-- WIDQ: the queried index is no operand; it must be 0 for the headroom forms (R63, R108). -/
def execWidq (g : Guard) (d : NameIx) (w : BitVec 2) (i : BitVec 6) (s : State) : Out :=
  let t := curStrand s
  match nameInfo t.map i with
  | some qi =>
    uniformOp s g false (w.toNat < 2 || i == 0) [d] [] intOnly fun s' ds _ => do
      let s'' ← writeOne s' (nthD ds 0) (fitDecl (nthD ds 0) (widqValue t w.toNat i.toNat qi : Nat))
      .ok (advance s'')
  | none => gated s .uniform g false false fun _ => illegal s

end Sys2Proof.Machine
end

