-- ==== Sys2Proof/Machine/Maps.lean ====
section
/-!
DEFINITION. Register-map images: their checks in the order of R440, the placing of regions in the row store, and MAPLD
(spec/01 R13, R23-R32, R440; spec/04 R148, R149; spec/17 R403).
-/

namespace Sys2Proof.Machine

/-! ### The header (R23) -/
def mapMagic (h : Nat) : Nat := fieldN h 48 16
def mapRoam (h : Nat) : Bool := bitN h 33
def mapCount (h : Nat) : Nat := fieldN h 27 6
def mapLhead (h : Nat) : Nat := fieldN h 14 13
def mapUhead (h : Nat) : Nat := fieldN h 0 14

/-- The rule an entry breaks (codes 3 to 7 of R29, then the kind rule of R28), in the order of R440. `held` says that
another live strand of the core holds a binding. DEDUCED, log 14. -/
def entryFault (roam : Bool) (count ix : Nat) (e : BitVec 32) (held : Nat → Nat → Bool) : Option Nat :=
  let i := entryInfo ix e
  if fieldN e.toNat 26 6 != 0 || i.kind == 7 || 6 ≤ i.ty || i.mode == 3 then some 3
  else if !(widthAllowed i.ty i.width) then some 4
  else if (if i.kind = 2 then 32 ≤ i.bind else if i.kind = 3 || i.kind = 4 || i.kind = 5 then 4 ≤ i.bind
           else i.bind != 0) then some 5
  else if i.kind == 6 && (ix != (if roam then count else 63) || i.width != 48 || i.ty != 0 || i.mode != 0) then some 6
  else if (2 ≤ i.kind && i.kind ≤ 5) && held i.kind i.bind then some 7
  else if roam && !(i.kind == 0 || (i.kind == 6 && ix == count)) then some 8
  else none

/-- The first entry that breaks a rule, with its index. -/
def entriesFault (roam : Bool) (count : Nat) (held : Nat → Nat → Bool) : Nat → List (BitVec 32) → Option (Nat × Nat)
  | _, [] => none
  | ix, e :: r =>
    match entryFault roam count ix e held with
    | some c => some (ix, c)
    | none => entriesFault roam count held (ix + 1) r

/-- The sum of the widths of a map's names in a bank. -/
def mapBits (m : MapCopy) (lane : Bool) : Nat := bankBits m lane

/-- The first rule of R23-R28 that a map breaks: index and code, in the order of R440 steps 4 to 6. `roamOnly` is the
rule of R148 for a roaming strand. DEDUCED, log 14. -/
def mapFault (m : MapCopy) (roamOnly : Bool) (held : Nat → Nat → Bool) : Option (Nat × Nat) :=
  let h := m.header.toNat
  let roam := mapRoam h
  if mapMagic h != 0x4B4D then some (0, 1)
  else if fieldN h 34 14 != 0 then some (0, 2)
  else if (roam && (24 < mapCount h || mapLhead h != 0)) || (roamOnly && !roam) then some (0, 8)
  else
    match entriesFault roam (mapCount h) held 1 m.entries with
    | some f => some f
    | none => if roam && 1536 < mapBits m false + mapUhead h then some (0, 8) else none

/-- A binding that a live strand of a core other than `except` holds (R29). -/
def bindingHeld (s : State) (p : Nat) (except : Option Nat) (kind bind : Nat) : Bool :=
  (strandsOf s p).any fun e => some e.1 != except && e.2.map.entries.any fun x =>
    (entryInfo 1 x).kind == kind && (entryInfo 1 x).bind == bind

/-- A map image at a physical address: the header and its entries. -/
def imageAt (s : State) (pa : Nat) : MapCopy :=
  let h := loadPhys s pa 8
  { header := word h, entries := (List.range (mapCount h)).map fun i => BitVec.ofNat 32 (loadPhys s (pa + 8 + 4 * i) 4) }

/-- The image at an address of the core's own RAW window, checked (R440). -/
def loadImage (s : State) (p va : Nat) (roamOnly : Bool) (except : Option Nat) : Res MapCopy :=
  if va % 8 != 0 then trapNow cALIGN va
  else if 131072 < va + 8 then trapNow cPROTECT va
  else
    let pa := lsBase p + va
    let n := 8 + 4 * mapCount (loadPhys s pa 8)
    if 131072 < va + n then trapNow cPROTECT va
    else
      match poisoned s pa n with
      | some w => trapNow cMCHECK (w - lsBase p + 2 ^ 56)
      | none =>
        match mapFault (imageAt s pa) roamOnly (bindingHeld s p except) with
        | some (ix, c) => trapNow cILLEGAL (refuseVal ix c)
        | none => .ok (imageAt s pa)

/-! ### Placing regions (R30) -/

/-- The regions of a core's live strands in a bank, but for one strand's. -/
def regionsOf (s : State) (p : Nat) (lane : Bool) (except : Option Nat) : List (Nat × Nat) :=
  ((strandsOf s p).filter fun e => some e.1 != except).map fun e =>
    if lane then (e.2.lbase.toNat, e.2.lsize.toNat) else (e.2.ubase.toNat, e.2.usize.toNat)

/-- A run is free of every region. -/
def runFree (rs : List (Nat × Nat)) (base size : Nat) : Bool :=
  rs.all fun r => r.2 == 0 || base + size ≤ r.1 || r.1 + r.2 ≤ base

/-- The least of the numbers that a test picks. -/
def leastWhere (f : Nat → Bool) (xs : List Nat) : Option Nat :=
  xs.foldl (fun best x => if f x then (match best with
    | some b => some (Nat.min b x)
    | none => some x) else best) none

/-- The lowest bit offset of a free run: 0, or the end of some region (R30). A region of size 0 takes no bits. -/
def placeRun (rs : List (Nat × Nat)) (total size : Nat) : Option Nat :=
  if size = 0 then some 0
  else leastWhere (fun b => b + size ≤ total && runFree rs b size) (0 :: rs.map fun r => r.1 + r.2)

/-- Region sizes of a map (R30). -/
def uniformSize (m : MapCopy) : Nat := mapBits m false + mapUhead m.header.toNat
def laneSize (m : MapCopy) : Nat := mapBits m true + mapLhead m.header.toNat

/-- A new region meets part of a row with an uncorrectable error: the EVAL of the MCHECK (R403). -/
def partOfBadRow (c : Core) (lane : Bool) (base size : Nat) : Option Nat :=
  (c.badRows.find? fun b => (if lane then b.1 != 0 else b.1 == 0) && size != 0 && base < 64 * b.2 + 64 &&
    64 * b.2 < base + size && !(base ≤ 64 * b.2 && 64 * b.2 + 64 ≤ base + size)).map
    fun b => (if lane then 2 ^ 60 else 0) + b.2 % 256 * 2 ^ 48

/-- The rows that a new region covers whole are rewritten, which heals them (R403). -/
def healRows (c : Core) (lane : Bool) (base size : Nat) : Core :=
  { c with badRows := c.badRows.filter fun b =>
      !((if lane then b.1 != 0 else b.1 == 0) && base ≤ 64 * b.2 && 64 * b.2 + 64 ≤ base + size) }

/-- The bits of the new regions set to 0 (R32). -/
def zeroRegions (c : Core) (ub us lb ls : Nat) : Core :=
  let c := healRows (healRows c false ub us) true lb ls
  { c with
    ubank := BitVec.ofNat 16384 (setFieldN c.ubank.toNat ub us 0)
    lbank := BitVec.ofNat 131072
      ((List.range 16).foldl (fun b l => setFieldN b (8192 * l + lb) ls 0) c.lbank.toNat) }

/-- A strand with a map and the layout its regions were given. -/
def withLayout (t : Strand) (m : MapCopy) (ub lb : Nat) : Strand :=
  { t with map := m, ubase := BitVec.ofNat 14 ub, usize := BitVec.ofNat 15 (uniformSize m),
           lbase := BitVec.ofNat 13 lb, lsize := BitVec.ofNat 14 (laneSize m) }

/-- The places of a map's regions on a core, if both fit (R30). -/
def placeMap (s : State) (p : Nat) (m : MapCopy) (except : Option Nat) : Option (Nat × Nat) :=
  match placeRun (regionsOf s p false except) 16384 (uniformSize m),
        placeRun (regionsOf s p true except) 8192 (laneSize m) with
  | some u, some l => some (u, l)
  | _, _ => none

/-- The regions found for a map by MAPLD or START: MAPROOM when one does not fit, a hold when a bit of them lies in a
locked row (R30, R149), MCHECK when they cover part of a row with an uncorrectable error. DESIGN CHOICE, log 51. -/
def findRegions (s : State) (p : Nat) (m : MapCopy) (except : Option Nat) : Res (Nat × Nat) :=
  let c := coreAt s p
  let us := uniformSize m
  let ls := laneSize m
  match placeRun (regionsOf s p false except) 16384 us with
  | none => trapNow cMAPROOM (us % 2 ^ 15)
  | some u =>
    match placeRun (regionsOf s p true except) 8192 ls with
    | none => trapNow cMAPROOM (ls % 2 ^ 15 + 2 ^ 16)
    | some l =>
      if bitsLocked c false u us || bitsLocked c true l ls then parkNow .repack
      else
        match (partOfBadRow c false u us).orElse fun _ => partOfBadRow c true l ls with
        | some v => trapNow cMCHECK v
        | none => .ok (u, l)

/-- MAPLD (R148): on success the new layout replaces the old one and its bits are 0 (R32). -/
def execMapld (g : Guard) (a : NameIx) (i : Imm 9) (s : State) : Out :=
  uniformOp s g false true [] [a] intOnly fun s' _ xs => do
    let p := curP s'
    let t := curStrand s'
    let m ← loadImage s' p (immAddr 8 i xs 0) (roaming t) (some s'.cur)
    let (u, l) ← findRegions s' p m (some s'.cur)
    let s1 := setCore s' p (zeroRegions (coreAt s' p) u (uniformSize m) l (laneSize m))
    .ok (advance (setCur s1 fun t => withLayout t m u l))

end Sys2Proof.Machine
end

