-- ==== Sys2Proof/Machine/Monitors.lean ====
section
/-!
DEFINITION. Monitors and WAITA: MON, MONX, WAITA, the trigger notice, the timeout (spec/04 R133-R137; spec/12
R331; spec/13 R355, R356).
-/

namespace Sys2Proof.Machine

/-- No monitor. -/
def Monitor.none : Monitor := ⟨false, 0, 0, false, false, 0, false⟩

/-- Monitor `m` of a strand. -/
def monAt (t : Strand) (m : Nat) : Monitor := t.mons.getD m Monitor.none

/-- Put monitor `m` of a strand. -/
def setMon (t : Strand) (m : Nat) (x : Monitor) : Strand :=
  { t with mons := (List.range 4).map fun i => if i = m then x else monAt t i }

/-- Arm a monitor on the line of a physical address; `page` is the 64 KiB page of the address, near or far (R133). -/
def armMonitor (s : State) (m ea pa : Nat) : State :=
  setCur s fun t => setMon t m ⟨true, lineOf pa, ea / 65536, false, false, s.tick, false⟩

/-- The frame of MON and MONX. `s` is the state without the reading of the sources: the strand first parks, having performed
the access, armed the monitor and kept the word that `load` loads, until the arming is recorded at the line's home; when it
reissues, `body` writes the word from the state `s'` in which its sources have been read (R36, R133, R159). A word that does
not fit then traps, and the monitor stays armed. Both need read permission. DEDUCED, log 10. DESIGN CHOICE, log 51. -/
def monOp (s s' : State) (ea n m : Nat) (load : State → Touch → Res (State × Nat)) (body : State → Nat → Res State) :
    Res State :=
  let first : Res State := do
    let (s1, ts) ← checkAll s s .watch [.read] n 7 [(0, ea)]
    match ts with
    | ⟨_, _, .mem pa leaf⟩ :: _ => do
      let (s2, v) ← load s1 ⟨0, ea, .mem pa leaf⟩
      let s3 := setCur (armMonitor s2 m ea pa) fun t => { t with answer := some (.armed (BitVec.ofNat 48 ea) (word v)) }
      .error (.park .arming (some (addEvent s3 (.accessReply s3.cur))))
    | _ => trapNow cPROTECT ea
  match (curStrand s).answer with
  | some (.armed a v) => if a.toNat = ea then body s' v.toNat else first
  | _ => first

/-- A roaming strand may not use monitors (R124). -/
def notRoaming (s : State) : Bool := !(roaming (curStrand s))

/-- MON: the strand goes on once the arming is recorded at the line's home (R133). -/
def execMon (g : Guard) (a : NameIx) (m : BitVec 2) (s : State) : Out :=
  uniformOp s g false (notRoaming s) [] [a] intOnly fun s' _ xs => do
    monOp s s' (plainAddr xs 0) 1 m.toNat (fun s1 _ => .ok (s1, 0)) fun s1 _ => .ok (advance s1)

/-- MONX: the load and the arming are one access; an acquire (R133). -/
def execMonx (g : Guard) (d a : NameIx) (m : BitVec 2) (s : State) : Out :=
  uniformOp s g false (notRoaming s) [d] [a] (fun ds is => allInt is && ds.all fun x => sizeOk x 8) fun s' ds xs => do
    unlocked s' ds
    let load (s1 : State) (t : Touch) : Res (State × Nat) := do
      readable s1 [t] 8
      readTouch s1 t 8
    monOp s s' (plainAddr xs 0) 8 m.toNat load fun s1 v => do
      let s2 ← writeOne s1 (nthD ds 0) (loadFit (nthD ds 0) 8 v)
      .ok (advance (progressCur s2))

/-! ### WAITA -/

/-- A message of a class bound to a slot is in the mailbox (R132, R136). -/
def boundMessage (c : Core) (slot : Nat) : Bool := c.mailbox.any fun m => tget c.binds m.cls == some slot

/-- The bits of the cause word that hold now, reasons aside (R137). -/
def waitaBits (s : State) (k : Nat) (deadline : Option Nat) : Nat :=
  let t := strandAt s k
  let c := coreAt s (keyCore k)
  let trig := (List.range 4).foldl (fun acc m => acc + if (monAt t m).triggered then 2 ^ m else 0) 0
  trig + (if deadline.any (· ≤ s.cycle) then 16 else 0) + (if boundMessage c (k % 16) then 32 else 0) +
    (if t.mons.all (fun m => !m.armed) && deadline.isNone then 64 else 0)

/-- The log's operation for WAITA completions (R355). -/
def waitaOp : Nat := 0x14

/-- The next logged completion of a strand's WAITA: its place in the log and its cause word (R356). -/
def waitaLogged (s : State) (k : Nat) : Option (Nat × Nat) :=
  let t := strandAt s k
  let who := senderWord s t.lid (keyCore k) (k % 16) 0
  match launchAt s t.lid with
  | some l =>
    ((rrLog s t.lid).zipIdx.find? fun e => !(l.rrDone.contains e.2) && fieldN e.1.1 32 8 == waitaOp && e.1.2 == who).map
      fun e => (e.2, fieldN e.1.1 0 32)
  | none => none

/-- The reason of a spurious wake that a monitor of the strand keeps for its WAITA: 1, the home dropped it (R137). -/
def keptReason (t : Strand) : Nat := if t.mons.any (·.dropped) then 1 else 0

/-- The cause word a WAITA completes with, if it may complete: any bit, a reason, or under replay the logged word once
its bits and its reason have occurred (R136, R137, R356). -/
def waitaWord (s : State) (k : Nat) (deadline : Option Nat) (reason : Nat) : Option (State × Nat) :=
  let bits := waitaBits s k deadline
  let lid := (strandAt s k).lid
  let reason := if reason = 0 then keptReason (strandAt s k) else reason
  if rrMode s lid = 2 then
    match waitaLogged s k with
    | some (i, w) =>
      if fieldN w 0 8 &&& bits = fieldN w 0 8 && (fieldN w 8 4 == 0 || fieldN w 8 4 == reason) then
        some ({ s with launches := tmap s.launches fun j l =>
                  if j = lid then { l with rrDone := i :: l.rrDone } else l }, w)
      else none
    | none => none
  else if bits = 0 && reason = 0 then none
  else
    let w := bits + reason * 256
    some (rrAppend s lid (rrWord waitaOp w 0 0) (senderWord s lid (keyCore k) (k % 16) 0), w)

/-- All four monitors disarmed (R136). -/
def disarmAll (t : Strand) : Strand := { t with mons := [] }

/-- WAITA completes for the strand that issues: NA is read, the cause word goes to ND, the monitors are disarmed, the PC goes
on (R36, R136). -/
def endWaita (s : State) (di ai : NameInfo) (w : Nat) : Res State := do
  let (s1, _) ← readSrcs s [ai] []
  let s2 ← writeOne s1 di (fitEither di w)
  .ok (advance (setCur s2 disarmAll))

/-- The cause word that a WAITA has been woken with and has still to write. -/
def heldCause (t : Strand) : Option Nat :=
  match t.answer with
  | some (.cause w) => some w.toNat
  | _ => none

/-- The strand that issues keeps the cause word of its WAITA until it can write it. -/
def keepCause (s : State) (w : Nat) : State := setCur s fun t => { t with answer := some (.cause (word w)) }

/-- A WAITA in which a strand is parked completes if it may; the strand then rejoins rotation (R136, R344). Where it has to
wait again, for a name or for locked rows, it keeps its cause word (R36, R106). Length 0 marks a WAITA of a substitute, which
reissues with its cause word (R419). One that kydb has halted stays where it is (R329). DEDUCED, log 34. -/
def tryWaita (s : State) (k reason : Nat) : State :=
  let t := strandAt s k
  if t.halted.isSome then s else
  match t.run with
  | .parked (.waitA nd na deadline len) =>
    match waitaWord s k deadline reason, nameInfo t.map nd, nameInfo t.map na with
    | some (s1, w), some di, some ai =>
      let s2 := { s1 with cur := k, ir := ⟨0, len⟩ }
      let s3 :=
        if len = 0 then wake (keepCause s2 w) k
        else match endWaita s2 di ai w with
          | .ok x => wake x k
          | .error (.trap c v _) => wake (takeTrap s2 k c v) k
          | .error (.park why _) => parkStrand (keepCause s2 w) k why
      { s3 with cur := s.cur, ir := s.ir }
    | _, _, _ => s
  | _ => s

/-- WAITA completes at its issue with a cause word, or keeps the word while it waits for a name. DEDUCED, log 10. -/
def waitaNow (s : State) (di ai : NameInfo) (w : Nat) : Res State :=
  match endWaita s di ai w with
  | .error (.park why _) => .error (.park why (some (keepCause s w)))
  | r => r

/-- WAITA (R136): parks until a monitor triggers, the time passes or a message arrives. It reads NA when it completes, and
meanwhile knows its timeout (R36); a negative one of a narrow signed name counts with its sign extended to 64 bits.
DESIGN CHOICE, log 51. -/
def execWaita (g : Guard) (d a : NameIx) (s : State) : Out :=
  uniformOp s g false (notRoaming s) [d] [a] (fun _ _ => true) fun _ ds xs => do
    unlocked s ds
    let ai := (nth xs 0).info
    let n := srcWord s (nth xs 0)
    let deadline := if n = 0 then none else some (s.cycle + n)
    match heldCause (curStrand s), waitaWord s s.cur deadline 0 with
    | some w, _ => waitaNow s (nthD ds 0) ai w
    | none, some (s1, w) => waitaNow s1 (nthD ds 0) ai w
    | none, none =>
      let s1 := match deadline with
        | some c => addEvent s (.waitaTimeout s.cur c)
        | none => s
      .error (.park (.waitA d a deadline s.ir.len) (some s1))

/-- Where a line's home is: two lines of one vault, of one local store, or of the pool, may share a bank's table. -/
def sameHome (s : State) (a b : Nat) : Bool :=
  match placeOf s (64 * a), placeOf s (64 * b) with
  | .vault c _, .vault d _ => c == d
  | .ls p _, .ls q _ => p == q
  | .pool _, .pool _ => true
  | _, _ => false

/-- The line that a strand has armed last. -/
def lastArmed (t : Strand) : Nat :=
  (t.mons.foldl (fun (best : Nat × Nat) m => if m.armed && best.1 ≤ m.armedAt then (m.armedAt, m.line) else best) (0, 0)).2

/-- An arming reaches the line's home, whose table, of a size that the spec does not give, may overflow and drop a monitor
of the home (R137). DESIGN CHOICE, log 34. DEDUCED, log 34. -/
def recordArming (s : State) (k : Nat) : State :=
  let line := lastArmed (strandAt s k)
  let xs := s.strands.flatMap fun e =>
    (e.2.mons.zipIdx.filter fun m => m.1.armed && !m.1.fired && !m.1.dropped && sameHome s m.1.line line).map
      fun m => (e.1, m.2)
  match xs[freeNat s 25 k (xs.length + 1)]? with
  | some (j, m) =>
    let t := strandAt s j
    tryWaita (setStrand s j (setMon t m { monAt t m with dropped := true })) j 0
  | none => s

/-- MONITOR_NOTICE: the trigger of a monitor reaches its strand (R134, R331). -/
def execMonitorNotice (k m : Nat) (s : State) : Out :=
  match tget s.strands k with
  | some t =>
    if (monAt t m).fired then
      done s (tryWaita (setStrand s k (setMon t m { monAt t m with triggered := true })) k 0)
    else done s s
  | none => done s s

/-- WAITA_TIMEOUT: the timeout of a WAITA has passed (R136). -/
def execWaitaTimeout (k deadline : Nat) (s : State) : Out :=
  match (strandAt s k).run with
  | .parked (.waitA _ _ (some c) _) =>
    if c != deadline then done s s
    else if s.cycle < deadline then again s (.waitaTimeout k deadline)
    else done s (tryWaita s k 0)
  | _ => done s s

/-- A spurious wake of every monitor that a test picks: a strand parked in WAITA completes with the reason (R137).
DEDUCED, log 34. -/
def spurious (s : State) (reason : Nat) (pick : Nat → Strand → Monitor → Bool) : State :=
  (s.strands.filter fun e => e.2.mons.any fun m => m.armed && pick e.1 e.2 m).foldl (fun acc e => tryWaita acc e.1 reason) s

end Sys2Proof.Machine
end

