-- ==== Sys2Proof/Machine/Strands.lean ====
section
/-!
DEFINITION. Strands of a core: START, JOIN, EXIT, YIELD, BIND, UNBIND, WAITMSG, and the events that bring a strand back
into rotation (spec/04 R124-R132; spec/13 R340, R344; spec/05 R163).
-/

namespace Sys2Proof.Machine

/-- The strand that issues is the control strand (R124). -/
def controlOnly (s : State) : Bool := curSlot s == 0

/-- The lowest FREE slot of 1 to 12 (R125, R340). -/
def helperSlot (s : State) (p : Nat) : Option Nat := ((List.range 12).map (· + 1)).find? (slotFree s p)

/-- A helper as it begins (R126): the entry PC, the mode, TVEC and work identifier of its starter. It joins rotation
in the next cycle. -/
def helperOf (s : State) (pc : BitVec 48) (m : MapCopy) (ub lb : Nat) : Strand :=
  let t := curStrand s
  { withLayout Strand.blank m ub lb with
      uid := s.nextUid, pc := pc, sv := t.sv, role := 1, tvec := t.tvec, wid := t.wid, helper := true, lid := t.lid,
      run := .ready (s.cycle + 1) }

/-- The image START names, at an address read unsigned as MAPLD reads it; index 0 gives an empty map (R125). -/
def startImage (s : State) (x : Src) : Res MapCopy :=
  if x.info.kind = 8 then .ok ⟨0, []⟩
  else loadImage s (curP s) (x.pat 0 % 2 ^ 48) false none

/-- START (R125): the entry's alignment, the image, the slot, the regions, the helper. DEDUCED, log 11. -/
def execStart (g : Guard) (d a b : NameIx) (s : State) : Out :=
  uniformOp s g false (controlOnly s) [d] [a, b] (fun _ is => allInt is) fun s' ds xs => do
    let p := curP s'
    let entry := (nth xs 0).pat 0 % 2 ^ 48
    if entry % 4 != 0 then trapNow cALIGN entry
    else
      let m ← startImage s' (nth xs 1)
      match helperSlot s' p with
      | none => do
        let s1 ← release s'
        let s2 ← writeOne s1 (nthD ds 0) (fitEither (nthD ds 0) 0)
        .ok (advance s2)
      | some slot => do
        let (u, l) ← findRegions s' p m none
        let s1 ← release s'
        let s2 := setCore s1 p (zeroRegions (coreAt s1 p) u (uniformSize m) l (laneSize m))
        let s3 := setStrand { s2 with nextUid := s2.nextUid + 1 } (16 * p + slot) (helperOf s2 (BitVec.ofNat 48 entry) m u l)
        let s4 ← writeOne s3 (nthD ds 0) (fitEither (nthD ds 0) slot)
        .ok (advance s4)

/-- A slot of a core holds a live helper (R126). -/
def helperLive (s : State) (p slot : Nat) : Bool := ((tget s.strands (16 * p + slot)).map (·.helper)).getD false

/-- JOIN (R127). -/
def execJoin (g : Guard) (a : NameIx) (s : State) : Out :=
  uniformOp s g false (controlOnly s) [] [a] (fun _ _ => true) fun s' _ xs =>
    let n := srcInt s (nth xs 0)
    if n < 1 || 12 < n then illegal s
    else if helperLive s' (curP s') n.toNat then parkNow (.join n.toNat)
    else .ok (advance (progressCur s'))

/-! ### EXIT -/

/-- An engine's commands forget a strand that has left the core (R399). -/
def Engine.forget (e : Engine) (k : Nat) : Engine :=
  let drop (x : EngineCmd) : EngineCmd := if x.key = some k then { x with key := none } else x
  { e with executing := e.executing.map drop, queue := e.queue.map drop }

/-- The slot of a strand becomes FREE: its classes are unbound, its bindings, monitors, regions and marks go with it,
and whoever waits for its end looks again (R127-R129). -/
def freeSlot (s : State) (k : Nat) : State :=
  let p := keyCore k
  let c := coreAt s p
  let s := setCore s p { c with binds := c.binds.filter (fun b => b.2 != k % 16)
                                mx := c.mx.forget k, vx := c.vx.forget k }
  let s := { s with strands := tdel s.strands k }
  wakeWhere s fun j _ w => keyCore j == p && (w == .join (k % 16) || w == .helpers)

/-- A task strand has exited: its dispatcher retires the task (R128, R351). -/
def retireTask (s : State) (t : Strand) : State :=
  match t.task with
  | none => s
  | some n =>
    match taskAt s n with
    | some x =>
      match x.st with
      | .running p run =>
        addEvent (setTask s n { x with st := .retiring p run s.cur, f7 := flag7 t, standIn := t.standIn, stopped := t.stopped,
                                       shade0 := t.shade0 }) (.taskRetire n)
      | _ => s
    | none => s

/-- A helper of the core is live (R129). -/
def helpersLive (s : State) (p : Nat) : Bool := (strandsOf s p).any fun e => e.2.helper

/-- EXIT (R128, R129). -/
def execExit (g : Guard) (s : State) : Out :=
  gated s .uniform g true false fun _ =>
    let t := curStrand s
    if t.holds.isSome then illegal s
    else if curSlot s == 0 && helpersLive s (curP s) then parkNow .helpers
    else do
      let s' ← release s
      .ok (retireTask (freeSlot s' s'.cur) t)

/-- YIELD (R130). DESIGN CHOICE, log 45. -/
def execYield (g : Guard) (s : State) : Out :=
  gated s .uniform g true false fun _ =>
    .ok (advance (setCur s fun t => { t with yieldAt := some s.cycle, run := .ready s.cycle }))

/-! ### Message classes -/

/-- A message of a class is present: who waits for it looks again (R131, R132, R136, R193). -/
def messageReady (s : State) (p cls : Nat) : State :=
  let s := wakeWhere s fun k _ w => keyCore k == p && w == .message cls
  match tget (coreAt s p).binds cls with
  | some slot =>
    let k := 16 * p + slot
    let s := if (strandAt s k).run == .parked .waitMsg then wake s k else s
    tryWaita s k 0
  | none => s

/-- Whether the mailbox of a core holds a message of a class. -/
def hasMessage (c : Core) (cls : Nat) : Bool := c.mailbox.any fun m => m.cls == cls

/-- BIND (R131). -/
def execBind (g : Guard) (a : NameIx) (c : BitVec 2) (s : State) : Out :=
  uniformOp s g false (notRoaming s) [] [a] (fun _ _ => true) fun s' _ xs =>
    let n := srcInt s (nth xs 0)
    let p := curP s'
    let core := coreAt s' p
    let free := match tget core.binds c.toNat with
      | some slot => (slot : Int) == n
      | none => true
    if n < 0 || 12 < n || slotFree s' p n.toNat || !free then illegal s
    else
      let s1 := advance (setCore s' p { core with binds := tset core.binds c.toNat n.toNat })
      .ok (if hasMessage core c.toNat then messageReady s1 p c.toNat else s1)

/-- UNBIND (R131), one of the forms of BIND that a roaming strand may not use (R124). -/
def execUnbind (g : Guard) (a : NameIx) (c : BitVec 2) (s : State) : Out :=
  uniformOp s g false (notRoaming s) [] [a] (fun _ _ => true) fun s' _ xs =>
    let n := srcInt s (nth xs 0)
    let p := curP s'
    let core := coreAt s' p
    if n < 0 || 15 < n then illegal s
    else if tget core.binds c.toNat == some n.toNat then
      .ok (advance (setCore s' p { core with binds := tdel core.binds c.toNat }))
    else .ok (advance s')

/-- Some class is bound to a slot. -/
def someBound (c : Core) (slot : Nat) : Bool := c.binds.any fun b => b.2 == slot

/-- WAITMSG (R132). -/
def execWaitmsg (g : Guard) (s : State) : Out :=
  gated s .uniform g (notRoaming s) false fun _ =>
    let c := coreAt s (curP s)
    if !(someBound c (curSlot s)) then illegal s
    else if boundMessage c (curSlot s) then .ok (advance s)
    else parkNow .waitMsg

/-! ### Back into rotation -/

/-- STRAND_REJOIN: a woken strand joins rotation, from the next cycle on (R344). -/
def execStrandRejoin (k : Nat) (s : State) : Out :=
  match tget s.strands k with
  | some t => done s (if t.run = .woken then setStrand s k { t with run := .ready (s.cycle + 1) } else s)
  | none => done s s

/-- The next of a strand's writes to device registers is made, or the strand wakes (R316, R427). DEDUCED, log 9. -/
def nextDeviceWrite (s : State) (k : Nat) (ws : List Instr) : State :=
  match ws with
  | [] => wake s k
  | w :: _ => addEvent (addEvent (setStrand s k { strandAt s k with run := .parked (.device ws) }) w) (.accessReply k)

/-- ACCESS_REPLY: the reply of an access that left the core is written (R163), once no write of the strand waits at a
word's home (R177). DEDUCED, log 9. -/
def execAccessReply (k : Nat) (s : State) : Out :=
  match (strandAt s k).run with
  | .parked .reply => if writesWaiting s k then again s (.accessReply k) else done s (wake s k)
  | .parked .arming => done s (wake (recordArming s k) k)
  | .parked .marks => if writesWaiting s k then again s (.accessReply k) else done s (wake s k)
  | .parked (.device []) => done s (wake s k)
  | .parked (.device (w :: ws)) => if s.agenda.contains w then again s (.accessReply k) else done s (nextDeviceWrite s k ws)
  | _ => done s s

end Sys2Proof.Machine
end

