-- ==== Sys2Proof/Machine/Barriers.lean ====
section
/-!
DEFINITION. Barriers over a rectangle of cores: BARA, BARW, the arrivals that travel and the release (spec/04
R138-R141; spec/01 R43; spec/10 R327).
-/

namespace Sys2Proof.Machine

/-- The fields of a barrier rectangle (R43). -/
def rectX0 (r : Nat) : Nat := fieldN r 0 8
def rectY0 (r : Nat) : Nat := fieldN r 8 8
def rectX1 (r : Nat) : Nat := fieldN r 16 8
def rectY1 (r : Nat) : Nat := fieldN r 24 8

/-- A logical core lies inside a rectangle. -/
def inRect (r l : Nat) : Bool :=
  rectX0 r ≤ logX l && logX l ≤ rectX1 r && rectY0 r ≤ logY l && logY l ≤ rectY1 r

/-- The checks of R43 for a core. -/
def rectOk (r l : Nat) : Bool := bitN r 32 && rectX0 r ≤ rectX1 r && rectY0 r ≤ rectY1 r && inRect r l

/-- The cores whose arrivals reach a core: its right neighbour in the row, and on column X0 the core below in the
direction of Y1 (R141). -/
def feeders (r l : Nat) : List Nat :=
  (if logX l < rectX1 r then [l + 1] else []) ++
  (if logX l = rectX0 r && logY l < rectY1 r then [l + 256] else [])

/-- Where a core's arrival travels next; the corner has nowhere to send it (R141). -/
def barrierParent (r l : Nat) : Option Nat :=
  if rectX0 r < logX l then some (l - 1) else if rectY0 r < logY l then some (l - 256) else none

/-- A core's barrier state. -/
def barrierAt (c : Core) (r : Nat) : Barrier := tgetD c.bars r ⟨false, false, []⟩

/-- Put a core's barrier state. -/
def setBarrier (s : State) (p r : Nat) (b : Barrier) : State :=
  modCore s p fun c => { c with bars := tset c.bars r b }

/-- A core that has arrived, and to which every core that feeds it has sent, sends its summary on once; at the corner
the episode is released (R138, R141). -/
def sendSummary (s : State) (p r : Nat) : State :=
  let c := coreAt s p
  let b := barrierAt c r
  let rect := word (ctlOf c (0x10 + r))
  let need := (feeders rect.toNat c.logical).map fun l => (rect, l)
  if b.arrived && !b.sent && need.all b.held.contains then
    let s := setBarrier s p r { b with sent := true, held := b.held.filter fun x => !(need.contains x) }
    match barrierParent rect.toNat c.logical with
    | none => addEvent s (.barrierRelease c.lid r rect)
    | some l =>
      match physOf s c.lid l with
      | some q => addEvent s (.barrierArrival q r rect c.logical)
      | none => s
  else s

/-- The core arrives (R138, R139): a release. -/
def arrive (s : State) (r : Nat) : Res State := do
  let s ← release s
  let p := curP s
  .ok (sendSummary (setBarrier s p r { barrierAt (coreAt s p) r with arrived := true }) p r)

/-- The frame of BARA and BARW: the checks of R43. -/
def barrierOp (s : State) (g : Guard) (r : Nat) (body : Barrier → Res State) : Out :=
  gated s .uniform g (notRoaming s) false fun _ =>
    let c := coreAt s (curP s)
    if rectOk (ctlOf c (0x10 + r)) c.logical then body (barrierAt c r) else illegal s

/-- BARA: arrives and goes on; in a core that has arrived, the strand waits for the release and then arrives in the
next episode (R138). -/
def execBara (g : Guard) (k : BitVec 2) (s : State) : Out :=
  barrierOp s g k.toNat fun b =>
    if b.arrived then parkNow (.barrier k.toNat false s.ir.len)
    else do
      let s' ← arrive s k.toNat
      .ok (advance s')

/-- BARW: arrives if the core has not, and waits for the release (R138). -/
def execBarw (g : Guard) (k : BitVec 2) (s : State) : Out :=
  barrierOp s g k.toNat fun b =>
    if b.arrived then parkNow (.barrier k.toNat true s.ir.len)
    else do
      let s' ← arrive s k.toNat
      .error (.park (.barrier k.toNat true s.ir.len) (some s'))

/-- BARRIER_ARRIVAL: an arrival reaches a core, which counts it if it carries the core's own rectangle (R140,
R141). -/
def execBarrierArrival (p r : Nat) (rect : BitVec 64) (src : Nat) (s : State) : Out :=
  let b := barrierAt (coreAt s p) r
  done s (sendSummary (setBarrier s p r { b with held := b.held ++ [(rect, src)] }) p r)

/-- The release at one core: ARRIVED is cleared and its parked strands wake; a BARW has then completed, an acquire
(R138, R139). -/
def releaseAt (s : State) (p r : Nat) : State :=
  let b := barrierAt (coreAt s p) r
  let s := setBarrier s p r { b with arrived := false, sent := false }
  (strandsOf s p).foldl (fun acc e =>
    match e.2.run with
    | .parked (.barrier q w len) =>
      if q = r then
        let acc := if w then
            progress (setStrand acc e.1 { e.2 with pc := e.2.pc + BitVec.ofNat 48 len, skipBrk := false }) e.2.lid
          else acc
        wake acc e.1
      else acc
    | _ => acc) s

/-- The cores that take part in an episode: inside the rectangle and with that rectangle in BRECTr, having arrived. -/
def participants (s : State) (r : Nat) (rect : BitVec 64) : List Nat :=
  (s.cores.filter fun e => e.2.lid != 0 && inRect rect.toNat e.2.logical && (barrierAt e.2 r).arrived &&
    ctlOf e.2 (0x10 + r) == rect.toNat).map (·.1)

/-- BARRIER_RELEASE: the episode ends at every core of the rectangle (R138). -/
def execBarrierRelease (_lid r : Nat) (rect : BitVec 64) (s : State) : Out :=
  done s ((participants s r rect).foldl (fun acc p => releaseAt acc p r) s)

end Sys2Proof.Machine
end

