-- ==== Sys2Proof/Machine/Ctl.lean ====
section
/-!
DEFINITION. Control registers and traps: CTLR, CTLW, CTLX, TRAP, RTT, FENCE, NOP, GETID (spec/01 R40-R44; spec/04
R142-R147, R154, R157; spec/17 R392-R394).
-/

namespace Sys2Proof.Machine

/-- The numbers of R40. -/
def ctlExists (n : Nat) : Bool :=
  n ≤ 4 || (0x08 ≤ n && n ≤ 0x0D) || (0x10 ≤ n && n ≤ 0x17) || (0x18 ≤ n && n ≤ 0x1D) || (0x20 ≤ n && n ≤ 0x27)

/-- The read-only registers of R40. -/
def ctlReadOnly (n : Nat) : Bool := 0x18 ≤ n

/-- The registers of R40 that only a supervisor writes. -/
def ctlSupervisor (n : Nat) : Bool := 1 ≤ n && n ≤ 4

/-- A flag as a number. -/
def bit (b : Bool) (i : Nat) : Nat := if b then 2 ^ i else 0

/-- A header field of the launch of a strand. -/
def launchField (s : State) (lid off lo len : Nat) : Nat := ((launchAt s lid).map fun l => l.field off lo len).getD 0

/-- STATUS (R41). -/
def statusWord (s : State) (t : Strand) : Nat :=
  bit t.sv 0 + bit t.psv 1 + bit t.resumed 2 + bit (roaming t) 3 +
    launchField s t.lid 0x68 0 2 * 2 ^ 4 + launchField s t.lid 0x68 5 2 * 2 ^ 6

/-- The width of field `n` of a launch's work identifiers, and its lowest bit (R337). -/
def idWidth (s : State) (lid n : Nat) : Nat := launchField s lid 0x20 (8 * n) 8
def idLow (s : State) (lid n : Nat) : Nat := ((List.range n).map (idWidth s lid)).sum

/-- IDFn (R40, R337). -/
def idfWord (s : State) (lid n : Nat) : Nat :=
  if idWidth s lid n = 0 then 0 else idWidth s lid n % 2 ^ 7 + idLow s lid n % 2 ^ 6 * 2 ^ 8

/-- CORE (R40). -/
def coreWord (s : State) (p lid : Nat) : Nat :=
  (coreAt s p).logical % 2 ^ 16 + selfWord s lid * 2 ^ 32

/-- A control register read as a 64-bit value (R40). -/
def ctlRead (s : State) (n : Nat) : Nat :=
  let t := curStrand s
  let p := curP s
  match n with
  | 0x00 => statusWord s t
  | 0x01 => t.tvec.toNat
  | 0x02 => t.epc.toNat
  | 0x03 => t.ecause.toNat
  | 0x04 => t.eval.toNat
  | 0x20 => s.cycle + (Config.cycleSkew p).toNat
  | 0x21 => coreWord s p t.lid
  | 0x22 => curSlot s + t.role.toNat * 2 ^ 4
  | 0x23 => versionWord s
  | _ =>
    if 0x24 ≤ n && n ≤ 0x27 then fieldN s.hub.patchHash.toNat (64 * (n - 0x24)) 64
    else if 0x18 ≤ n && n ≤ 0x1D then idfWord s t.lid (n - 0x18)
    else ctlOf (coreAt s p) n

/-- The writable bits of a per-core register (R40, R43, R44). -/
def ctlMask (n v : Nat) : Nat :=
  if n ≤ 0x0B then fieldN v 0 31
  else if n = 0x0C then fieldN v 0 32
  else if n = 0x0D then fieldN v 6 42 * 2 ^ 6
  else if n ≤ 0x13 then fieldN v 0 33
  else fieldN v 5 12 * 2 ^ 5 + fieldN v 37 12 * 2 ^ 37

/-- Write a register of the strand (R40, R41). DEDUCED, log 40. -/
def ctlWriteStrand (t : Strand) (n v : Nat) : Strand :=
  match n with
  | 0 => { t with resumed := t.resumed && !(bitN v 2), psv := if t.sv then bitN v 1 else t.psv }
  | 1 => { t with tvec := BitVec.ofNat 48 (v / 4 * 4) }
  | 2 => { t with epc := BitVec.ofNat 48 v }
  | 3 => { t with ecause := BitVec.ofNat 8 v }
  | _ => { t with eval := word v }

/-- Write a register (R146); a rectangle whose episode is open is fixed (R140). -/
def ctlWrite (s : State) (n v : Nat) : Res State :=
  let p := curP s
  if n ≤ 4 then .ok (setCur s fun t => ctlWriteStrand t n v)
  else if 0x10 ≤ n && n ≤ 0x13 && (barrierAt (coreAt s p) (n - 0x10)).arrived then illegal s
  else .ok (modCore s p fun c => { c with ctl := tset c.ctl n (word (ctlMask n v)) })

/-- TSL is cleared by any read or write of EPC (R393). -/
def touchEpc (s : State) (n : Nat) : State := if n = 2 then setCur s fun t => { t with tsl := false } else s

/-- The check of a register number (R40, R146): whether a form may name it. -/
def ctlOk (n : Nat) (writes : Bool) : Bool := ctlExists n && !(writes && ctlReadOnly n)

/-- CTLR (R146). -/
def execCtlr (g : Guard) (d : NameIx) (r : BitVec 7) (s : State) : Out :=
  uniformOp s g false (ctlOk r.toNat false) [d] [] (fun _ _ => true) fun s' ds _ => do
    let s1 ← writeOne s' (nthD ds 0) (fitEither (nthD ds 0) (ctlRead s' r.toNat))
    .ok (advance (touchEpc s1 r.toNat))

/-- CTLW (R146). -/
def execCtlw (g : Guard) (a : NameIx) (r : BitVec 7) (s : State) : Out :=
  uniformOp s g (ctlSupervisor r.toNat) (ctlOk r.toNat true) [] [a] (fun _ _ => true) fun s' _ xs => do
    let s1 ← ctlWrite s' r.toNat (srcWord s (nth xs 0))
    .ok (advance (touchEpc s1 r.toNat))

/-- CTLX: ND receives the value before the write (R146). -/
def execCtlx (g : Guard) (d a : NameIx) (r : BitVec 7) (s : State) : Out :=
  uniformOp s g (ctlSupervisor r.toNat) (ctlOk r.toNat true) [d] [a] (fun _ _ => true) fun s' ds xs => do
    let old := ctlRead s' r.toNat
    let s1 ← ctlWrite s' r.toNat (srcWord s (nth xs 0))
    let s2 ← writeOne s1 (nthD ds 0) (fitEither (nthD ds 0) old)
    .ok (advance (touchEpc s2 r.toNat))

/-! ### Traps -/

/-- TRAP (R144). -/
def execTrap (g : Guard) (i : Imm 15) (s : State) : Out :=
  gated s .uniform g true false fun _ => trapNow cTRAP (immUnsigned i + bit i.ext.isSome 63)

/-- RTT (R145). -/
def execRtt (g : Guard) (s : State) : Out :=
  gated s .uniform g true true fun _ =>
    let t := curStrand s
    if t.epc.toNat % 4 != 0 then trapNow cALIGN t.epc.toNat else .ok (setCur s returnTrap)

/-! ### FENCE, NOP, GETID -/

/-- A command of an engine is a strand's, by the strand's number. -/
def Engine.works (e : Engine) (uid : Nat) : Bool :=
  e.executing.any (fun x => x.uid == uid) || e.queue.any fun x => x.uid == uid

/-- A command that the strand enqueued, or a copy that it started, has not completed, on this core or on one that the strand
has left (R142 class e). -/
def workPending (s : State) (k : Nat) : Bool :=
  let uid := (strandAt s k).uid
  s.cores.any fun c => c.2.mx.works uid || c.2.vx.works uid || c.2.copies.any fun x =>
    x.2.uid == uid && (x.2.status.isNone || writesWaiting s (copyAgent c.1 x.1))

/-- FENCE (R142, R143): accesses are performed in program order, so what remains to do is to perform the strand's stores
for w, which comes first, to wait for commands and copies for e, and to drop the line buffer for i. -/
def execFence (g : Guard) (d a : BitVec 4) (sc : BitVec 3) (s : State) : Out :=
  gated s .uniform g (sc.toNat ≤ 5) false fun _ =>
    if d = 0 || a = 0 then .ok (advance s)
    else do
      let s1 ← if bitN d.toNat 1 then settleStores s else .ok s
      if bitN d.toNat 2 && workPending s1 s1.cur then .error (.park .engines (some s1))
      else .ok (advance (if bitN a.toNat 3 then setCur s1 fun t => { t with lineBuf := none } else s1))

/-- NOP (R154). -/
def execNop (g : Guard) (s : State) : Out := gated s .uniform g true false fun _ => .ok (advance s)

/-- GETID (R157). -/
def execGetid (g : Guard) (d : NameIx) (f : BitVec 3) (s : State) : Out :=
  uniformOp s g false (f.toNat ≤ 5) [d] [] (fun _ _ => true) fun s' ds _ => do
    let t := curStrand s'
    let v := fieldN t.wid.toNat (idLow s' t.lid f.toNat) (idWidth s' t.lid f.toNat)
    let s1 ← writeOne s' (nthD ds 0) (fitEither (nthD ds 0) v)
    .ok (advance s1)

end Sys2Proof.Machine
end

