-- ==== Sys2Proof/Machine/Futures.lean ====
section
/-!
DEFINITION. The instructions on futures and shades: FNEW, FSET, FGET, FEXP, FDEC, PUBSH, STOPREF, SETTLE, FCANCEL, with
FUTNEW, FUTFREE and the update of a settle group (spec/05 R196-R202, R207-R209; spec/14 R358-R367).
-/

namespace Sys2Proof.Machine

/-- The handle a source holds: its low 32 bits. DEDUCED, log 12. -/
def srcHandle (s : State) (x : Src) : BitVec 32 := BitVec.ofNat 32 (srcWord s x)

/-- The entry a handle names, or FUTSTALE (R196). -/
def liveFut (s : State) (h : BitVec 32) : Res Future :=
  match futOf s h with
  | some f => .ok f
  | none => trapNow cFUTSTALE h.toNat

/-- The end of an instruction that writes its status to p1 (R196). -/
def endStatus (s : State) (ok : Bool) : State := advance (setCur s fun t => setP t 1 ok)

/-- An operation at an entry's home: the handle's check, the replay's order, the release, the step, which is logged as the
strand's (R196, R356, R358). DEDUCED, log 13. -/
def futStep (s : State) (op : Nat) (h : BitVec 32) (rel : Bool) (f : State → Future → FutLog → Res (State × Bool)) :
    Res State := do
  let e ← liveFut s h
  let s1 ← rrGate s op h.toNat
  let s2 ← if rel then release s1 else .ok s1
  let (s3, ok) ← f s2 e (strandLog s2 op)
  .ok (endStatus s3 ok)

/-- A future instruction without a destination: the handle in NA, the operand in NB. -/
def futOp (s : State) (g : Guard) (a b : NameIx) (body : State → BitVec 32 → Src → Res State) : Out :=
  uniformOp s g false true [] [a, b] (fun _ _ => true) fun s' _ xs =>
    body s' (srcHandle s (nth xs 0)) (nth xs 1)

/-- FNEW (R197, R360). -/
def execFnew (g : Guard) (d a : NameIx) (s : State) : Out :=
  uniformOp s g false true [d] [a] (fun _ _ => true) fun s' ds xs => do
    let n := srcInt s (nth xs 0)
    let di := nthD ds 0
    if n < 0 || 1048575 < n then trapNow cFUTCOUNT (zpat n 64)
    else
      match ← futChooseFor s' 1 with
      | some h => do
        let s1 ← rrGate s' 1 h.toNat
        let s2 := futLog (futAlloc s1 h (curStrand s1).lid n.toNat) 1 h
        let s3 ← writeOne s2 di (fitEither di h.toNat)
        .ok (endStatus s3 true)
      | none => do
        let s1 ← writeOne s' di (fitEither di 0)
        .ok (endStatus s1 false)

/-- FSET of a value, as the instruction and CONF.exit perform it (R152, R198). -/
def fsetStep (s : State) (h : BitVec 32) (v : Nat) (k : State → Bool → Res State) : Res State := do
  let e ← liveFut s h
  let s1 ← rrGate s 2 h.toNat
  let s2 ← release s1
  k (settle s2 h (.resolve (some (word v))) (strandLog s2 2)) (e.st = .pending)

/-- FSET (R198). -/
def execFset (g : Guard) (a b : NameIx) (s : State) : Out :=
  futOp s g a b fun s' h x => fsetStep s' h (srcWord s x) fun s2 ok => .ok (endStatus s2 ok)

/-- FEXP (R200). -/
def execFexp (g : Guard) (a b : NameIx) (s : State) : Out :=
  futOp s g a b fun s' h x =>
    let n := srcInt s x
    if n < 0 then trapNow cFUTCOUNT h.toNat
    else futStep s' 3 h true fun s2 f log =>
      if f.st ≠ .pending then .ok (logFut s2 h log, false)
      else if f.count + n.toNat > 1048575 then trapNow cFUTCOUNT h.toNat
      else .ok (logFut (setFut s2 (hIndex h) { f with count := f.count + n.toNat }) h log, true)

/-- FDEC (R200). -/
def execFdec (g : Guard) (a : NameIx) (s : State) : Out :=
  futOp s g a 0 fun s' h _ => futStep s' 4 h true fun s2 _ log =>
    match fdecAt s2 h log with
    | some r => .ok r
    | none => trapNow cFUTCOUNT h.toNat

/-- FCANCEL (R201, R202). -/
def execFcancel (g : Guard) (a b : NameIx) (s : State) : Out :=
  futOp s g a b fun s' h x =>
    let n := srcInt s x
    if n < 1 || 255 < n then trapNow cILLEGAL (zpat n 64)
    else futStep s' 7 h true fun s2 f log => .ok (settle s2 h (.cancel n.toNat) log, f.st = .pending)

/-- The caps of R207 on a shade that a strand publishes: the shade its task started on, and 14 after a stand-in
read. -/
def cappedShade (t : Strand) (sh : Nat) : Nat :=
  let sh := if t.task.isSome then Nat.min sh t.shade0.toNat else sh
  if flag7 t then Nat.min sh 14 else sh

/-- PUBSH (R207). -/
def execPubsh (g : Guard) (a b : NameIx) (s : State) : Out :=
  futOp s g a b fun s' h x =>
    let n := srcInt s x
    if n < 0 || 15 < n then trapNow cILLEGAL (zpat n 64)
    else futStep s' 5 h true fun s2 _ log => .ok (pubshAt s2 h (cappedShade (curStrand s2) n.toNat) s2.cur log)

/-- A producer of a greyed-out launch: the launch, and the key by logical core (R377). -/
def awayProducer (k : Nat) : Option (Nat × Nat) :=
  if 2 ^ 30 ≤ k then some ((k - 2 ^ 30) / 2 ^ 20, (k - 2 ^ 30) % 2 ^ 20) else none

/-- The notice that STOPREF sends to the producer (R208, R192); for one whose launch is greyed out it is kept with the
launch (R377). -/
def stopNotice (s : State) (h : BitVec 32) (f : Future) : State :=
  let note (p : Nat) : Instr := .mailboxDelivery p 1 (BitVec.setWidth 64 h)
    (word (senderWord s (curStrand s).lid (curP s) (curSlot s) 0 + 2 ^ 63))
  match f.producer with
  | none => s
  | some k =>
    match awayProducer k with
    | none => addEvent s (note (keyCore k))
    | some (lid, k') => { s with saved := tmap s.saved fun i x =>
        if i = lid then { x with events := x.events ++ [note (keyCore k')] } else x }

/-- The input future of the task that a strand runs (R203). -/
def ownInput (s : State) (t : Strand) : BitVec 32 := ((t.task.bind (taskAt s)).map (·.waitf)).getD 0

/-- STOPREF (R208); on the strand's own input it is noted for the retirement (R364). -/
def execStopref (g : Guard) (a : NameIx) (s : State) : Out :=
  futOp s g a 0 fun s' h _ => futStep s' 6 h false fun s2 f log =>
    let s3 := setCur s2 fun t => if h != 0 && ownInput s2 t == h then { t with stopped := true } else t
    if f.st = .pending then
      let s4 := logFut (setFut s3 (hIndex h) { f with stop := true }) h log
      .ok (if f.pub then stopNotice s4 h f else s4, true)
    else .ok (logFut s3 h log, false)

/-- The strand that issues waits on an entry: it joins the list, if its home has a node (R362). -/
def waitFut {α : Type} (s : State) (h : BitVec 32) (min : Nat) : Res α :=
  let i := hIndex h
  if 65536 ≤ nodesAt s (futHome i) then parkNow (.nodes (futHome i))
  else .error (.park (.future h min) (some (joinFut s i ⟨.strand, s.cur, min⟩)))

/-- What a strand was served while it waited on a handle. -/
def servedOn (t : Strand) (h : BitVec 32) : Option (BitVec 64 × Bool) :=
  match t.answer with
  | some (.future a v ok) => if a = h then some (v, ok) else none
  | _ => none

/-- What a strand that waits with a minimum shade receives: what it was served on this handle, or the entry's Value once
the entry has settled or reached the shade (R199). `s0` is the state without the reading of the sources. -/
def awaitFut (s0 s : State) (h : BitVec 32) (min : Nat) : Res (BitVec 64 × Bool) :=
  match servedOn (curStrand s) h with
  | some r => .ok r
  | none => do
    let f ← liveFut s h
    if f.st = .resolved || f.st = .cancelled || (f.pub && min ≤ f.shade.toNat) then .ok (f.value, f.st ≠ .cancelled)
    else waitFut s0 h min

/-- FGET (R199). -/
def execFget (g : Guard) (d a : NameIx) (sh : BitVec 4) (s : State) : Out :=
  uniformOp s g false true [d] [a] (fun _ _ => true) fun s' ds xs => do
    unlocked s ds
    let (v, ok) ← awaitFut s s' (srcHandle s (nth xs 0)) sh.toNat
    let s1 ← writeOne s' (nthD ds 0) (fitEither (nthD ds 0) v.toNat)
    .ok (endStatus (progressCur s1) ok)

/-- SETTLE (R209): waits for the entry to settle, which is for shade 15 (R359). -/
def execSettle (g : Guard) (a : NameIx) (s : State) : Out :=
  uniformOp s g false true [] [a] (fun _ _ => true) fun s' _ xs => do
    let (_, ok) ← awaitFut s s' (srcHandle s (nth xs 0)) 15
    .ok (endStatus (progressCur s') ok)

/-! ### Device registers and settle groups -/

/-- FUTNEW: a read of the register allocates an unowned entry (R427). -/
def execFutnew (s : State) : Out := done s (futNewUnowned s).1

/-- FUTFREE: frees a named unowned entry that has settled (R361, R427). DEDUCED, log 46. -/
def execFutfree (v : BitVec 64) (s : State) : Out :=
  let h := BitVec.setWidth 32 v
  match futOf s h with
  | some f => done s (if f.owner = 0 && (f.st = .resolved || f.st = .cancelled) then futRelease s (hIndex h) else s)
  | none => done s s

/-- GROUP_MEMBER_UPDATE: a member's home lowers its settle group's count, or cancels the group with the member's code;
a stale or settled group, and a count of 0, are left alone (R367). It is logged as FDEC or FCANCEL, on a settled group too
(R358). DEDUCED, log 13. -/
def execGroupMemberUpdate (h : BitVec 32) (code : Nat) (s : State) : Out :=
  match futOf s h with
  | some f =>
    let op := if code = 0 then 4 else 7
    match rrAllow s f.owner op h.toNat 0 with
    | none => again s (.groupMemberUpdate h code)
    | some s1 =>
      let log : FutLog := ⟨op, f.owner, 0, false⟩
      done s (if code = 0 then ((fdecAt s1 h log).map (·.1)).getD (logFut s1 h log) else settle s1 h (.cancel code) log)
  | none => done s s

end Sys2Proof.Machine
end

