-- ==== Sys2Proof/Machine/EngineQueue.lean ====
section
/-!
DEFINITION. The queues, FIFOs and completion of the MX and VX engines: ENQ, POP, EPEEK, ERES, commands with a
reserved code, and the trap of an operand fault (spec/05 R182-R186; spec/06 R212-R213, R220-R225; spec/17 R399-R400).
-/

namespace Sys2Proof.Machine

/-- An engine of a core, 0 MX, 1 VX. -/
def engineAt (c : Core) (e : Nat) : Engine := if e = 0 then c.mx else c.vx

/-- Put an engine of a core. -/
def setEngine (s : State) (p e : Nat) (x : Engine) : State :=
  modCore s p fun c => if e = 0 then { c with mx := x } else { c with vx := x }

/-- An OPC belongs to an engine (R213). DEDUCED, log 36. -/
def opcOk (e opc : Nat) : Bool :=
  if e = 0 then (1 ≤ opc && opc ≤ 4) || (0x10 ≤ opc && opc ≤ 0x13) else 0x20 ≤ opc && opc ≤ 0x29

/-- A VX function selector is reserved (R237, R238, R241, R246). -/
def selReserved (opc sel : Nat) : Bool :=
  match opc with
  | 0x20 => 12 ≤ sel
  | 0x21 => 6 ≤ sel
  | 0x24 => 2 ≤ sel
  | 0x29 => 2 ≤ sel
  | _ => false

/-- The operation that a command is (R213). -/
def commandEvent (p e : Nat) (cmd : EngineCmd) : Instr :=
  if cmd.eng != e || !(opcOk e cmd.opc) || selReserved cmd.opc cmd.sel then .reservedCommand p e
  else
    match cmd.opc with
    | 0x01 => .mma p
    | 0x02 => .mmas p
    | 0x03 => .mmaq p
    | 0x04 => .mmat p
    | 0x10 => .accz p
    | 0x11 => .accld p
    | 0x12 => .accst p
    | 0x13 => .accadd p
    | 0x20 => .vtmap p
    | 0x21 => .vtbin p
    | 0x22 => .vtred p
    | 0x23 => .vtsmax p
    | 0x24 => .vtnorm p
    | 0x25 => .vtcvt p
    | 0x26 => .vthaar p
    | 0x27 => .vtihaar p
    | 0x28 => .vtconf p
    | _ => if cmd.sel = 0 then .vtkvLoad p else .vtkvStore p

/-- An engine that executes nothing takes the next command of its queue (R220). DEDUCED, log 35. -/
def startNext (s : State) (p e : Nat) : State :=
  let x := engineAt (coreAt s p) e
  match x.executing, x.queue with
  | none, cmd :: rest =>
    let s := addEvent (setEngine s p e { x with executing := some cmd, queue := rest }) (commandEvent p e cmd)
    wakeWhere s fun k _ w => keyCore k == p && w == .engineRoom e
  | _, _ => s

/-! ### Completion -/

/-- What a command leaves for its element (R224); `handle` is its stand-in handle (R366). -/
structure Result where
  shade   : Nat
  aux     : Nat := 0
  flags   : BitVec 8 := 0
  standin : Bool := false
  handle  : BitVec 32 := 0

/-- The result element (R184, R224). DESIGN CHOICE, log 37. -/
def elementOf (cmd : EngineCmd) (status : Nat) (r : Result) : BitVec 64 :=
  word (2 ^ 63 + cmd.opc * 2 ^ 48 + (if status = 0 then r.aux % 2 ^ 16 else 0) * 2 ^ 32 + cmd.tag * 2 ^ 24 +
    r.shade % 2 ^ 8 * 2 ^ 16 + status * 2 ^ 8 + (if status = 0 then r.flags.toNat / 2 % 2 ^ 7 * 2 else 0) +
    (if r.standin then 1 else 0))

/-- STATUS of an element. -/
def elementStatus (x : BitVec 64) : Nat := fieldN x.toNat 8 8

/-- The element with FNOP set. -/
def withFnop (x : BitVec 64) : BitVec 64 := x ||| 0x80

/-- The element turned to status FUTURE: bits [7:1] and AUX are 0 (R223, R224). -/
def withFuture (x : BitVec 64) : BitVec 64 :=
  word (setFieldN (setFieldN (setFieldN x.toNat 32 16 0) 8 8 13) 1 7 0)

/-- The shade a PUBSH publishes: the header's of a Haar destination, which VTHAAR takes from SEL, otherwise the
element's (R223). -/
def publishedShade (cmd : EngineCmd) (x : BitVec 64) : Nat :=
  if cmd.opc = 0x26 then cmd.sel % 16 else fieldN x.toNat 16 8

/-- The action on FUT at a completion with status 0, logged (R223, R358): the state and the element. -/
def futureAction (s : State) (p : Nat) (cmd : EngineCmd) (x : BitVec 64) (log : FutLog) : State × BitVec 64 :=
  match futOf s cmd.fut with
  | none => (logFut s cmd.fut log, withFuture x)
  | some f =>
    let noted (r : State × Bool) : State × BitVec 64 := (r.1, if r.2 then x else withFnop x)
    match cmd.fact with
    | 0 => noted (settle s cmd.fut (.resolve (some x)) log, f.st = .pending)
    | 1 =>
      match fdecAt s cmd.fut log with
      | some r => noted r
      | none => (logFut s cmd.fut log, withFuture x)
    | _ =>
      let sh := Nat.min (publishedShade cmd x) cmd.cap
      noted (pubshAt s cmd.fut (if bitN x.toNat 0 then Nat.min sh 14 else sh) (16 * p + cmd.slot) log)

/-- What FUT undergoes at completion, with the turn it has to wait for in a replay and its record: the action, or FCANCEL after
a status of 1 to 12, unless its handle is stale (R223, R355, R358). None while its turn has not come. -/
def onFuture (s : State) (p e : Nat) (cmd : EngineCmd) (x : BitVec 64) : Option (State × BitVec 64) :=
  if cmd.fut = 0 then some (s, x)
  else
    let who := senderWord s cmd.lid p cmd.slot (e + 1)
    match rrAllow s cmd.lid 9 cmd.fut.toNat who with
    | none => none
    | some s =>
      let st := elementStatus x
      let log : FutLog := ⟨9, cmd.lid, who, false⟩
      some (
        if st = 0 then futureAction s p cmd x log
        else if st ≤ 12 && (futOf s cmd.fut).isSome then (settle s cmd.fut (.cancel st) log, x)
        else (logFut s cmd.fut log, x))

/-- The element enters the FIFO: progress of the launch, the engine goes on to its next command, and who waits for an
element, or wherever it is now for a command of its own, looks again (R39, R142, R220, R352). -/
def enterElement (s : State) (p e : Nat) (cmd : EngineCmd) (x : BitVec 64) (handle : BitVec 32) : State :=
  let n := engineAt (coreAt s p) e
  let s := setEngine s p e { n with executing := none, work := none, finished := none, stalled := none,
                                    fifo := n.fifo ++ [(x, handle)] }
  let s := progress s cmd.lid
  let s := wakeWhere s fun k t w => (keyCore k == p && w == .element e) || (t.uid == cmd.uid && w == .engines)
  startNext s p e

/-- A command completes with its element; while the FIFO is full, a write of the engine waits at a reserved word's home, or a
replay holds its future action, the engine keeps the completion (R39, R177, R220). DEDUCED, log 35. -/
def complete (s : State) (p e : Nat) (cmd : EngineCmd) (x : BitVec 64) (handle : BitVec 32) : State :=
  let n := engineAt (coreAt s p) e
  let held := addEvent (setEngine s p e { n with finished := some (x, handle), work := none, stalled := none })
    (commandEvent p e cmd)
  if 8 ≤ n.fifo.length || writesWaiting s (engineAgent p e) then held
  else
    match onFuture s p e cmd x with
    | some r => enterElement r.1 p e cmd r.2 handle
    | none => held

/-- A command stops on a missing translation: nothing is changed but the fault entry and the trap that its strand
owes (R399). -/
def engStop (s : State) (p e : Nat) (cmd : EngineCmd) (level acc va : Nat) : State :=
  let n := engineAt (coreAt s p) e
  let s := setEngine s p e { n with fault := some (BitVec.ofNat 48 va, acc) }
  let s := postFault s (clusterOf p)
    (faultEntry level acc va (e + 1) cmd.slot (coreAt s p).logical cmd.lid (asidOf s cmd.lid))
  match cmd.key with
  | some k => addEvent s (.engineFaultTrap k (word (2 ^ 62 + e * 2 ^ 56 + cmd.tag * 2 ^ 48 + va % 2 ^ 48)))
  | none => s

/-- A command ends with what it did, a status, or a stop (R220, R221). -/
def concluded (s : State) (p e : Nat) (cmd : EngineCmd) (r : Eng (State × Result)) : State :=
  match r with
  | .ok (s', x) => complete s' p e cmd (elementOf cmd 0 x) x.handle
  | .error (.status c) => complete s p e cmd (elementOf cmd c { shade := 15 }) 0
  | .error (.missing l a va) => engStop s p e cmd l a va
  | .error .hold => addEvent s (commandEvent p e cmd)
  | .error (.stall pa) => setEngine s p e { engineAt (coreAt s p) e with stalled := some pa }

/-- The frame of a command's operation: an engine that runs nothing, or is stopped, does nothing; a completion that was
kept is tried again; otherwise the command runs. DEDUCED, log 13. DEDUCED, log 35. -/
def runCommand (s : State) (p e : Nat) (f : EngineCmd → State) : Out :=
  let n := engineAt (coreAt s p) e
  done s <|
    match n.executing with
    | none => s
    | some cmd =>
      if n.fault.isSome then s
      else
        match n.finished with
        | some (x, h) => complete s p e cmd x h
        | none => f cmd

/-- RESERVED_COMMAND: OPCODE for a reserved OPC or ENG, or an ENG that the ENQ does not name; FIELD for a reserved
selector (R213, R221). -/
def execReservedCommand (p e : Nat) (s : State) : Out :=
  runCommand s p e fun cmd =>
    concluded s p e cmd (.error (.status (if cmd.eng != e || !(opcOk e cmd.opc) then 1 else 2)))

/-! ### ENQ, POP, EPEEK, ERES -/

/-- What ENQ captures (R147, R182, R222, R443). -/
def capture (s : State) (off : Nat) : EngineCmd :=
  let c := coreAt s (curP s)
  let t := curStrand s
  { words := BitVec.ofNat 256 (loadPhys s (lsBase (curP s) + off) 32), off := off,
    tau := (List.range 4).map fun i => BitVec.ofNat 32 (ctlOf c (8 + i)), kvdesc := word (ctlOf c 0x0D), sv := t.sv,
    peers := outerPeers s (curP s), key := some s.cur, uid := t.uid, born := s.tick, slot := curSlot s,
    cap := if t.task.isSome then t.shade0.toNat else 15, lid := t.lid }

/-- ENQ (R182): a release; the command never traps on its contents. -/
def execEnq (g : Guard) (a : NameIx) (e : BitVec 1) (s : State) : Out :=
  uniformOp s g false true [] [a] (fun _ is => allInt is) fun s' _ xs =>
    let ea := (nth xs 0).pat 0 % 2 ^ 48
    let p := curP s'
    if ea % 32 != 0 then trapNow cALIGN ea
    else if 0x2_0000 ≤ ea then trapNow cPROTECT ea
    else if (poisoned s' (lsBase p + ea) 32).isSome then trapNow cMCHECK (ea + 2 ^ 56)
    else if 2 ≤ (engineAt (coreAt s' p) e.toNat).queue.length then parkNow (.engineRoom e.toNat)
    else do
      let s1 ← release s'
      let n := engineAt (coreAt s1 p) e.toNat
      let s2 := setEngine s1 p e.toNat { n with queue := n.queue ++ [capture s1 ea] }
      .ok (advance (startNext s2 p e.toNat))

/-- The strand takes an element: f7, and the stand-in handle if it holds none (R185, R366). -/
def noteStandin (t : Strand) (x : BitVec 64) (handle : BitVec 32) : Strand :=
  if bitN x.toNat 0 then { setFlags t (flagBit 7) with standIn := if t.standIn = 0 then handle else t.standIn } else t

/-- POP (R185). -/
def execPop (g : Guard) (d : NameIx) (e : BitVec 1) (s : State) : Out :=
  uniformOp s g false true [d] [] (fun _ _ => true) fun s' ds _ => do
    unlocked s ds
    let p := curP s'
    let n := engineAt (coreAt s' p) e.toNat
    match n.fifo with
    | [] => if n.executing.isSome || !n.queue.isEmpty then parkNow (.element e.toNat) else illegal s
    | (x, h) :: rest =>
      let s1 := setEngine s' p e.toNat { n with fifo := rest }
      if elementStatus x != 0 then .error (.trap cENGINE x.toNat (some s1))
      else do
        let s2 ← writeOne (progressCur s1) (nthD ds 0) (fitEither (nthD ds 0) x.toNat)
        .ok (advance (setCur s2 fun t => noteStandin t x h))

/-- EPEEK sets no flag (R186). -/
def execEpeek (g : Guard) (d : NameIx) (e : BitVec 1) (s : State) : Out :=
  uniformOp s g false true [d] [] (fun _ _ => true) fun s' ds _ => do
    let n := engineAt (coreAt s' (curP s')) e.toNat
    let v := (n.fifo.head?.map fun x => x.1.toNat).getD 0
    let s1 ← writeOne s' (nthD ds 0) ((fitEither (nthD ds 0) v).map fun r => (r.1, 0))
    .ok (advance s1)

/-- A stopped engine starts its command again from the operand fetch (R400). -/
def resumeEngine (s : State) (p e : Nat) : State :=
  let n := engineAt (coreAt s p) e
  match n.fault, n.executing with
  | some _, some cmd => addEvent (setEngine s p e { n with fault := none }) (commandEvent p e cmd)
  | _, _ => s

/-- Copies of a core that wait on a fault translate again (R401). -/
def resumeCopies (s : State) (p : Nat) (which : Copy → Bool) : State :=
  (coreAt s p).copies.foldl (fun acc e =>
    if e.2.fault.isSome && which e.2 then
      addEvent (modCore acc p fun c => { c with copies := tset c.copies e.1 { e.2 with fault := none } })
        (if e.2.mode = 7 then .tableSlotWrite p e.1 else .copyChunk p e.1)
    else acc) s

/-- ERES: supervisor only; no effect on an engine that is not stopped (R158, R400, R401). -/
def execEres (g : Guard) (e : BitVec 2) (s : State) : Out :=
  gated s .uniform g (e.toNat < 3) true fun _ =>
    let p := curP s
    .ok (advance (if e = 2 then resumeCopies s p fun _ => true else resumeEngine s p e.toNat))

/-- ENGINE_FAULT_TRAP: the enqueuing strand owes an ENGINE trap; parked, it is woken to take it, unless it is parked on
a page fault (R399) or its instruction has to end first. -/
def execEngineFaultTrap (k : Nat) (val : BitVec 64) (s : State) : Out :=
  match tget s.strands k with
  | none => done s s
  | some _ => done s (oweTrap s k cENGINE val)

end Sys2Proof.Machine
end

