-- ==== Sys2Proof/Machine/Fabric.lean ====
section
/-!
DEFINITION. The logical torus of a launch and the routes to its modules (spec/18 R412-R415).
-/

namespace Sys2Proof.Machine

/-- The context of a launch. -/
def ctxOf (s : State) (lid : Nat) : Nat := ((launchAt s lid).map (·.ctx)).getD 0

/-- A logical module, x, y and z from bit 0, lies in the torus of a launch's context (R412). -/
def inTorus (s : State) (lid m : Nat) : Bool :=
  let t := devReg s (0x1010 + 32 * ctxOf s lid)
  fieldN m 0 4 ≤ fieldN t 0 4 && fieldN m 4 4 ≤ fieldN t 4 4 && fieldN m 8 4 ≤ fieldN t 8 4

/-- The route entry of a logical module in a context (R413). -/
def routeEntry (s : State) (ctx m : Nat) : Nat := loadPhys s (devReg s (0x1008 + 32 * ctx) / 4 * 4 + 4 * m) 4

/-- A route entry that a packet may follow: valid, no reserved value (R413, R414). -/
def routeOk (s : State) (lid m : Nat) : Bool :=
  let e := routeEntry s (ctxOf s lid) m
  bitN e 31 && fieldN e 19 12 == 0 && fieldN e 16 3 ≤ 5 && fieldN e 12 4 == 0

end Sys2Proof.Machine
end

