-- ==== Sys2Proof/Machine/Copies.lean ====
section
/-!
DEFINITION. The CX engine: CXSET, CXGO, the copy modes, their chunks and their completion (spec/05 R187, R188;
spec/06 R247-R253; spec/07 R272, R273; spec/14 R379; spec/17 R401).
-/

namespace Sys2Proof.Machine

/-! ### Shadow registers (R247-R249) -/

/-- A captured shadow register, numbered as CXSET numbers them. -/
def Copy.reg (c : Copy) (i : Nat) : Nat := (c.regs.getD i 0).toNat

def Copy.src (c : Copy) : Nat := fieldN (c.reg 0) 0 48
def Copy.dst (c : Copy) : Nat := fieldN (c.reg 1) 0 48
def Copy.dim (c : Copy) (i : Nat) : Nat := fieldN (c.reg (2 + i)) 0 24

/-- The signed steps between runs of dimension `i + 1`: source and destination. -/
def Copy.srcStep (c : Copy) (i : Nat) : Int := toSigned 32 (fieldN (c.reg (5 + i)) 0 32)
def Copy.dstStep (c : Copy) (i : Nat) : Int := toSigned 32 (fieldN (c.reg (5 + i)) 32 32)

/-- A field of CXMESH, CXMODE. -/
def Copy.mesh (c : Copy) (lo len : Nat) : Nat := fieldN (c.reg 8) lo len
def Copy.opt (c : Copy) (lo len : Nat) : Nat := fieldN (c.reg 9) lo len

def Copy.w (c : Copy) : Nat := c.mesh 16 8 + 1
def Copy.h (c : Copy) : Nat := c.mesh 24 8 + 1
def Copy.blk (c : Copy) : Nat := c.mesh 32 8 + 1
def Copy.esize (c : Copy) : Nat := 2 ^ c.opt 5 2

/-- The modules of the box, x, y and z from bit 0 (R249). -/
def Copy.modules (c : Copy) : List Nat :=
  (List.range (c.mesh 60 4 + 1)).flatMap fun z => (List.range (c.mesh 56 4 + 1)).flatMap fun y =>
    (List.range (c.mesh 52 4 + 1)).map fun x =>
      c.mesh 40 4 + x + (c.mesh 44 4 + y) * 16 + (c.mesh 48 4 + z) * 256

/-- A module coordinate of the box stays below 16. -/
def Copy.boxFits (c : Copy) : Bool :=
  c.mesh 40 4 + c.mesh 52 4 < 16 && c.mesh 44 4 + c.mesh 56 4 < 16 && c.mesh 48 4 + c.mesh 60 4 < 16

/-- Logical core number `i` of the rectangle (R249). -/
def Copy.core (c : Copy) (i : Nat) : Nat := 256 * (c.mesh 8 8 + i / c.w) + c.mesh 0 8 + i % c.w

/-- The logical cores of the rectangle. -/
def Copy.cores (c : Copy) : List Nat := (List.range (c.w * c.h)).map c.core

/-! ### The checks before any byte moves (R252) -/

/-- The must-be-0 bits and limits of R247 to R251; SLAB ignores CXDIM2. DEDUCED, log 38. DESIGN CHOICE, log 50. -/
def copyFieldOk (c : Copy) : Bool :=
  let m := c.mode
  fieldN (c.reg 0) 48 16 == 0 && fieldN (c.reg 1) 48 16 == 0 &&
  (List.range 3).all (fun i => fieldN (c.reg (2 + i)) 24 40 == 0 && 1 ≤ c.dim i) &&
  fieldN (c.reg 7) 48 16 == 0 && (m == 3 || m == 4 || c.reg 7 == 0) &&
  (m == 2 || m == 5 || m == 6 || c.reg 8 == 0) && (m == 6 || c.mesh 40 24 == 0) &&
  c.opt 15 49 == 0 && c.opt 4 1 == 0 &&
  (if m == 0 || m == 3 || m == 4 || m == 5 then c.dim 2 == 1 else true) &&
  (if m == 6 then c.dim 1 == 1 && c.dim 2 == 1 && c.esize == (if c.opt 9 3 = 1 then 2 else 4) &&
      c.w * c.h * ((c.mesh 52 4 + 1) * (c.mesh 56 4 + 1) * (c.mesh 60 4 + 1)) ≤ 2 ^ 27 else true) &&
  (if m == 7 then c.dim 0 % 16 == 0 && c.dim 0 ≤ 256 && c.dim 1 == 1 && c.dim 2 == 1 && c.dst < 16 else true)

/-- Every address and every step is a multiple of ESIZE, the index array's too, and the source of a TABLE is 16-byte
aligned; the slot number that CXDST gives a TABLE is no address (R252). DEDUCED, log 38. -/
def copyAligned (c : Copy) : Bool :=
  let e : Int := c.esize
  let ok (v : Int) : Bool := v % e == 0
  ok c.src && (c.mode == 7 || ok c.dst) && ok (c.srcStep 0) && ok (c.dstStep 0) && ok (c.srcStep 1) && ok (c.dstStep 1) &&
  ok (c.reg 7) && (c.mode != 7 || c.src % 16 == 0)

/-- The greatest block-local run number of a SLAB of `n` runs: the multiplier of its destination step (R250). -/
def slabReach (c : Copy) (n : Nat) : Nat :=
  let g := c.blk * (c.w * c.h)
  (n - 1) / g * c.blk + Nat.min ((n - 1) % g) (c.blk - 1)

/-- A run of a local store that starts at an offset lies in it. -/
def inStore (off : Int) (n : Nat) : Bool := 0 ≤ off && off + n ≤ 131072

/-- Cores, modules and offsets exist (R252 RANGE). DEDUCED, log 38. -/
def copyInRange (s : State) (c : Copy) : Bool :=
  let m := c.mode
  let rect := c.mesh 0 8 + c.w ≤ 256 && c.mesh 8 8 + c.h ≤ 256 && c.cores.all fun l => (physOf s c.lid l).isSome
  let base : Int := c.dst % 2 ^ 17
  let ends (q : Nat) : Bool := inStore base (c.dim 0) && inStore (base + q * c.dstStep 0) (c.dim 0)
  if m == 2 then rect && ends (slabReach c (c.dim 1))
  else if m == 5 then rect && ends (c.dim 1 - 1)
  else if m == 6 then
    rect && inStore (c.src % 2 ^ 17 : Nat) (c.dim 0) && c.boxFits &&
      c.modules.all fun x => inTorus s c.lid x && (x == selfWord s c.lid || routeOk s c.lid x)
  else true

/-- The status that the checks find, 0 for none: MODE, FIELD, ALIGN, RANGE in this order (R252). DEDUCED, log 38. -/
def copyStatus (s : State) (c : Copy) : Nat :=
  if 8 ≤ c.mode || (c.mode == 6 && (3 ≤ c.opt 9 3 || c.opt 7 2 == 3)) then 1
  else if !copyFieldOk c then 2
  else if !copyAligned c then 3
  else if !copyInRange s c then 4
  else 0

/-! ### CXSET and CXGO (R187) -/

/-- CXSET. -/
def execCxset (g : Guard) (a : NameIx) (r : BitVec 4) (s : State) : Out :=
  uniformOp s g false (r.toNat < 10) [] [a] (fun _ _ => true) fun s' _ xs =>
    .ok (advance (modCore s' (curP s') fun c => { c with cx := tset c.cx r.toNat (word (srcWord s (nth xs 0))) }))

/-- The operation of a mode (R248). -/
def copyEvent (p id mode : Nat) : Instr :=
  match mode with
  | 0 => .copy2 p id
  | 1 => .copy3 p id
  | 2 => .slab p id
  | 3 => .gather p id
  | 4 => .scatter p id
  | 5 => .bcast p id
  | 6 => .reduce p id
  | _ => .table p id

/-- What CXGO captures. -/
def captureCopy (s : State) : Copy :=
  let c := coreAt s (curP s)
  let t := curStrand s
  let regs := (List.range 10).map fun i => tgetD c.cx i 0
  { regs := regs, peers := outerPeers s (curP s), uid := t.uid, slot := curSlot s, lid := t.lid, asid := asidOf s t.lid,
    sv := t.sv, mode := fieldN (regs.getD 9 0).toNat 0 4, run := 0, off := 0, bytes := 0, status := none, fault := none,
    index := none, old := [], cover := [], held := none, part := [], dests := [] }

/-- CXGO: a release; the identifiers count from 1 to 65,535. -/
def execCxgo (g : Guard) (d : NameIx) (s : State) : Out :=
  uniformOp s g false true [d] [] (fun _ _ => true) fun s' ds _ => do
    let p := curP s'
    if 4 ≤ (coreAt s' p).copies.length then parkNow .copyRoom
    else do
      let s1 ← release s'
      let id := (coreAt s1 p).nextId
      let c := captureCopy s1
      let s2 := modCore s1 p fun x => { x with copies := tset x.copies id c, nextId := id % 65535 + 1 }
      let s3 := addEvent s2 (copyEvent p id (if c.mode < 8 then c.mode else 0))
      let s4 ← writeOne s3 (nthD ds 0) (fitEither (nthD ds 0) id)
      .ok (advance s4)

/-! ### Chunks (R401) -/

/-- How a chunk ends before it moves anything: with a status, on a missing translation, or to be tried again. -/
inductive CxStop where
  | status (code : Nat)
  | fault (level access va : Nat)
  | hold

abbrev Cx (α : Type) := Except CxStop α

/-- One side of a run: a virtual address, or an offset in the local store of a logical core, reached through its global
alias. -/
inductive Side where
  | virt (va : Nat)
  | store (core off : Nat)

/-- The place `n` bytes into a side. -/
def Side.plus (x : Side) (n : Nat) : Side :=
  match x with
  | .virt va => .virt ((va + n) % 2 ^ 48)
  | .store l off => .store l (off + n)

/-- The bytes left in a side's 4 KiB page. -/
def Side.room (x : Side) : Nat :=
  match x with
  | .virt va => 4096 - va % 4096
  | .store _ off => 4096 - off % 4096

/-- The first and last address that the translation of an address covers, a range descriptor or an entry that a TLB holds. -/
def coveredBy (s : State) (p lid asid va : Nat) : Nat × Nat :=
  let range : Option RangeEnt := match launchAt s lid with
    | some l => l.ranges.find? fun (r : RangeEnt) => decide (r.vbase ≤ va) && decide (va ≤ r.vlast)
    | none => none
  match range with
  | some r => (r.vbase, r.vlast)
  | none =>
    match tlbFind s (.core p) asid va .read with
    | some e => (e.va, e.va + 2 ^ e.bits - 1)
    | none => (va, va)

/-- A side's `n` bytes, which lie in one page, as parts (R252, R401). A near-region window that is neither a local store
nor the vault ends the copy with PROTECT: R252 names the decoding views, not the full/empty and table-store windows.
DESIGN CHOICE, log 50. -/
def sideParts (s : State) (p : Nat) (c : Copy) (acc : Access) (n : Nat) (x : Side) : Cx (State × List Part) :=
  match x with
  | .store l off =>
    match physOf s c.lid l with
    | some q => .ok (s, (pieces (lsBase q + off) n).map fun y => ⟨y.1, y.2, y.1, 0⟩)
    | none => .error (.status 4)
  | .virt va =>
    let from' (pa leaf : Nat) : List Part := (pieces va n).map fun y => ⟨y.1, y.2, pa + (y.1 - va), leaf⟩
    if isNear va then
      match nearKept s c.peers p va n with
      | .raw q off => .ok (s, from' (lsBase q + off) 0)
      | .vault v off => .ok (s, from' (vaultBase v + off) 0)
      | _ => .error (.status 5)
    else
      match translate s c.lid (.core p) c.asid c.sv acc va with
      | .ok (s', pa, leaf) =>
        match placeOf s' pa with
        | .device _ => .error (.status 5)
        | _ => .ok (s', from' pa leaf)
      | .error (.missing l) => .error (.fault l (if acc = .write then 5 else 4) va)
      | .error (.mcheck _) => .error (.status 6)
      | .error (.held _) => .error .hold
      | .error _ => .error (.status 5)

/-- A destination that may be written now: off the state array of the core's own region, no page under migration, no granule
with an error that it would not replace whole (R373, R304, R403). DEDUCED, log 38. -/
def sideWritable (s : State) (p : Nat) (c : Copy) (ps : List Part) : Cx Unit :=
  if hitsState s p c.lid (ps.map fun x => (x.pa, x.n)) then .error (.status 5)
  else if ps.any fun y => y.leaf != 0 && pageHeld s c.asid y.va then .error .hold
  else if partsUnhealed s ps then .error (.status 6)
  else .ok ()

/-- The bytes of parts as the copy may read them: a byte that it has itself written reads as it stands, or as it stood
before; which of the two is free (R253). DEDUCED, log 38. -/
def copyRead (s : State) (c : Copy) (ps : List Part) : Nat :=
  ps.foldr (fun x acc =>
    let v := c.old.foldl (fun v o =>
      if x.pa ≤ o.1 && o.1 < x.pa + x.n && Config.freeBit (Config.draw (Config.draw s.tick 2) o.1)
      then setFieldN v (8 * (o.1 - x.pa)) 8 o.2.toNat else v) (loadPhys s x.pa x.n)
    v + 2 ^ (8 * x.n) * acc) 0

/-- Parts with their bytes, cut from the bytes of the whole. -/
def cutBytes (v : Nat) : List Part → List (Part × Nat)
  | [] => []
  | x :: r => (x, v % 2 ^ (8 * x.n)) :: cutBytes (v / 2 ^ (8 * x.n)) r

/-- What the bytes a copy is about to change held before it first wrote them. -/
def noteOld (s : State) (old : Table Byte) (ws : List (Part × Nat)) : Table Byte :=
  ws.foldl (fun old w => (List.range w.1.n).foldl (fun old i =>
    let a := w.1.pa + i
    if (tget old a).isSome || memGet s.mem a = BitVec.ofNat 8 (w.2 / 256 ^ i) then old
    else tset old a (memGet s.mem a)) old) old

/-- The bytes of a chunk whose destination lies `d` bytes above its source in memory: where the two overlap, each byte is
the source's as it stood, or the one that the chunk itself wrote over it; which of the two is free (R253).
DEDUCED, log 38. -/
def overlapBytes (s : State) (d : Int) (v n : Nat) : Nat :=
  let pick (i : Nat) : Bool := Config.freeBit (Config.draw (Config.draw s.tick 2) (2 ^ 52 + i))
  let up (v : Nat) (i : Nat) : Nat :=
    if d.toNat ≤ i && pick i then setFieldN v (8 * i) 8 (fieldN v (8 * (i - d.toNat)) 8) else v
  let down (v : Nat) (i : Nat) : Nat :=
    let j := i + (-d).toNat
    if j < n && pick i then setFieldN v (8 * i) 8 (fieldN v (8 * j) 8) else v
  if d = 0 || (n : Int) ≤ d.natAbs then v
  else if 0 < d then (List.range n).foldl up v
  else (List.range n).reverse.foldl down v

/-- Where a chunk's destination lies above its source, if they are one stretch each. -/
def chunkShift (src dst : List Part) : Int :=
  match src, dst with
  | a :: _, b :: _ => (b.pa : Int) - a.pa
  | _, _ => 0

/-- Put a copy. -/
def setCopy (s : State) (p id : Nat) (c : Copy) : State := modCore s p fun x => { x with copies := tset x.copies id c }

/-! ### Whole words (R253)

A reader sees each 4-byte word of a copy old or new. The bytes of a word that a chunk has only in part stay with the copy, which
promises no order among its writes, until later chunks bring the rest of the word, or there are none. -/

/-- The bytes of a part before, within and after its whole 4-byte words. DEDUCED, log 38. -/
def splitPart (w : Part × Nat) : List (Part × Nat) × List (Part × Nat) :=
  let (x, v) := w
  let lo := Nat.min (x.pa + x.n) ((x.pa + 3) / 4 * 4)
  let hi := Nat.max lo ((x.pa + x.n) / 4 * 4)
  let sub (a b : Nat) : List (Part × Nat) :=
    if a < b then [(⟨x.va + (a - x.pa), b - a, a, x.leaf⟩, v / 2 ^ (8 * (a - x.pa)) % 2 ^ (8 * (b - a)))] else []
  (sub lo hi, sub x.pa lo ++ sub hi (x.pa + x.n))

/-- The bytes that a copy has of words it has not had whole. -/
abbrev Loose := Table (Nat × Nat × Byte)

/-- A byte of such a word as a part. -/
def looseByte (e : Nat × Nat × Nat × Byte) : Part × Nat := (⟨e.2.1, 1, e.1, e.2.2.1⟩, e.2.2.2.toNat)

/-- Bytes join those that a copy keeps. -/
def keepBytes (l : Loose) (w : Part × Nat) : Loose :=
  (List.range w.1.n).foldl (fun l i => tset l (w.1.pa + i) (w.1.va + i, w.1.leaf, BitVec.ofNat 8 (w.2 / 256 ^ i))) l

/-- The bytes kept of the word at an address that is a multiple of 4. -/
def keptOf (l : Loose) (a : Nat) : Loose := l.filter fun e => a ≤ e.1 && e.1 < a + 4

/-- The word is taken out of what is kept once all of it is there. -/
def takeWord (acc : Loose × List (Part × Nat)) (a : Nat) : Loose × List (Part × Nat) :=
  match keptOf acc.1 a with
  | [b0, b1, b2, b3] =>
    let v := [b0, b1, b2, b3].zipIdx.foldl (fun v b => v + b.1.2.2.2.toNat * 256 ^ b.2) 0
    (acc.1.filter fun e => !(a ≤ e.1 && e.1 < a + 4), acc.2 ++ [(⟨b0.2.1, 4, a, b0.2.2.1⟩, v)])
  | _ => acc

/-- A part joins what a copy keeps: what remains kept, and what is to be written now. A whole word takes the place of what was
kept of it. DEDUCED, log 38. -/
def joinPart (acc : Loose × List (Part × Nat)) (w : Part × Nat) : Loose × List (Part × Nat) :=
  let (whole, odd) := splitPart w
  let kept := acc.1.filter fun e => !(whole.any fun x => x.1.pa ≤ e.1 && e.1 < x.1.pa + x.1.n)
  ((odd.map fun x => x.1.pa / 4 * 4).eraseDups).foldl takeWord (odd.foldl keepBytes kept, acc.2 ++ whole)

/-- Bytes written as the copy's own. -/
def copyPut (s : State) (p id : Nat) (c : Copy) (ws : List (Part × Nat)) : State × Copy :=
  let (s1, cov) := dmaCover s (copyAgent p id) (clusterOf p) c.asid c.cover ws []
  (s1, { c with old := noteOld s c.old ws, cover := cov })

/-- The translations through which writes of a copy are still to be performed, with those of parts that it writes now. -/
def noteDests (s : State) (p id : Nat) (c : Copy) (ps : List Part) : Copy :=
  let new := ps.filterMap fun x =>
    if x.leaf = 0 then none
    else
      let (lo, hi) := coveredBy s p c.lid c.asid x.va
      some (⟨x.va / 4096, x.pa - x.va % 4096, x.leaf, lo, hi⟩ : Held)
  { c with dests := (c.dests ++ new.eraseDups).filter (destHeld s p id c) }

/-- Write the same bytes to each of several sides whose parts are known, as the copy's writes, each word once it is whole. -/
def copyWrite (s : State) (p id : Nat) (c : Copy) (v : Nat) (dsts : List (List Part)) : State × Copy :=
  let (kept, ws) := (dsts.flatMap (cutBytes v)).foldl joinPart (c.part, [])
  let (s1, c1) := copyPut s p id { c with part := kept } ws
  (s1, noteDests s1 p id c1 dsts.flatten)

/-- What a copy keeps of words it has not had whole is written: all of it, once the copy has ended, or what it has reached
through a translation, which it does not hold while it waits (R401, R402). DEDUCED, log 38. -/
def writeKept (s : State) (p id : Nat) (c : Copy) (all : Bool) : State × Copy :=
  let out := c.part.filter fun e => all || e.2.2.1 != 0
  let (s1, c1) := copyPut s p id { c with part := c.part.filter fun e => !(all || e.2.2.1 != 0) } (out.map looseByte)
  (s1, noteDests s1 p id c1 [])

/-- Every destination of a chunk translated and found writable. -/
def pinSides (p : Nat) (c : Copy) (n : Nat) : State → List Side → Cx (State × List (List Part))
  | s, [] => .ok (s, [])
  | s, x :: r => do
    let (s1, ps) ← sideParts s p c .write n x
    sideWritable s1 p c ps
    let (s2, rest) ← pinSides p c n s1 r
    .ok (s2, ps :: rest)

/-- One chunk of `n` bytes from a source to its destinations: the state and the copy. -/
def moveChunk (s : State) (p id : Nat) (c : Copy) (n : Nat) (src : Side) (dsts : List Side) : Cx (State × Copy) := do
  let (s1, ps) ← sideParts s p c .read n src
  let (s2, ds) ← pinSides p c n s1 dsts
  if partsPoisoned s2 ps then .error (.status 6)
  else
    let s3 := countParts s2 (clusterOf p) c.asid ps false
    let shift := (ds.map (chunkShift ps)).find? fun d => d != 0 && d.natAbs < n
    let (s4, c1) := copyWrite s3 p id c (overlapBytes s3 (shift.getD 0) (copyRead s3 c ps) n) ds
    .ok (s4, { c1 with bytes := c1.bytes + n * dsts.length })

/-- The runs of a copy. -/
def copyRuns (c : Copy) : Nat := if c.mode = 1 then c.dim 1 * c.dim 2 else c.dim 1

/-- An address with a signed displacement; it wraps modulo 2^48. DESIGN CHOICE, log 50. -/
def plus48 (a : Nat) (d : Int) : Nat := zpat (a + d) 48

/-- The sides of the copy's present run (R250); none where an indexed run leaves the address space (R252 INDEX). -/
def runSides (c : Copy) : Option (Side × List Side) :=
  let j := c.run
  match c.mode with
  | 1 =>
    let k := j / c.dim 1
    let j := j % c.dim 1
    some (.virt (plus48 c.src (j * c.srcStep 0 + k * c.srcStep 1)),
          [.virt (plus48 c.dst (j * c.dstStep 0 + k * c.dstStep 1))])
  | 2 =>
    let g := c.w * c.h
    let off := ((c.dst % 2 ^ 17 : Nat) + (j / (c.blk * g) * c.blk + j % c.blk : Nat) * c.dstStep 0).toNat
    let far : Side := .virt (plus48 c.src (j * c.srcStep 0))
    let near : Side := .store (c.core (j / c.blk % g)) off
    some (if c.opt 14 1 = 0 then (far, [near]) else (near, [far]))
  | 3 =>
    let a := c.src + c.index.getD 0 * c.srcStep 0
    if a < 0 || 2 ^ 48 < a + c.dim 0 then none else some (.virt a.toNat, [.virt (plus48 c.dst (j * c.dstStep 0))])
  | 4 =>
    let a := c.dst + c.index.getD 0 * c.dstStep 0
    if a < 0 || 2 ^ 48 < a + c.dim 0 then none else some (.virt (plus48 c.src (j * c.srcStep 0)), [.virt a.toNat])
  | 5 =>
    let off := ((c.dst % 2 ^ 17 : Nat) + j * c.dstStep 0).toNat
    some (.virt (plus48 c.src (j * c.srcStep 0)), c.cores.map fun l => .store l off)
  | _ => some (.virt (plus48 c.src (j * c.srcStep 0)), [.virt (plus48 c.dst (j * c.dstStep 0))])

/-! ### Where a chunk ends (R401) -/

/-- The length of the next piece of a run, of which `rest` bytes are left: what lies in one page of each side (R401).
DEDUCED, log 38. -/
def pieceLen (rest : Nat) (src : Side) (dsts : List Side) : Nat :=
  dsts.foldl (fun n d => Nat.min n d.room) (Nat.min rest src.room)

/-- The next piece of a REDUCE: its result's place and length. -/
def reducePiece (c : Copy) : Side × Nat :=
  let dst : Side := .virt ((c.dst + c.off) % 2 ^ 48)
  (dst, Nat.min (c.dim 0 / c.esize * c.esize - c.off) (Nat.min dst.room (4096 - (c.src % 2 ^ 17 + c.off) % 4096)))

/-- The index of an indexed run, read when the run begins (R250). -/
def fetchIndex (s : State) (p : Nat) (c : Copy) : Cx (State × Copy) :=
  if (c.mode = 3 || c.mode = 4) && c.index.isNone then do
    let a := (fieldN (c.reg 7) 0 48 + 4 * c.run) % 2 ^ 48
    let n := Nat.min 4 (4096 - a % 4096)
    let (s1, lo) ← sideParts s p c .read n (.virt a)
    let (s2, hi) ← if n = 4 then Except.ok (s1, []) else sideParts s1 p c .read (4 - n) (.virt ((a + n) % 2 ^ 48))
    if partsPoisoned s2 (lo ++ hi) then .error (.status 6)
    else .ok (countParts s2 (clusterOf p) c.asid (lo ++ hi) false, { c with index := some (copyRead s2 c (lo ++ hi)) })
  else .ok (s, c)

/-! ### REDUCE (R251, R272, R273) -/

/-- The least integer E with |x| < 2^E, for a finite x that is not zero (R272). -/
def binade (m : Nat) (e : Int) : Int := Nat.log2 m + 1 + e

/-- The two-phase sum before its one rounding (R272). -/
def twoPhase (xs : List FVal) : FVal :=
  if xs.any (·.isNan) || (xs.contains (.inf false) && xs.contains (.inf true)) then .nan
  else if xs.contains (.inf false) then .inf false
  else if xs.contains (.inf true) then .inf true
  else
    let fs := xs.filterMap fun x => match x with
      | .fin s m e _ => if m = 0 then none else some (s, m, e)
      | _ => none
    match fs with
    | [] => .fin (xs.all (·.isNeg)) 0 0 false
    | f :: r =>
      let top := r.foldl (fun acc x => max acc (binade x.2.1 x.2.2)) (binade f.2.1 f.2.2)
      let n := (fs.map fun x =>
        let k := x.2.2 - top + 100
        sgn x.1 (if 0 ≤ k then x.2.1 * 2 ^ k.toNat else x.2.1 / 2 ^ (-k).toNat)).sum
      ofScaled n (top - 100) false

/-- A FAST sum: partial sums rounded to nearest even in a tree that is free (R273); `n` counts the sums left.
DESIGN CHOICE, log 39. -/
def fastSum (f : Fmt) (tick : Nat) : Nat → List FVal → FVal
  | 0, xs => xs.headD fzero
  | n + 1, xs =>
    let i := Config.fastSplit tick (2 * n) % xs.length
    let ys := xs.eraseIdx i
    let j := Config.fastSplit tick (2 * n + 1) % ys.length
    let t := f.decode (f.ieee 0 ((xs.getD i fzero).add (ys.getD j fzero)).1).1
    if ys.isEmpty then xs.headD fzero else fastSum f tick n (t :: ys.eraseIdx j)

/-- The extreme of numbers where a NaN beats every number and -0 lies below +0 (R251). -/
def reduceExtreme (max : Bool) (xs : List FVal) : FVal :=
  if xs.any (·.isNan) then .nan else xs.foldl (FVal.pick max) (xs.headD fzero)

/-- One element of a REDUCE from the patterns of its participants. -/
def reduceElem (tick : Nat) (c : Copy) (raw : List Nat) : Nat :=
  let rop := c.opt 7 2
  if c.opt 9 3 = 2 then
    let vs := raw.map (toSigned 32)
    let v := match rop with
      | 0 => vs.sum
      | 1 => vs.foldl max (vs.headD 0)
      | _ => vs.foldl min (vs.headD 0)
    (storeInt 32 Rec.default (ofInt v)).1
  else
    let f := if c.opt 9 3 = 1 then bf16 else fp32
    let xs := raw.map f.decode
    let v := match rop with
      | 0 => if c.opt 12 1 = 1 then fastSum f tick (xs.length - 1) xs else twoPhase xs
      | 1 => reduceExtreme true xs
      | _ => reduceExtreme false xs
    (f.ieee 0 v).1

/-- The pattern of an element in the local store of a core of a module; another module's is free.
DESIGN CHOICE, log 29. -/
def participant (s : State) (c : Copy) (off m l : Nat) : Nat :=
  if m = selfWord s c.lid then
    loadPhys s (lsBase ((physOf s c.lid l).getD 0) + off) c.esize
  else (Config.remoteWord m (l * 131072 + off) s.tick).toNat % 2 ^ (8 * c.esize)

/-- The bytes of an element in this module's participants have an uncorrectable error. -/
def participantBad (s : State) (c : Copy) (off n : Nat) : Bool :=
  c.modules.contains (selfWord s c.lid) &&
    c.cores.any fun l => (poisoned s (lsBase ((physOf s c.lid l).getD 0) + off) n).isSome

/-- A chunk of a REDUCE: the elements that lie in one page of the source and whose results lie in one page of the
destination (R401). The route of every other module of the box is read for the packets of each chunk (R414). -/
def reduceChunk (s : State) (p id : Nat) (c : Copy) : Cx (State × Copy) := do
  let e := c.esize
  let (dst, n) := reducePiece c
  let (s1, ds) ← pinSides p c n s [dst]
  if !(c.modules.all fun x => x == selfWord s c.lid || routeOk s c.lid x) then .error (.status 4)
  else if participantBad s1 c (c.src % 2 ^ 17 + c.off) n then .error (.status 6)
  else
    let v := packList (8 * e) ((List.range (n / e)).map fun i =>
      reduceElem (Config.draw s1.tick i) c (c.modules.flatMap fun m =>
        c.cores.map fun l => participant s1 c (c.src % 2 ^ 17 + c.off + e * i) m l))
    let (s2, c1) := copyWrite s1 p id c v ds
    .ok (s2, { c1 with bytes := c1.bytes + n, off := c1.off + n })

/-! ### The operations -/

/-- A copy has ended, with all its bytes written: its message follows (R188). -/
def endCopy (s : State) (p id : Nat) (c : Copy) (status : Nat) : State :=
  let (s, c) := writeKept s p id c true
  addEvent (setCopy s p id { c with status := some status, fault := none, old := [], cover := [], held := none })
    (.copyComplete p id)

/-- A copy that waits before its next chunk. -/
def waitCopy (s : State) (p id : Nat) (c : Copy) : State :=
  let (s, c) := writeKept s p id c false
  setCopy s p id c

/-- A chunk that could not be moved ends the copy, waits on its fault with an entry posted, or is tried again
(R252, R401). -/
def stopCopy (s : State) (p id : Nat) (c : Copy) (again' : Instr) (x : CxStop) : State :=
  match x with
  | .status n => endCopy s p id c n
  | .hold => addEvent (waitCopy s p id c) again'
  | .fault l acc va =>
    let s := waitCopy s p id { c with fault := some (va % 2 ^ 48 + acc * 2 ^ 48), held := none }
    postFault s (clusterOf p) (faultEntry l acc va 3 c.slot (coreAt s p).logical c.lid c.asid)

/-- A copy of a mode begins: the checks, then its first chunk or slot (R250, R252). -/
def startCopy (s : State) (p id : Nat) : Out :=
  done s <|
    match tget (coreAt s p).copies id with
    | none => s
    | some c =>
      let st := copyStatus s c
      if st != 0 then endCopy s p id c st
      else addEvent s (if c.mode = 7 then .tableSlotWrite p id else .copyChunk p id)

/-- COPY2: runs of one dimension (R250). -/
def execCopy2 (p id : Nat) (s : State) : Out := startCopy s p id

/-- COPY3: runs of two dimensions. -/
def execCopy3 (p id : Nat) (s : State) : Out := startCopy s p id

/-- SLAB: runs spread over the local stores of a rectangle, or gathered from them. -/
def execSlab (p id : Nat) (s : State) : Out := startCopy s p id

/-- GATHER: indexed sources. -/
def execGather (p id : Nat) (s : State) : Out := startCopy s p id

/-- SCATTER: indexed destinations. -/
def execScatter (p id : Nat) (s : State) : Out := startCopy s p id

/-- BCAST: a block to every core of a rectangle. -/
def execBcast (p id : Nat) (s : State) : Out := startCopy s p id

/-- REDUCE: elements of every core of a rectangle combined (R251). -/
def execReduce (p id : Nat) (s : State) : Out := startCopy s p id

/-- TABLE: slots of the table store (R250). -/
def execTable (p id : Nat) (s : State) : Out := startCopy s p id

/-- The next chunk of a copy that moves runs: the state, and whether the copy is done. -/
def runChunk (s : State) (p id : Nat) (c : Copy) : Cx (State × Copy × Bool) := do
  let (s1, c1) ← fetchIndex s p c
  match runSides c1 with
  | none => .error (.status 7)
  | some (src, dsts) => do
    let from' := src.plus c1.off
    let to' := dsts.map (·.plus c1.off)
    let n := pieceLen (c1.dim 0 - c1.off) from' to'
    let (s2, c2) ← moveChunk s1 p id c1 n from' to'
    let c3 : Copy := if c2.off + n = c2.dim 0 then { c2 with off := 0, run := c2.run + 1, index := none }
      else { c2 with off := c2.off + n }
    .ok (s2, c3, c3.run == copyRuns c3)

/-- The next chunk of a copy of any mode but TABLE. -/
def oneChunk (s : State) (p id : Nat) (c : Copy) : Cx (State × Copy × Bool) :=
  if c.mode = 6 then
    (if c.dim 0 < c.esize then .ok (s, c, true)
     else (reduceChunk s p id c).map fun x => (x.1, x.2, x.2.off == c.dim 0 / c.esize * c.esize))
  else runChunk s p id c

/-- A grey-out of the launch of a copy is under way: no further chunk begins (R404). -/
def copyPaused (s : State) (c : Copy) : Bool := (launchAt s c.lid).any (·.greying)

/-- COPY_CHUNK: one chunk (R401). -/
def execCopyChunk (p id : Nat) (s : State) : Out :=
  done s <|
    match tget (coreAt s p).copies id with
    | none => s
    | some c =>
      if c.status.isSome || c.fault.isSome then s
      else if copyPaused s c then addEvent (waitCopy s p id c) (.copyChunk p id)
      else
        match oneChunk s p id c with
        | .ok (s1, c1, true) => endCopy s1 p id c1 0
        | .ok (s1, c1, false) => addEvent (setCopy s1 p id c1) (.copyChunk p id)
        | .error x => stopCopy s p id c (.copyChunk p id) x

/-- The next slot's bytes through a translation made now, which the copy holds. -/
def tableTranslate (s : State) (p : Nat) (c : Copy) (va : Nat) : Cx (State × Copy × List Part) := do
  let (s1, ps) ← sideParts s p c .read 16 (.virt va)
  let (lo, hi) := if isNear va then (1, 0) else coveredBy s1 p c.lid c.asid va
  match ps with
  | x :: _ => .ok (s1, { c with held := some ⟨va / 4096, x.pa - x.va % 4096, x.leaf, lo, hi⟩ }, ps)
  | [] => .ok (s1, c, ps)

/-- The 16 bytes of a TABLE's next slot, with the copy that holds their translation: a chunk is what lies in one page of the
source, and holds the translation it made at its start until its last slot is written (R401). -/
def tableParts (s : State) (p : Nat) (c : Copy) : Cx (State × Copy × List Part) :=
  let va := plus48 c.src (16 * c.run)
  match c.held with
  | some h =>
    if h.page = va / 4096 then .ok (s, c, [⟨va, 16, h.pa + va % 4096, h.leaf⟩])
    else tableTranslate s p c va
  | none => tableTranslate s p c va

/-- The next slot of a TABLE that a chunk in flight still has to write (R401). -/
def tableInFlight (c : Copy) : Bool := c.held.any fun h => h.page == plus48 c.src (16 * c.run) / 4096

/-- The next slot of a TABLE waits until it is empty (R250 WAITE, R379). -/
def tableWaits (s : State) (p : Nat) (c : Copy) : Bool :=
  c.opt 13 1 == 1 && (tgetD (coreAt s p).tstore ((c.dst + c.run) % 16) ⟨0, false⟩).full

/-- TABLE_SLOT_WRITE: one slot's 16 bytes written and the slot set full in one step; with WAITE only once it is empty
(R250, R379). -/
def execTableSlotWrite (p id : Nat) (s : State) : Out :=
  done s <|
    match tget (coreAt s p).copies id with
    | none => s
    | some c =>
      if c.status.isSome || c.fault.isSome then s
      else
        let i := (c.dst + c.run) % 16
        if tableWaits s p c || (copyPaused s c && !(tableInFlight c)) then addEvent s (.tableSlotWrite p id)
        else
          match tableParts s p c with
          | .error x => stopCopy s p id c (.tableSlotWrite p id) x
          | .ok (s1, c, ps) =>
            if partsPoisoned s1 ps then endCopy s p id c 6
            else
              let s2 := countParts s1 (clusterOf p) c.asid ps false
              let s3 := modCore s2 p fun x =>
                { x with tstore := tset x.tstore i ⟨BitVec.ofNat 128 (copyRead s2 c ps), true⟩,
                         badSlots := x.badSlots.filter (· != i) }
              let c0 : Copy := { c with run := c.run + 1, bytes := c.bytes + 16 }
              let c1 : Copy := if tableInFlight c0 then c0 else { c0 with held := none }
              let s4 := slotFilled (setCopy s3 p id c1) p
              if c1.run = c.dim 0 / 16 then endCopy s4 p id c1 0 else addEvent s4 (.tableSlotWrite p id)

/-- Put a message in a core's mailbox, which has room, and tell who waits for its class (R131, R192). -/
def putMessage (s : State) (p : Nat) (m : Msg) : State :=
  messageReady (modCore s p fun c => { c with mailbox := c.mailbox ++ [m] }) p m.cls

/-- The log's operation for messages (R355). -/
def messageOp : Nat := 0x12

/-- A message arrives at a core, at a place of its own: 0-31 inbox slots, 32-35 mailbox classes, 40-43 input queues. It
waits for its turn if the core's launch replays, and is recorded if the launch records (R355, R356). -/
def deliver (s : State) (e : Instr) (p place issuer : Nat) (put : State → State) : Out :=
  let c := coreAt s p
  if c.lid = 0 then done s s
  else
    match rrAllow s c.lid messageOp (c.logical * 64 + place) issuer with
    | none => again s e
    | some s1 => done s (put (rrAppend s1 c.lid (rrWord messageOp (c.logical * 64 + place) 0 0) issuer))

/-- A copy's number since its launch took the core, by which a log names it: the identifiers run on from launch to launch
(R187, R338, R356). DEDUCED, log 13. -/
def copyNumber (c : Core) (id : Nat) : Nat := (id + 65535 - c.idBase) % 65535

/-- COPY_COMPLETE: once the copy's writes are performed, who waits for the copy, wherever it is now, looks again (R142), and
once the mailbox has room the COPY message is in it (R177, R188). -/
def execCopyComplete (p id : Nat) (s : State) : Out :=
  let c := coreAt s p
  match tget c.copies id with
  | none => done s s
  | some x =>
    if writesWaiting s (copyAgent p id) then again s (.copyComplete p id)
    else
      let s := wakeWhere s fun _ t w => t.uid == x.uid && w == .engines
      let rest := x.status.getD 0 * 2 ^ 16 + x.slot * 2 ^ 24
      let lo := id % 2 ^ 16 + rest
      if 64 ≤ c.mailbox.length then again s (.copyComplete p id)
      else deliver s (.copyComplete p id) p 32 (copyNumber c id + rest) fun s =>
        let s1 := modCore s p fun c => { c with copies := tdel c.copies id }
        let s2 := putMessage s1 p ⟨0, word lo, word x.bytes⟩
        progress (wakeWhere s2 fun k _ w => keyCore k == p && w == .copyRoom) x.lid

end Sys2Proof.Machine
end

