-- ==== Sys2Proof/Machine/Messages.lean ====
section
/-!
DEFINITION. Messages between cores: SEND, MRECV, QCTL, the deliveries and the transfers of the network queues (spec/05
R189-R195; spec/13 R355, R356).
-/

namespace Sys2Proof.Machine

/-! ### SEND (R189-R192) -/

/-- The bits of a destination word that have to be 0: class 0 goes to an inbox slot (R189). -/
def destOk (w cls : Nat) : Bool :=
  fieldN w 45 19 == 0 && fieldN w 21 11 == 0 && (bitN w 44 || fieldN w 32 12 == 0) && (cls == 0 || fieldN w 16 5 == 0)

/-- A destination word names a core of this module (R189). -/
def destHere (s : State) (lid w : Nat) : Bool := !(bitN w 44) || fieldN w 32 12 == selfWord s lid

/-- A greyed-out launch of an ASID that holds a logical core (R190). -/
def greyedHolder (s : State) (asid l : Nat) : Option Nat :=
  (s.saved.find? fun e => e.2.launch.asid == asid && (tget e.2.launch.coreMap l).isSome).map (·.1)

/-- Values under way to an inbox slot of a core. -/
def inboxComing (s : State) (p slot : Nat) : Nat :=
  (s.agenda.filter fun e => match e with
    | .inboxDelivery q n _ => q == p && n == slot
    | _ => false).length

/-- Messages under way to the mailbox of a core. -/
def mailComing (s : State) (p : Nat) : Nat :=
  (s.agenda.filter fun e => match e with
    | .mailboxDelivery q _ _ _ => q == p
    | _ => false).length

/-- Values an inbox slot holds. -/
def inboxHeld (c : Core) (slot : Nat) : Nat := (if (inboxAt c slot).present then 1 else 0) + (inboxAt c slot).overflow.length

/-- Room for one more message at its destination, counting those under way (R191, R192). -/
def sendRoom (s : State) (p cls slot : Nat) : Bool :=
  if cls = 0 then inboxHeld (coreAt s p) slot + inboxComing s p slot < 9
  else (coreAt s p).mailbox.length + mailComing s p < 64

/-- A message sets out to a core of this module. -/
def sendTo (s : State) (p cls slot : Nat) (v : BitVec 64) : State :=
  if cls = 0 then addEvent s (.inboxDelivery p slot v)
  else addEvent s (.mailboxDelivery p cls v (word (senderWord s (curStrand s).lid (curP s) (curSlot s) 0)))

/-- A SEND within the module (R190-R192). -/
def sendLocal (s : State) (w cls : Nat) (v : BitVec 64) : Res State :=
  let t := curStrand s
  let asid := asidOf s t.lid
  let l := fieldN w 0 16
  let slot := fieldN w 16 5
  let live : Option Nat := match physOf s t.lid l with
    | some p => if (coreAt s p).lid != 0 && asidOf s (coreAt s p).lid == asid then some p else none
    | none => none
  match live, greyedHolder s asid l with
  | some p, _ =>
    let held := (coreAt s p).lid
    if held != t.lid && (launchAt s held).any (·.greying) then parkNow (.greyedTarget held)
    else if sendRoom s p cls slot then (release s).map fun s' => advance (sendTo s' p cls slot v)
    else parkNow (.sendRoom p)
  | none, some lid => parkNow (.greyedTarget lid)
  | none, none => trapNow cILLEGAL w

/-- What another module needs of a message: the destination word, the value, the sender word and the ASID, on the way that
the route entry names as it stands (R413, R414). DESIGN CHOICE, log 29. -/
def sendRemote (s : State) (w cls : Nat) (v : BitVec 64) : State :=
  let t := curStrand s
  let who := word (senderWord s t.lid (curP s) (curSlot s) 0)
  let e := routeEntry s (ctxOf s t.lid) (fieldN w 32 12)
  { s with linkOut := s.linkOut ++
      [⟨fieldN w 32 12, fieldN e 0 12, fieldN e 16 3, cls, [word w, v, who, word (asidOf s t.lid)]⟩] }

/-- SEND: a release (R189). -/
def execSend (g : Guard) (a b : NameIx) (c : BitVec 2) (s : State) : Out :=
  uniformOp s g false true [] [a, b] (fun _ _ => true) fun s' _ xs =>
    let w := srcWord s (nth xs 0)
    let v := word (srcWord s (nth xs 1))
    let lid := (curStrand s').lid
    if !(destOk w c.toNat) then trapNow cILLEGAL w
    else if destHere s' lid w then sendLocal s' w c.toNat v
    else if inTorus s' lid (fieldN w 32 12) && routeOk s' lid (fieldN w 32 12) then
      (release s').map fun s1 => advance (sendRemote s1 w c.toNat v)
    else trapNow cILLEGAL w

/-! ### Deliveries -/

/-- A delivery that cannot happen yet stays pending, ahead of the later ones to its destination (R189). -/
def holdDelivery (s : State) (e : Instr) (same : Instr → Bool) : Out :=
  .next { s with agenda := s.agenda.filter (fun x => !(same x)) ++ e :: s.agenda.filter same }

/-- A value enters an inbox slot, or its overflow buffer (R191). -/
def putInbox (s : State) (p slot : Nat) (v : BitVec 64) : State :=
  let c := coreAt s p
  let b := inboxAt c slot
  let b' : Inbox := if b.present then { b with overflow := b.overflow ++ [v] } else { b with present := true, value := v }
  wakeNames (setCore s p { c with inbox := tset c.inbox slot b' }) p

/-- INBOX_DELIVERY (R191). -/
def execInboxDelivery (p slot : Nat) (val : BitVec 64) (s : State) : Out :=
  if 9 ≤ inboxHeld (coreAt s p) slot then
    holdDelivery s (.inboxDelivery p slot val) fun x => match x with
      | .inboxDelivery q n _ => q == p && n == slot
      | _ => false
  else deliver s (.inboxDelivery p slot val) p slot val.toNat fun s1 => putInbox s1 p slot val

/-- MAILBOX_DELIVERY (R192, R131). -/
def execMailboxDelivery (p cls : Nat) (lo hi : BitVec 64) (s : State) : Out :=
  if 64 ≤ (coreAt s p).mailbox.length then
    holdDelivery s (.mailboxDelivery p cls lo hi) fun x => match x with
      | .mailboxDelivery q k _ _ => q == p && k == cls
      | _ => false
  else deliver s (.mailboxDelivery p cls lo hi) p (32 + cls) hi.toNat fun s1 => putMessage s1 p ⟨cls, lo, hi⟩

/-! ### MRECV (R193) -/

/-- MRECV: an acquire; both halves of the oldest message of the class. -/
def execMrecv (g : Guard) (d a : NameIx) (c : BitVec 2) (s : State) : Out :=
  uniformOp s g false true [d, a] [] (fun _ _ => true) fun s' ds _ => do
    let p := curP s'
    let core := coreAt s' p
    let bound := match tget core.binds c.toNat with
      | some slot => slot != curSlot s'
      | none => false
    if bound then illegal s
    else
      match core.mailbox.find? (fun m => m.cls == c.toNat) with
      | none => parkNow (.message c.toNat)
      | some m => do
        let s1 := wakeSenders (setCore s' p { core with mailbox := core.mailbox.erase m }) p
        let s2 ← writeOne s1 (nthD ds 0) (fitEither (nthD ds 0) m.lo.toNat)
        let s3 ← writeOne s2 (nthD ds 1) (fitEither (nthD ds 1) m.hi.toNat)
        .ok (advance (progressCur s3))

/-! ### QCTL and the network queues (R194, R195) -/

/-- The logical core one step away: direction 0 +x, 1 +y, 2 -x, 3 -y (R194). -/
def neighbour (l dir : Nat) : Option Nat :=
  match dir with
  | 0 => if logX l < 255 then some (l + 1) else none
  | 1 => if logY l < 255 then some (l + 256) else none
  | 2 => if 0 < logX l then some (l - 1) else none
  | _ => if 0 < logY l then some (l - 256) else none

/-- The core that neighbours a core in its launch. -/
def neighbourCore (s : State) (p dir : Nat) : Option Nat :=
  (neighbour (coreAt s p).logical dir).bind (corePhys s (coreAt s p).lid)

/-- A setting that QCTL may install: an input queue, an output queue whose neighbour lies in the launch, a stream
whose ring lies in the local store (R194, R195). -/
def settingOk (s : State) (p sel v : Nat) : Bool :=
  if sel < 4 then fieldN v 3 61 == 0
  else if sel < 8 then fieldN v 5 59 == 0 && (!(bitN v 0) || (neighbourCore s p (fieldN v 1 2)).isSome)
  else
    let len := fieldN v 17 17
    let base := fieldN v 0 17
    fieldN v 36 28 == 0 && len != 0 && len % 128 == 0 && base % 128 == 0 && base + len ≤ 131072

/-- The previous setting. -/
def settingAt (c : Core) (sel : Nat) : BitVec 64 :=
  if sel < 4 then (queueAt c.inq sel).setting
  else if sel < 8 then (queueAt c.outq (sel - 4)).setting
  else (streamAt c (sel - 8)).setting

/-- A setting installed; entries are kept, a stream's cursor returns to 0 (R194, R195). -/
def installSetting (c : Core) (sel : Nat) (v : BitVec 64) : Core :=
  if sel < 4 then { c with inq := tset c.inq sel { queueAt c.inq sel with setting := v } }
  else if sel < 8 then { c with outq := tset c.outq (sel - 4) { queueAt c.outq (sel - 4) with setting := v } }
  else { c with streams := tset c.streams (sel - 8) ⟨v, 0⟩ }

/-- An enabled output queue that holds entries has its next transfer pending, once. -/
def moveQueue (s : State) (p q : Nat) : State :=
  let x := queueAt (coreAt s p).outq q
  if bitN x.setting.toNat 0 && !x.items.isEmpty && !(s.agenda.contains (.queueTransfer p q)) then
    addEvent s (.queueTransfer p q)
  else s

/-- QCTL (R194, R195). -/
def execQctl (g : Guard) (d a : NameIx) (sel : BitVec 4) (s : State) : Out :=
  uniformOp s g false (sel.toNat < 12) [d] [a] (fun _ _ => true) fun s' ds xs => do
    let v := srcWord s (nth xs 0)
    let p := curP s'
    let n := sel.toNat
    if !(settingOk s' p n v) then trapNow cILLEGAL v
    else do
      let old := settingAt (coreAt s' p) n
      let s1 := wakeNames (modCore s' p fun c => installSetting c n (word v)) p
      let s2 := if 4 ≤ n && n < 8 then moveQueue s1 p (n - 4) else s1
      let s3 ← writeOne s2 (nthD ds 0) (fitEither (nthD ds 0) old.toNat)
      .ok (advance s3)

/-- The neighbour's input queue that takes what an output queue sends, if it may now: enabled, accepting from the side
the entry comes from, with room (R194). -/
def takesEntry (c : Core) (q dir : Nat) : Bool :=
  let x := queueAt c.inq q
  bitN x.setting.toNat 0 && fieldN x.setting.toNat 1 2 == (dir + 2) % 4 && x.items.length < 8

/-- QUEUE_TRANSFER (R194). -/
def execQueueTransfer (p q : Nat) (s : State) : Out :=
  let c := coreAt s p
  let x := queueAt c.outq q
  if !(bitN x.setting.toNat 0) then done s s
  else
    let dir := fieldN x.setting.toNat 1 2
    let into := fieldN x.setting.toNat 3 2
    match x.items, neighbourCore s p dir with
    | v :: r, some n =>
      if s.agenda.contains (.queueTransfer p q) then done s s
      else if takesEntry (coreAt s n) into dir then
        deliver s (.queueTransfer p q) n (40 + into) (senderWord s c.lid p q 0) fun s =>
          let s1 := modCore s p fun e => { e with outq := tset e.outq q { x with items := r } }
          let y := queueAt (coreAt s1 n).inq into
          let s2 := modCore s1 n fun e => { e with inq := tset e.inq into { y with items := y.items ++ [v] } }
          moveQueue (wakeNames (wakeNames s2 p) n) p q
      else again s (.queueTransfer p q)
    | _, _ => done s s

end Sys2Proof.Machine
end

