-- ==== Sys2Proof/Machine/Tasks.lean ====
section
/-!
DEFINITION. Continuation records and POST, and what a record's future brings about (spec/05 R203, R204; spec/13 R347;
spec/14 R360, R364, R366, R367).
-/

namespace Sys2Proof.Machine

/-! ### Reading a record (R203, R204) -/

/-- Why a record cannot be read, or is refused: a fault of a translation, an uncorrectable error, a rule broken, with
the index and the code it is reported with. -/
inductive RecStop where
  | fault (x : XFault) (va : Nat)
  | mcheck (va pa : Nat)
  | bad (ix code : Nat)

/-- `n` bytes for an agent of a core that acts for a launch in a mode; the line counts for the page migrator (R302). -/
def agentRead (s : State) (p lid : Nat) (sv : Bool) (n va : Nat) : Except RecStop (State × Nat) :=
  match physFor s p lid sv .read n va with
  | .error x => .error (.fault x va)
  | .ok (s1, pa) =>
    if (poisoned s1 pa n).isSome then .error (.mcheck va pa)
    else .ok (if isNear va then s1 else countPlace s1 (clusterOf p) (asidOf s1 lid) va pa false, loadPhys s1 pa n)

/-- Several reads of `n` bytes, one behind the other, as one number. DEDUCED, log 15. -/
def agentReads (p lid : Nat) (sv : Bool) (n : Nat) : State → Nat → Nat → Except RecStop (State × Nat)
  | s, 0, _ => .ok (s, 0)
  | s, k + 1, va => do
    let (s1, v) ← agentRead s p lid sv n va
    let (s2, r) ← agentReads p lid sv n s1 k ((va + n) % 2 ^ 48)
    .ok (s2, v + 2 ^ (8 * n) * r)

/-- A record as read: its 256 bytes, its roam map, and the place of a FOOT in the near region (R47). -/
structure Record where
  bits   : Nat
  map    : MapCopy
  footPa : Option Nat

/-- The 8 bytes of a record at an offset. -/
def Record.at8 (r : Record) (off : Nat) : Nat := fieldN r.bits (8 * off) 64
def Record.foot (r : Record) : Nat := r.at8 0x10
def Record.flen (r : Record) : Nat := r.at8 0x18
def Record.waitf (r : Record) : BitVec 32 := BitVec.ofNat 32 (r.at8 0x20)
def Record.minShade (r : Record) : Nat := fieldN (r.at8 0x20) 32 4
def Record.group (r : Record) : BitVec 32 := BitVec.ofNat 32 (r.at8 0x28)

/-- The rules of a record's own fields, but for a near FOOT (R203, R204 code 11). DEDUCED, log 14. -/
def recordFieldsOk (b : Nat) : Bool :=
  let q (i : Nat) := fieldN b (64 * i) 64
  q 0 < 2 ^ 48 && q 0 % 4 == 0 && !(isNear (q 0)) && q 1 < 2 ^ 48 && q 1 % 8 == 0 && q 2 < 2 ^ 48 && q 2 % 64 == 0 &&
    q 3 ≤ 65536 && q 3 % 64 == 0 && q 4 < 2 ^ 36 && q 5 < 2 ^ 32 && q 6 == 0 && q 7 == 0

/-- Where a footprint in the near region lies, if it lies wholly in the own RAW window, a peer RAW window or the
vault window (R47, R204). DEDUCED, log 15. -/
def nearFoot (s : State) (p foot flen : Nat) : Option Nat :=
  match nearOf s p foot (Nat.max flen 1) with
  | .raw q off => some (lsBase q + off)
  | .vault c off => some (vaultBase c + off)
  | _ => none

/-- Index 1 is a uniform unsigned name of width 32 (R203). DEDUCED, log 14. -/
def indexOneOk (m : MapCopy) : Bool :=
  match m.entries.head? with
  | some e => (entryInfo 1 e).kind == 0 && (entryInfo 1 e).ty == 0 && (entryInfo 1 e).width == 32
  | none => false

/-- A roam map image, checked (R28, R29, R204). -/
def agentMap (s : State) (p lid : Nat) (sv : Bool) (va : Nat) : Except RecStop (State × MapCopy) := do
  let (s1, h) ← agentRead s p lid sv 8 va
  let (s2, es) ← agentReads p lid sv 4 s1 (mapCount h) ((va + 8) % 2 ^ 48)
  let m : MapCopy := ⟨word h, (List.range (mapCount h)).map fun i => BitVec.ofNat 32 (es / 2 ^ (32 * i))⟩
  match mapFault m true fun _ _ => false with
  | some (ix, c) => .error (.bad ix c)
  | none => if indexOneOk m then .ok (s2, m) else .error (.bad 1 12)

/-- The record at an address with its roam map, read and checked (R204). -/
def agentRecord (s : State) (p lid : Nat) (sv : Bool) (va : Nat) : Except RecStop (State × Record) := do
  let (s1, b) ← agentReads p lid sv 64 s 4 va
  if !(recordFieldsOk b) then .error (.bad 0 11)
  else
    let foot := fieldN b 128 64
    let pa := nearFoot s1 p foot (fieldN b 192 64)
    if isNear foot && pa.isNone then .error (.bad 0 11)
    else do
      let (s2, m) ← agentMap s1 p lid sv (fieldN b 64 64)
      .ok (s2, ⟨b, m, if isNear foot then pa else none⟩)

/-! ### The home of a record (R347) -/

/-- The clusters that hold cores of a launch, in rising order. -/
def launchClusters (l : Launch) : List Nat := (l.coreMap.map fun e => clusterOf e.2).foldl nInsert []

/-- The cluster, among those that hold cores of the launch, whose vault, or the local store of one of whose cores, holds a
physical address. -/
def homeOf (s : State) (l : Launch) (pa : Nat) : Option Nat :=
  match placeOf s pa with
  | .vault c _ => if (launchClusters l).contains c then some c else none
  | .ls p _ => if (launchClusters l).contains (clusterOf p) then some (clusterOf p) else none
  | _ => none

/-- The home cluster of a record whose FOOT lies at a physical address; `v` is what is hashed. -/
def recordHome (s : State) (l : Launch) (pa v : Nat) : Nat :=
  let cs := launchClusters l
  (homeOf s l pa).getD (cs.getD (fieldN v 16 32 % cs.length) 0)

/-! ### A record follows a future -/

/-- What a waiter of a future is served with at once, if it need not wait (R204, R364, R366). -/
inductive Follow where
  | ready
  | join
  | settle (how : Settle)

/-- What a record that follows a handle with a minimum shade meets there; a stale handle cancels it (R361, R364). -/
def followNow (s : State) (kind : WaiterKind) (h : BitVec 32) (min : Nat) : Follow :=
  match futOf s h with
  | none => .settle (.cancel 0xF1)
  | some f =>
    match f.st with
    | .cancelled => .settle (.cancel f.value.toNat)
    | .resolved => if kind = .promote then .settle (.resolve none) else .ready
    | _ => if f.pub && min ≤ f.shade.toNat && kind != .promote then .ready else .join

/-- The task is over and its future settles, by an operation of its home: 7 a cancel, 12 a promotion (R358, R364). -/
def settleTask (s : State) (t op : Nat) (how : Settle) : State :=
  let e := taskSettling s t op how
  settle (dropTask s t) e.1 e.2.1 e.2.2

/-- A record follows a handle: it becomes ready, waits, or is settled. -/
def follow (s : State) (t : Nat) (kind : WaiterKind) (h : BitVec 32) (min : Nat) : State :=
  match followNow s kind h min with
  | .ready => makeReady s t
  | .settle how => settleTask s t (if kind = .promote then 12 else 7) how
  | .join => joinFut s (hIndex h) ⟨kind, t, min⟩

/-- Waiter nodes are left at the home of a handle (R362). -/
def nodeFree (s : State) (h : BitVec 32) : Bool := nodesAt s (futHome (hIndex h)) < 65536

/-! ### POST (R204) -/

/-- How POST ends on a record that it cannot accept. DEDUCED, log 15. -/
def postStop {α : Type} (s0 s : State) (x : RecStop) : Res α :=
  match x with
  | .fault f va => dataFault s0 f 0 va
  | .mcheck va pa => trapNow cMCHECK (va % 2 ^ 48 + mcheckSource s pa * 2 ^ 56)
  | .bad ix c => trapNow cILLEGAL (refuseVal ix c)

/-- The physical address by which a record's home is judged, and what is hashed otherwise (R347). -/
def postPlace (s0 s : State) (r : Record) : Res (State × Nat × Nat) :=
  match r.footPa with
  | some pa => .ok (s, pa, pa)
  | none => (strandPhys s0 s .read 1 0 r.foot).map fun x => (x.1, x.2, r.foot)

/-- Membership in the settle group: FEXP of 1, unless the group has settled (R367). DEDUCED, log 15. -/
def joinGroup (s : State) (g : BitVec 32) : Res (State × BitVec 32) :=
  if g = 0 then .ok (s, 0)
  else do
    let f ← liveFut s g
    if f.st ≠ .pending then .ok (s, 0)
    else if 1048575 < f.count + 1 then trapNow cFUTCOUNT g.toNat
    else do
      let s1 ← rrGate s 3 g.toNat
      .ok (futLog (setFut s1 (hIndex g) { f with count := f.count + 1 }) 3 g, g)

/-- The ready records of a cluster's task queue (R204); those of a greyed-out launch are saved with it (R377). -/
def queued (s : State) (c : Nat) : Nat :=
  (s.tasks.filter fun e => e.2.home == c && (launchAt s e.2.lid).isSome && (match e.2.st with
    | .ready _ _ => true
    | _ => false)).length

/-- A record as a task of a launch. -/
def Record.task (r : Record) (h : BitVec 32) (lid asid home : Nat) (sv refire : Bool) (tvec : BitVec 48)
    (wid : BitVec 64) : Task :=
  { entry := BitVec.ofNat 48 (r.at8 0), map := r.map, foot := BitVec.ofNat 48 r.foot, footPa := r.footPa, flen := r.flen,
    waitf := r.waitf, minShade := r.minShade, init := BitVec.ofNat 1536 (r.bits / 2 ^ 512), refire := refire,
    handle := h, lid := lid, asid := asid, sv := sv, tvec := tvec, wid := wid, home := home, st := .waiting,
    urgent := false, shade0 := 15, f7 := false, standIn := 0, stopped := false, job := none, late := false,
    fault := none }

/-- A record is queued, or follows its input future (R204). -/
def enqueueTask (s : State) (x : Task) : State :=
  let t := s.nextTask
  let s := { s with tasks := tset s.tasks t x, nextTask := t + 1 }
  if x.waitf = 0 then makeReady s t else follow s t .record x.waitf x.minShade

/-- The record can enter its queue, or has a node to wait with; otherwise POST waits (R204, R362).
DEDUCED, log 15. -/
def postRoom (s : State) (r : Record) (home : Nat) : Res Unit :=
  let direct := r.waitf = 0 || (match followNow s .record r.waitf r.minShade with
    | .join => false
    | _ => true)
  if direct then (if queued s home < 4096 then .ok () else parkNow (.postRoom home))
  else if nodeFree s r.waitf then .ok () else parkNow (.nodes (futHome (hIndex r.waitf)))

/-- POST of a record that has passed its checks, to its home. -/
def postRecord (s : State) (r : Record) (home : Nat) (di : NameInfo) (refire : Bool) : Res State := do
  postRoom s r home
  match ← futChooseFor s 8 with
  | none => do
    let s1 ← release s
    let s2 ← writeOne s1 di (fitEither di 0)
    .ok (endStatus s2 false)
  | some h => do
    let t := curStrand s
    let i := hIndex h
    let (s1, grp) ← joinGroup s r.group
    let s2 ← release s1
    let s3 ← rrGate s2 8 h.toNat
    let s4 := futAlloc s3 h t.lid 0
    let s5 := futLog (setFut s4 i { futAt s4 i with group := grp, anon := di.kind == 8 }) 8 h
    let s6 ← writeOne s5 di (fitEither di h.toNat)
    let s7 := endStatus s6 true
    .ok (enqueueTask s7 (r.task h t.lid (asidOf s7 t.lid) home t.sv refire t.tvec t.wid))

/-- POST: a release (R204, R367). WAITF's handle is checked before the room for the record and the table of futures, and
SGRP's after them; the spec does not say in what order. DESIGN CHOICE, log 15. DEDUCED, log 15. -/
def execPost (g : Guard) (d a : NameIx) (r : BitVec 1) (s : State) : Out :=
  uniformOp s g false true [d] [a] (fun _ is => allInt is) fun s' ds xs => do
    unlocked s ds
    let ea := (nth xs 0).pat 0 % 2 ^ 48
    let t := curStrand s'
    if ea % 64 != 0 then trapNow cALIGN ea
    else
      match agentRecord s' (curP s') t.lid t.sv ea with
      | .error x => postStop s s' x
      | .ok (s1, rec) => do
        let _ ← if rec.waitf = 0 then .ok Future.reset else liveFut s1 rec.waitf
        let (s2, pa, v) ← postPlace s s1 rec
        match launchAt s2 t.lid with
        | none => illegal s
        | some l => postRecord s2 rec (recordHome s2 l pa v) (nthD ds 0) (r == 1)

end Sys2Proof.Machine
end

