-- ==== Sys2Proof/Machine/Dispatcher.lean ====
section
/-!
DEFINITION. The dispatchers: placing ready records, fetching and writing back footprints, binding task strands and
retiring tasks (spec/13 R346-R353; spec/14 R363, R364, R366; spec/05 R205).
-/

namespace Sys2Proof.Machine

/-! ### Placing a record (R348) -/

/-- The lowest slot a task strand of a launch may take (R332 TFLOOR). -/
def taskFloor (l : Launch) : Nat := if l.field 0x68 8 4 = 0 then 13 else l.field 0x68 8 4

/-- The run of the local store that a task's footprint holds on a core (R349-R351). -/
def Task.runOn (x : Task) (p : Nat) : Option Nat :=
  match x.st with
  | .fetching q _ run => if q = p then some run else none
  | .running q run => if q = p then some run else none
  | .retiring q run _ => if q = p then some run else none
  | _ => none

/-- The footprint runs that tasks of live launches hold on a core; those of a greyed-out launch are saved with it (R405). -/
def footRuns (s : State) (p : Nat) : List (Nat × Nat) :=
  s.tasks.filterMap fun e =>
    if (launchAt s e.2.lid).isSome then (e.2.runOn p).map fun run => (run, e.2.flen) else none

/-- The lowest free footprint run of a core (R348). -/
def footRun (s : State) (p : Nat) (l : Launch) (flen : Nat) : Option Nat :=
  let lo := l.field 0x60 0 17
  let hi := lo + l.field 0x60 32 18
  let rs := footRuns s p
  leastWhere (fun b => b + flen ≤ hi && runFree rs b flen) (lo :: rs.map fun r => r.1 + r.2)

/-- Where a record can be placed on a core. -/
structure Spot where
  p    : Nat
  slot : Nat
  run  : Nat
  bit  : Nat
deriving DecidableEq, Repr

/-- The uniform region of a roam map on a core, if it can be taken now: a free run, with no row that a repack has
locked, and no row with an uncorrectable error that it covers in part (R30, R149, R403). -/
def roamRegion (s : State) (p : Nat) (m : MapCopy) : Option Nat :=
  match placeMap s p m none with
  | some (u, _) =>
    let c := coreAt s p
    if bitsLocked c false u (uniformSize m) || (partOfBadRow c false u (uniformSize m)).isSome then none else some u
  | none => none

/-- The highest free slot of a core that a task of a launch may take (R340), or under replay the logged one. -/
def taskSlot (s : State) (p : Nat) (l : Launch) (want : Option Nat) : Option Nat :=
  match want with
  | some n => if slotFree s p n then some n else none
  | none => ((List.range (16 - taskFloor l)).map fun i => 15 - i).find? (slotFree s p)

/-- A task of the backfill unit that still has the lowest priority (R376). -/
def lowTask (x : Task) : Bool := x.job.isSome && !x.late

/-- Whether, and where, a record can be placed on a core; a backfill task never where the VX engine is stalled under WAIT
(R246, R348, R376). DEDUCED, log 16. -/
def spotOn (s : State) (l : Launch) (x : Task) (want : Option Nat) (p : Nat) : Option Spot :=
  if x.job.isSome && (coreAt s p).vx.stalled.isSome then none
  else
    match taskSlot s p l want, footRun s p l x.flen, roamRegion s p x.map with
    | some slot, some run, some u => some ⟨p, slot, run, u⟩
    | _, _, _ => none

/-- Of the cores that pass, the one with the fewest live strands, on a tie the lowest logical number (R346); cores as
logical and physical number, in rising logical order. -/
def fewestStrands {α : Type} (s : State) (f : Nat → Option α) (cs : Table Nat) : Option α :=
  (cs.foldl (fun (best : Option (Nat × α)) e =>
    match f e.2 with
    | none => best
    | some x =>
      let n := (strandsOf s e.2).length
      match best with
      | some b => if n < b.1 then some (n, x) else best
      | none => some (n, x)) none).map (·.2)

/-- The log's operation for dispatches (R355). -/
def dispatchOp : Nat := 0x13

/-- What the log notes of a dispatch beside its cluster: the record's handle, the slot and the logical core. -/
def dispatchWord (s : State) (h : BitVec 32) (p slot : Nat) : Nat :=
  (coreAt s p).logical % 2 ^ 16 + slot * 2 ^ 16 + h.toNat * 2 ^ 32

/-- The place that the log has for a record: none when it is not this record's turn, otherwise the logical core and slot,
if the launch replays (R355, R356). -/
def loggedSpot (s : State) (c : Nat) (x : Task) : Option (Option (Nat × Nat)) :=
  if rrMode s x.lid != 2 then some none
  else
    match rrNext s x.lid (rrWord dispatchOp (clusterPlace s x.lid c) 0 0) with
    | some (_, w, who) =>
      if fieldN w 32 8 = dispatchOp && who / 2 ^ 32 = x.handle.toNat then some (some (fieldN who 0 16, fieldN who 16 4))
      else none
    | none => none

/-- Where a ready record can be placed in its home cluster. -/
def spotFor (s : State) (c : Nat) (x : Task) : Option Spot :=
  match launchAt s x.lid, loggedSpot s c x with
  | some l, some want =>
    let cores := l.coreMap.filter fun e => clusterOf e.2 == c && (match want with
      | some (n, _) => e.1 == n
      | none => true)
    fewestStrands s (spotOn s l x (want.map (·.2))) cores
  | _, _ => none

/-- The records of a cluster that may be dispatched: ready, of a launch whose dispatch is not frozen there, in their
turn in a replay. -/
def candidates (s : State) (c : Nat) : List (Nat × Task) :=
  s.tasks.filter fun e => e.2.home == c && (match e.2.st with
      | .ready _ _ => true
      | _ => false) && (match launchAt s e.2.lid with
      | some l => l.started && !l.greying && !l.frozen && !(l.frozenIn.contains c)
      | none => false) && (loggedSpot s c e.2).isSome

/-- The place of a record in the order in which records became ready. -/
def readyPlace (x : Task) : Nat := match x.st with
  | .ready _ n => n
  | _ => 0

/-- The oldest of several records. -/
def oldest {α : Type} (xs : List (Nat × Task × α)) : Option (Nat × Task × α) :=
  xs.foldl (fun best x => match best with
    | some b => if readyPlace x.2.1 < readyPlace b.2.1 then some x else best
    | none => some x) none

/-- The dispatcher's choice: the oldest urgent record alone while there is one; otherwise the oldest that can be placed,
backfill tasks last (R348, R376). -/
def pickRecord (s : State) (c : Nat) : Option (Nat × Task × Spot) :=
  let xs := (candidates s c).map fun e => (e.1, e.2, spotFor s c e.2)
  let placed (f : Task → Bool) : List (Nat × Task × Spot) :=
    xs.filterMap fun e => if f e.2.1 then e.2.2.map fun sp => (e.1, e.2.1, sp) else none
  match oldest (xs.filter fun e => e.2.1.urgent && !(lowTask e.2.1)) with
  | some e => e.2.2.map fun sp => (e.1, e.2.1, sp)
  | none => (oldest (placed fun x => !(lowTask x))).orElse fun _ => oldest (placed lowTask)

/-! ### Starting a task (R349, R350, R363) -/

/-- A uniform unsigned name of a width at an index of a map. -/
def uniformAt (m : MapCopy) (ix width : Nat) : Option NameInfo :=
  match m.entries[ix - 1]? with
  | some e => let i := entryInfo ix e
              if i.kind = 0 && i.ty = 0 && i.width = width then some i else none
  | none => none

/-- Put a value into a name of a strand if its map declares it so. -/
def putName (t : Strand) (ix width v : Nat) (c : Core) : Core :=
  match uniformAt t.map ix width with
  | some i => rowWrite c t i 0 v
  | none => c

/-- The names that a backfill routine finds: token, layer, descriptor (R374). -/
def putJobNames (s : State) (t : Strand) (x : Task) (c : Core) : Core :=
  match x.job.bind (tget s.jobs) with
  | some j => putName t 5 48 j.desc.toNat (putName t 4 16 j.layer (putName t 3 32 j.tok c))
  | none => c

/-- A task strand as it begins (R350). -/
def taskStrand (x : Task) (t : Nat) (sp : Spot) (s0 : BitVec 4) : Strand :=
  { withLayout Strand.blank x.map sp.bit 0 with
      pc := x.entry, sv := x.sv, role := 3, tvec := x.tvec, wid := x.wid, q := 0, lid := x.lid, run := .parked .dispatch,
      task := some t, shade0 := s0 }

/-- The row store with a task strand's names: INIT, then the names that the dispatcher fills in (R350, R363, R374). -/
def taskNames (s : State) (x : Task) (st : Strand) (sp : Spot) (c : Core) : Core :=
  let c := zeroRegions c sp.bit (uniformSize x.map) 0 0
  let c := { c with ubank := BitVec.ofNat 16384 (setFieldN c.ubank.toNat sp.bit (mapBits x.map false) x.init.toNat) }
  putJobNames s st x (putName st 3 4 st.shade0.toNat (putName st 2 17 sp.run (putName st 1 32 x.handle.toNat c)))

/-- A record dispatched to its place: slot, run and region taken, the strand bound, its footprint under way (R349).
DEDUCED, log 16. -/
def placeTask (s : State) (t : Nat) (x : Task) (sp : Spot) (s0 : BitVec 4) : State :=
  let s := { s with tasks := tset s.tasks t { x with st := .fetching sp.p sp.slot sp.run, shade0 := s0, f7 := false,
                                                     standIn := 0, stopped := false, fault := none } }
  let st := { taskStrand x t sp s0 with uid := s.nextUid }
  let s := modCore { s with nextUid := s.nextUid + 1 } sp.p (taskNames s x st sp)
  addEvent (progress (setStrand s (16 * sp.p + sp.slot) st) x.lid) (.footprintFetchDone t)

/-- The input future as the dispatch reads it: the start shade; none when the handle is stale (R363). -/
def startShade (s : State) (x : Task) : Option (BitVec 4) :=
  if x.waitf = 0 then some 15 else (futOf s x.waitf).map fun f => if f.st = .resolved then 15 else f.shade

/-- The sender word of a cluster's dispatcher or backfill unit acting for a core. -/
def unitWord (s : State) (lid p unit : Nat) : Nat := senderWord s lid p 0 unit

/-- A read of the input entry in its turn, recorded (R355, R358). -/
def readInput (s : State) (x : Task) (p : Nat) : Option State :=
  if x.waitf = 0 then some s
  else
    let who := unitWord s x.lid p 4
    (rrAllow s x.lid 10 x.waitf.toNat who).map fun s1 =>
      let f := futAt s1 (hIndex x.waitf)
      rrAppend s1 x.lid (rrWord 10 x.waitf.toNat (futStateCode f.st) f.shade.toNat) who

/-- The dispatch of a record (R349, R355, R363). DEDUCED, log 16. -/
def dispatchRecord (s : State) (c t : Nat) (x : Task) (sp : Spot) : State :=
  match startShade s x with
  | none => settleTask s t 7 (.cancel 0xF1)
  | some s0 =>
    let w := dispatchWord s x.handle sp.p sp.slot
    let home := clusterPlace s x.lid c
    match (rrAllow s x.lid dispatchOp home w).bind fun s1 => readInput s1 x sp.p with
    | none => s
    | some s1 => placeTask (rrAppend s1 x.lid (rrWord dispatchOp home 0 0) w) t x sp s0

/-- An event stays pending, once. DESIGN CHOICE, log 1. -/
def keepOnce (s : State) (e : Instr) : State := if s.agenda.contains e then s else addEvent s e

/-- Some record of a cluster is ready. -/
def someReady (s : State) (c : Nat) : Bool := queued s c != 0

/-- TASK_DISPATCH (R348). -/
def execTaskDispatch (c : Nat) (s : State) : Out :=
  let s1 := match pickRecord s c with
    | some (t, x, sp) => wakePost (dispatchRecord s c t x sp) c
    | none => s
  done s (if someReady s1 c then keepOnce s1 (.taskDispatch c) else s1)

/-! ### Footprints (R349, R351) -/

/-- How the movement of a footprint stops: a missing translation, a refused access, an uncorrectable error, or a page or
word that has to be waited for. -/
inductive FootStop where
  | missing (level va : Nat)
  | denied (va : Nat)
  | mcheck
  | hold

/-- The parts of `n` bytes of a footprint from an offset, which lie in one page (R47, R443). -/
def footParts (s : State) (x : Task) (acc : Access) (off n : Nat) : Except FootStop (State × List Part) :=
  match x.footPa with
  | some pa => .ok (s, (pieces (pa + off) n).map fun y => ⟨y.1, y.2, y.1, 0⟩)
  | none =>
    let va := (x.foot.toNat + off) % 2 ^ 48
    match translate s x.lid (.cluster x.home) x.asid x.sv acc va with
    | .error (.missing l) => .error (.missing l va)
    | .error (.mcheck _) => .error .mcheck
    | .error (.held _) => .error .hold
    | .error _ => .error (.denied va)
    | .ok (s1, pa, leaf) =>
      match placeOf s1 pa with
      | .device _ => .error (.denied va)
      | _ => .ok (s1, (pieces va n).map fun y => ⟨y.1, y.2, pa + (y.1 - va), leaf⟩)

/-- One piece of a footprint into its run, every word of which becomes full (R349); a word that a strand reserves takes its
bytes in its turn (R177). -/
def fetchPiece (t : Nat) (x : Task) (p run : Nat) (s : State) (off n : Nat) : Except FootStop State := do
  let (s1, ps) ← footParts s x .read off n
  if partsPoisoned s1 ps then .error .mcheck
  else
    let at' := lsBase p + run + off
    let s2 := agentWrite (countParts s1 x.home x.asid ps false) (footAgent t) at' n (partsRead s1 ps)
    .ok ((s2.empties.filter fun w => at' ≤ w && w < at' + n).foldl fillWord s2)

/-- One piece of a run back to the footprint (R351); a word that a strand reserves takes its bytes in its turn (R177). -/
def writePiece (t : Nat) (x : Task) (p run : Nat) (s : State) (off n : Nat) : Except FootStop State := do
  let (s1, ps) ← footParts s x .write off n
  if (poisoned s1 (lsBase p + run + off) n).isSome then .error .mcheck
  else if ps.any fun y => y.leaf != 0 && pageHeld s1 x.asid y.va then .error .hold
  else .ok (dmaWrite s1 (footAgent t) x.home x.asid (cutBytes (loadPhys s1 (lsBase p + run + off) n) ps) [])

/-- The pieces of a footprint, cut at the 4 KiB pages, as offsets and lengths. -/
def footPieces (x : Task) : List (Nat × Nat) :=
  let base := (x.footPa.getD x.foot.toNat) % 4096
  (List.range (if x.flen = 0 then 0 else (base + x.flen + 4095) / 4096)).map fun i =>
    let lo := Nat.max (4096 * i) base
    (lo - base, Nat.min (4096 * i + 4096) (base + x.flen) - lo)

/-- Pieces moved in turn until one stops; what was moved before stays moved. -/
def movePieces (f : State → Nat → Nat → Except FootStop State) : State → List (Nat × Nat) → State × Option FootStop
  | s, [] => (s, none)
  | s, (off, n) :: r =>
    match f s off n with
    | .ok s1 => movePieces f s1 r
    | .error e => (s, some e)

/-- Where a movement stands whose every piece has been moved: beyond every address. -/
def movedWhole : Nat := 2 ^ 48

/-- The pieces still to move: all, or those from where a missing translation stopped the movement. -/
def piecesLeft (x : Task) : List (Nat × Nat) :=
  match x.fault with
  | none => footPieces x
  | some va => (footPieces x).filter fun y => va ≤ (x.foot.toNat + y.1) % 2 ^ 48

/-- The movement waits for a translation, its entry posted (R349, R397). The table of R397 has an access code for the fetch
of a footprint, 6, but none for its copy back, whose code is free. DESIGN CHOICE, log 16. DEDUCED, log 16. -/
def footFault (s : State) (t : Nat) (x : Task) (p slot level va : Nat) : State :=
  let acc := match x.st with
    | .retiring _ _ _ => freeNat s 27 t 8
    | _ => 6
  postFault (setTask s t { x with fault := some va }) x.home
    (faultEntry level acc va 4 slot (coreAt s p).logical x.lid x.asid)

/-- The movement has come to its end: it goes on with `f` when every one of its writes has been performed, which one to a
word that a strand reserves has not (R177). -/
def footMoved (s0 s : State) (t : Nat) (x : Task) (e : Instr) (f : State → State) : Out :=
  done s0 (if writesWaiting s (footAgent t) then addEvent (setTask s t { x with fault := some movedWhole }) e else f s)

/-- A task whose footprint cannot be moved ends faulted; its strand, if it still has one, is gone (R349, R351, R353).
DEDUCED, log 16. -/
def footFaulted (s : State) (t : Nat) (k : Option Nat) (cause : Nat) : State :=
  let s := match k with
    | some k => freeSlot s k
    | none => s
  taskFaulted s t (0x80 + cause)

/-- FOOTPRINT_FETCH_DONE: the footprint is copied into its run, and the strand starts (R349). -/
def execFootprintFetchDone (t : Nat) (s : State) : Out :=
  match taskAt s t with
  | none => done s s
  | some x =>
    match x.st with
    | .fetching p slot run =>
      let k := 16 * p + slot
      match movePieces (fetchPiece t x p run) s (piecesLeft x) with
      | (s1, none) => footMoved s s1 t x (.footprintFetchDone t) fun s2 =>
          wake (setTask s2 t { x with st := .running p run, fault := none }) k
      | (s1, some (.missing l va)) => done s (footFault s1 t x p slot l va)
      | (s1, some (.denied _)) => done s (footFaulted s1 t (some k) cPROTECT)
      | (s1, some .mcheck) => done s (footFaulted s1 t (some k) cMCHECK)
      | (_, some .hold) => again s (.footprintFetchDone t)
    | _ => done s s

/-- RECORD_URGENT: a record that has been ready for more than 65,536 cycles (R348). -/
def execRecordUrgent (t : Nat) (s : State) : Out :=
  match taskAt s t with
  | some x =>
    match x.st with
    | .ready since _ =>
      if x.urgent then done s s
      else if 65536 < s.cycle - since then done s (setTask s t { x with urgent := true })
      else again s (.recordUrgent t)
    | _ => done s s
  | none => done s s

/-- BACKFILL_PLACEMENT_TIMEOUT: a backfill task that has been ready for 2^20 cycles (R376). -/
def execBackfillPlacementTimeout (t : Nat) (s : State) : Out :=
  match taskAt s t with
  | some x =>
    match x.st with
    | .ready since _ =>
      if x.late then done s s
      else if 2 ^ 20 ≤ s.cycle - since then done s (setTask s t { x with late := true })
      else again s (.backfillPlacementTimeout t)
    | _ => done s s
  | none => done s s

/-! ### Retirement (R351, R364, R366) -/

/-- What a task's retirement follows next: the kind of waiter, the handle, the minimum shade; none when nothing follows
(R364, R366). -/
def nextFollow (x : Task) : Option (WaiterKind × BitVec 32 × Nat) :=
  if x.f7 && x.standIn != 0 && x.refire then some (.backfill, x.standIn, 15)
  else if x.shade0 = 15 then none
  else if x.stopped then some (.promote, x.waitf, 15)
  else if x.refire then some (.refire, x.waitf, x.shade0.toNat + 1)
  else none

/-- The publication of a task that retires, under the cap of R207, by the strand that exited (R205); the dispatcher `who`
logs it. Where the task has settled its own future, which has then been freed, there is nothing to publish (R359, R361). -/
def publishTask (s : State) (x : Task) (key who : Nat) : State :=
  (pubshAt s x.handle (if x.f7 then Nat.min x.shade0.toNat 14 else x.shade0.toNat) key ⟨11, x.lid, who, false⟩).1

/-- The dispatcher's turn to publish in a replay, if there is an entry to publish on (R356). -/
def publishTurn (s : State) (x : Task) (who : Nat) : Option State :=
  match futOf s x.handle with
  | none => some s
  | some _ => rrAllow s x.lid 11 x.handle.toNat who

/-- The task's run is over: run and pins released, the publication, then what follows (R351, R364). -/
def retireDone (s : State) (t : Nat) (x : Task) (p key : Nat) : State :=
  let who := unitWord s x.lid p 4
  let s := (publishTurn s x who).getD s
  let s := publishTask (setTask s t { x with st := .waiting, fault := none }) x key who
  match nextFollow x with
  | none => dropTask s t
  | some (kind, h, min) => follow s t kind h min

/-- A retirement may go on: its turn in a replay has come, and there is a waiter node if it is to join a future
(R356, R362). -/
def retireReady (s : State) (x : Task) (p : Nat) : Bool :=
  (publishTurn s x (unitWord s x.lid p 4)).isSome &&
    (match nextFollow x with
     | some (kind, h, min) => (match followNow s kind h min with
       | .join => nodeFree s h
       | _ => true)
     | none => true)

/-- TASK_RETIRE (R351). -/
def execTaskRetire (t : Nat) (s : State) : Out :=
  match taskAt s t with
  | none => done s s
  | some x =>
    match x.st with
    | .retiring p run who =>
      if !(retireReady s x p) then again s (.taskRetire t)
      else
        match movePieces (writePiece t x p run) s (piecesLeft x) with
        | (s1, none) => footMoved s s1 t x (.taskRetire t) fun s2 => retireDone s2 t x p who
        | (s1, some (.missing l va)) => done s (footFault s1 t x p 0 l va)
        | (s1, some (.denied _)) => done s (footFaulted s1 t none cPROTECT)
        | (s1, some .mcheck) => done s (footFaulted s1 t none cMCHECK)
        | (_, some .hold) => again s (.taskRetire t)
    | _ => done s s

end Sys2Proof.Machine
end

