-- ==== Sys2Proof/Machine/Backfill.lean ====
section
/-!
DEFINITION. The backfill units: starting jobs, building the routine of each layer, and what follows its retirement
(spec/14 R374-R376).
-/

namespace Sys2Proof.Machine

/-- Put a job. -/
def setJob (s : State) (j : Nat) (x : Job) : State := { s with jobs := tset s.jobs j x }

/-- Jobs of a cluster that could go on look again; strands that wait for room in its queue post theirs by their own
event. -/
def kickJobs (s : State) : State :=
  s.jobs.foldl (fun acc e => keepOnce acc (.backfillJobStart e.2.cluster)) s

/-- A job ends with an operation on its handle, which has no effect on an entry that has settled or a stale handle
(R375). -/
def endJob (s : State) (j : Nat) (x : Job) (how : Settle) (log : FutLog) : State :=
  let s := settle s x.handle how log
  kickJobs { s with jobs := tdel s.jobs j }

/-- The operation at the end of a job in its turn, recorded (R355, R358): none while the turn has not come. -/
def settleJob (s : State) (j : Nat) (x : Job) (how : Settle) : Option State :=
  let op := if how matches .resolve _ then 2 else 7
  let who := unitWord s x.lid x.p 5
  let turn := match futOf s x.handle with
    | none => some s
    | some _ => rrAllow s x.lid op x.handle.toNat who
  turn.map fun s1 => endJob s1 j x how ⟨op, x.lid, who, false⟩

/-- A job stops on an access of its own: it waits for a translation, its entry posted, or ends (R375); none where it only has
to try again, the bits of a table entry being at a word that a strand reserves (R177). -/
def jobStop (s : State) (j : Nat) (x : Job) (acc : Nat) (e : RecStop) : Option State :=
  match e with
  | .fault (.missing l) va =>
    some (postFault (setJob s j { x with fault := true }) x.cluster
      (faultEntry l acc va 5 0 (coreAt s x.p).logical x.lid x.asid))
  | .fault (.held _) _ => none
  | .bad _ _ => settleJob s j x (.cancel 0xF2)
  | _ => settleJob s j x (.cancel 0xF3)

/-- The address of the state of a job's present layer, by the descriptor as CONF.exit read it (R152, R372, R375). -/
def jobStateAt (x : Job) : Nat := (kvOfBits x.kv.toNat).stateAt x.layer x.tok

/-- The state of a job's present layer (R375, R443). -/
def jobState (s : State) (x : Job) : Except RecStop (State × Nat) := agentRead s x.p x.lid x.sv 1 (jobStateAt x)

/-- The routine record of a job: its input and group must be 0 (R374). DEDUCED, log 18. -/
def jobRecord (s : State) (x : Job) : Except RecStop (State × Record) := do
  let (s1, r) ← agentRecord s x.p x.lid x.sv x.bfjob.toNat
  if r.waitf = 0 && r.group = 0 then .ok (s1, r) else .error (.bad 0 11)

/-- The handle that a layer's task future takes: under replay the logged one; none while there is none (R360, R374). -/
def jobFuture (s : State) (x : Job) : Option (BitVec 32) :=
  if rrMode s x.lid = 2 then
    let who := unitWord s x.lid x.p 5
    match launchAt s x.lid with
    | some l =>
      match (rrLog s x.lid).zipIdx.find? fun e => !(l.rrDone.contains e.2) && fieldN e.1.1 32 8 == 8 && e.1.2 == who with
      | some e => let h := BitVec.ofNat 32 e.1.1
                  if futFree s (hIndex h) then some h else none
      | none => none
    | none => none
  else (futChoose s (some (x.cluster / 128))).map (handleOf s)

/-- The routine of a layer built as a task and made ready in the unit's own cluster (R374). DEDUCED, log 18. -/
def startRoutine (s : State) (j : Nat) (x : Job) (r : Record) : Option State :=
  match jobFuture s x with
  | none => some (setJob s j { x with waiting := true })
  | some h =>
    let who := unitWord s x.lid x.p 5
    (rrAllow s x.lid 8 h.toNat who).map fun s1 =>
      let s2 := logFut (futAlloc s1 h x.lid 0) h ⟨8, x.lid, who, false⟩
      let t := s2.nextTask
      let task := { r.task h x.lid x.asid x.cluster x.sv false x.tvec x.wid with job := some j }
      makeReady { s2 with tasks := tset s2.tasks t task, nextTask := t + 1,
                          jobs := tset s2.jobs j { x with waiting := false, found := none, task := some h.toNat } } t

/-- The state byte of the present layer is looked at once: a VALID layer is skipped (R375). -/
def testLayer (s : State) (j : Nat) (x : Job) : Option State :=
  match jobState s x with
  | .error e => jobStop s j x 0 e
  | .ok (s1, 1) => some (setJob s1 j { x with layer := x.layer + 1 })
  | .ok (s1, _) => some (setJob s1 j { x with tested := true })

/-- The routine record of the present layer is read once, and kept for a later try to allocate its future (R374). -/
def readRecord (s : State) (j : Nat) (x : Job) : Option State :=
  match jobRecord s x with
  | .error e => jobStop s j x 0 e
  | .ok (s1, r) => some (setJob s1 j { x with found := some (BitVec.ofNat 2048 r.bits, r.map, r.footPa) })

/-- A running job makes its next step at its present layer: past the last it ends with FSET of the layers filled; otherwise
the state is tested, the record read and the routine built, in this order, each from where the job stands (R374, R375).
None when a replay holds it. DEDUCED, log 18. -/
def stepJob (s : State) (j : Nat) (x : Job) : Option State :=
  if x.last < x.layer then settleJob s j x (.resolve (some (word x.filled)))
  else if !x.tested then testLayer s j x
  else match x.found with
    | none => readRecord s j x
    | some (b, m, pa) => startRoutine s j x ⟨b.toNat, m, pa⟩

/-- The launch of a job is live and no grey-out has stopped it (R377). -/
def jobLive (s : State) (x : Job) : Bool := (launchAt s x.lid).any fun l => !l.greying

/-- A job that has a step to make: it runs, no routine of it is out, no fault is open, and where it waits for a future an
entry is to be had. -/
def jobCanStep (s : State) (x : Job) : Bool :=
  jobLive s x && x.running && x.task.isNone && !x.fault && (!x.waiting || (jobFuture s x).isSome)

/-- What a job's descriptor address is an address of: its address space, or for the vault window the vault of its core's
cluster, which is that of the core's logical number (R45, R371). -/
def jobSpace (s : State) (x : Job) : Nat :=
  if isNear x.desc.toNat then 65536 + logCluster (if x.cluster = 2048 then x.p else (coreAt s x.p).logical) else x.asid

/-- Two jobs are of one token: the same descriptor and the same token of its region (R374). DEDUCED, log 18. -/
def sameToken (s : State) (x y : Job) : Bool := jobSpace s x == jobSpace s y && x.desc == y.desc && x.tok == y.tok

/-- A queued job may start: fewer than 16 run in its unit, and no older job of its token is unfinished (R374). -/
def jobCanStart (s : State) (j : Nat) (x : Job) : Bool :=
  jobLive s x && !x.running && (s.jobs.filter fun e => e.2.cluster == x.cluster && e.2.running).length < 16 &&
    s.jobs.all fun e => !(e.1 < j && sameToken s e.2 x)

/-- The jobs of a cluster that a test picks, oldest first. -/
def jobsWhere (s : State) (c : Nat) (f : Nat → Job → Bool) : List (Nat × Job) :=
  s.jobs.filter fun e => e.2.cluster == c && f e.1 e.2

/-- BACKFILL_JOB_START: the unit starts the jobs that may start, and one job that has a step to make makes it (R374). -/
def execBackfillJobStart (c : Nat) (s : State) : Out :=
  let s1 := match jobsWhere s c (jobCanStart s) with
    | (j, x) :: _ => setJob s j { x with running := true }
    | [] => s
  let s2 := match (jobsWhere s1 c fun _ x => jobCanStep s1 x).findSome? fun e => stepJob s1 e.1 e.2 with
    | some s' => s'
    | none => s1
  let more := !(jobsWhere s2 c (jobCanStart s2)).isEmpty || !(jobsWhere s2 c fun _ x => jobCanStep s2 x).isEmpty
  done s (if more then keepOnce s2 (.backfillJobStart c) else s2)

/-- The state of the present layer set VALID, once it may be written (R375). DEDUCED, log 18. -/
def validateLayer (s : State) (j : Nat) (x : Job) : Except RecStop (Option State) := do
  let va := jobStateAt x
  match physFor s x.p x.lid x.sv .write 1 va with
  | .error e => .error (.fault e va)
  | .ok (s2, pa) =>
    if (poisoned s2 pa 1).isSome then .error (.mcheck va pa)
    else if !(isNear va) && pageHeld s2 x.asid va then .ok none
    else
      let s3 := if isNear va then s2 else countPlace s2 x.cluster x.asid va pa true
      .ok (some (agentWrite s3 (jobAgent j) pa 1 1))

/-- A job whose routine has retired goes on to its next layer. -/
def nextLayer (x : Job) : Job := { x with layer := x.layer + 1, filled := x.filled + 1, task := none }

/-- The future of a job's routine has been cancelled: the code. DEDUCED, log 18. -/
def routineCancelled (s : State) (x : Job) : Option Nat :=
  (x.task.bind fun h => futOf s (BitVec.ofNat 32 h)).bind fun f =>
    if f.st = .cancelled then some f.value.toNat else none

/-- The VALID of a layer has been sent: the job goes on when it has been performed, which it has not while a strand reserves
its word (R177, R375). -/
def layerDone (s0 s : State) (j : Nat) (x : Job) : Out :=
  done s0 (if writesWaiting s (jobAgent j) then addEvent s (.backfillLayerDone j)
    else keepOnce (setJob s j (nextLayer x)) (.backfillJobStart x.cluster))

/-- BACKFILL_LAYER_DONE: the routine of a layer is done with; its layer becomes VALID and the job goes on, or the job
ends with the code of a cancelled routine (R375). -/
def execBackfillLayerDone (j : Nat) (s : State) : Out :=
  match tget s.jobs j with
  | none => done s s
  | some x =>
    if x.task.isNone || x.fault then done s s
    else if !(jobLive s x) then again s (.backfillLayerDone j)
    else if !x.tested then layerDone s s j x
    else
      match routineCancelled s x with
      | some c => match settleJob s j x (.cancel c) with
                  | some s1 => done s s1
                  | none => again s (.backfillLayerDone j)
      | none =>
        match validateLayer s j x with
        | .ok (some s1) => layerDone s (setJob s1 j { x with tested := false }) j { x with tested := false }
        | .ok none => again s (.backfillLayerDone j)
        | .error e => match jobStop s j x 1 e with
                      | some s1 => done s s1
                      | none => again s (.backfillLayerDone j)

end Sys2Proof.Machine
end

