-- ==== Sys2Proof/Machine/Roam.lean ====
section
/-!
DEFINITION. Roaming: ROAM, the arrival of its packet and the admission of guests (spec/05 R206; spec/13 R345, R346;
spec/01 R32, R47).
-/

namespace Sys2Proof.Machine

/-- The owner of the word at a physical address, if it has one (R206). DEDUCED, log 17. -/
def ownerOf (s : State) (pa : Nat) : Option RoamDest :=
  match placeOf s pa with
  | .ls p _ => some (.core p)
  | .vault c _ => some (.cluster c)
  | .pool _ => some (.cluster (Config.poolHome (pa / 65536) % Config.clusters))
  | _ => none

/-- The owner of a word that ROAM names, as its core resolves it (R47, R206). The address is translated as a read: a page
that may not be read, a hole or a device register traps PROTECT, where R206 speaks of a missing translation only.
DESIGN CHOICE, log 49. -/
def roamOwner (s0 s : State) (ea : Nat) : Res (State × RoamDest) :=
  if isNear ea then
    match nearOf s (curP s) ea 1 with
    | .raw q _ => .ok (s, .core q)
    | .vault c _ => .ok (s, .cluster c)
    | .bad => trapNow cPROTECT ea
    | _ => .ok (s, .core (curP s))
  else do
    let (s1, pa) ← strandPhys s0 s .read 1 0 ea
    match ownerOf s1 pa with
    | some o => .ok (s1, o)
    | none => trapNow cPROTECT ea

/-- The strand as a packet holds it (R345): without a place of its own, with the names of its region; what the packet has
no bit for is not carried. -/
def packStrand (s : State) (o : RoamDest) : Packet :=
  let t := curStrand s
  let names := fieldN (coreAt s (curP s)).ubank.toNat t.ubase.toNat (mapBits t.map false)
  { strand := { t with pc := nextPc s t, q := 0, helper := false, mons := [], takes := [], lineBuf := none,
                       resumed := false, answer := none, job := none, lastIssue := none, yieldAt := none, skipBrk := false },
    names := BitVec.ofNat 1536 names, dest := o, landed := false }

/-- A row with an uncorrectable error, or one that a repack holds, in the strand's region keeps the names from being
read: the EVAL of the MCHECK (R403). -/
def regionBad (s : State) : Option Nat :=
  let t := curStrand s
  let c := coreAt s (curP s)
  (t.map.entries.zipIdx.findSome? fun e => badRowEval c t (entryInfo (e.2 + 1) e.1))

/-- The packet sets out, and the slot becomes FREE (R206). -/
def sendPacket (s : State) (o : RoamDest) : State :=
  let id := s.nextPacket
  let s1 := freeSlot { s with packets := tset s.packets id (packStrand s o), nextPacket := id + 1 } s.cur
  addEvent s1 (.roamPacketArrival id)

/-- ROAM (R206). -/
def execRoam (g : Guard) (a : NameIx) (s : State) : Out :=
  uniformOp s g false true [] [a] (fun _ is => allInt is) fun s' _ xs => do
    let t := curStrand s'
    let ea := (nth xs 0).pat 0 % 2 ^ 48
    if curSlot s' == 0 || !(mapRoam t.map.header.toNat) || t.holds.isSome ||
        someBound (coreAt s' (curP s')) (curSlot s') then illegal s
    else do
      let (s1, o) ← roamOwner s s' ea
      if o = .core (curP s1) then .ok (advance s1)
      else if bitsLocked (coreAt s1 (curP s1)) false t.ubase.toNat t.usize.toNat then parkNow .repack
      else
        match regionBad s1 with
        | some v => trapNow cMCHECK v
        | none => (settleStores s1).map fun s2 => sendPacket s2 o

/-! ### Arrival (R346) -/

/-- A slot that a strand which roams may take is FREE (R340). -/
def guestSlots (s : State) (p : Nat) : List Nat := [13, 14, 15].filter (slotFree s p)

/-- Column and row of a cluster on the module's 64 by 32 grid of clusters (R281). -/
def gridX (c : Nat) : Nat := c / 128 % 4 * 16 + c % 16
def gridY (c : Nat) : Nat := c / 128 / 4 * 8 + c % 128 / 16

/-- Mesh hops between clusters (R281). -/
def hops (a b : Nat) : Nat :=
  (gridX a - gridX b) + (gridX b - gridX a) + (gridY a - gridY b) + (gridY b - gridY a)

/-- The core of a launch nearest to a cluster, on a tie the one of the lowest logical number (R346).
DEDUCED, log 17. -/
def nearestCore (l : Launch) (c : Nat) : Option Nat :=
  (l.coreMap.foldl (fun (best : Option (Nat × Nat)) e =>
    let d := hops (clusterOf e.2) c
    match best with
    | some b => if d < b.1 then some (d, e.2) else best
    | none => some (d, e.2)) none).map (·.2)

/-- The core that a cluster's dispatcher picks for a packet of a launch (R346). DEDUCED, log 17. -/
def pickCore (s : State) (l : Launch) (c : Nat) : Option Nat :=
  let cs := l.coreMap.filter fun e => clusterOf e.2 == c
  let free (p : Nat) : Option Nat := if (guestSlots s p).isEmpty then none else some p
  ((fewestStrands s free cs).orElse fun _ => fewestStrands s some cs).orElse fun _ => nearestCore l c

/-- The log's operation for roaming packets (R355). -/
def roamOp : Nat := 0x15

/-- What the log notes of a packet's owner: its logical core and the strand's work identifier. -/
def roamWord (s : State) (t : Strand) (p : Nat) : Nat := (coreAt s p).logical % 2 ^ 16 + t.wid.toNat % 2 ^ 48 * 2 ^ 16

/-- The owner of a packet that names a cluster, in its turn in a replay (R346, R355, R356). -/
def packetOwner (s : State) (l : Launch) (k : Packet) (c : Nat) : Option (State × Nat) :=
  let lid := k.strand.lid
  if rrMode s lid = 2 then
    match rrNext s lid (rrWord roamOp c 0 0) with
    | some (_, _, who) =>
      match tget l.coreMap (fieldN who 0 16) with
      | some p => (rrAllow s lid roamOp c (roamWord s k.strand p)).map fun s1 => (s1, p)
      | none => none
    | none => none
  else (pickCore s l c).map fun p => (rrAppend s lid (rrWord roamOp c 0 0) (roamWord s k.strand p), p)

/-- Where a packet goes: to the core it names if its launch holds it, otherwise to a core picked for its cluster. -/
def packetCore (s : State) (k : Packet) : Option (State × Nat) :=
  match launchAt s k.strand.lid with
  | none => none
  | some l =>
    match k.dest with
    | .core p => if l.coreMap.any (fun e => e.2 == p) then some (s, p) else (nearestCore l (clusterOf p)).map fun q => (s, q)
    | .cluster c => packetOwner s l k c

/-- Packets that have arrived at a core and wait for room in its guest queue, in order of arrival. -/
def landedAt (s : State) (p : Nat) : Table Packet := s.packets.filter fun e => e.2.landed && e.2.dest == .core p

/-- A packet joins the guest queue of a core. -/
def joinGuests (s : State) (id p : Nat) (k : Packet) : State :=
  keepOnce (modCore { s with packets := tdel s.packets id } p fun c => { c with guests := c.guests ++ [k] }) (.guestAdmit p)

/-- ROAM_PACKET_ARRIVAL: the packet's core is chosen once, as it arrives; it joins that core's guest queue of 8, or waits
for room there behind those that arrived before it (R345, R346). DEDUCED, log 17. -/
def execRoamPacketArrival (id : Nat) (s : State) : Out :=
  match tget s.packets id with
  | none => done s s
  | some k =>
    match k.landed, k.dest with
    | true, .core p =>
      if 8 ≤ (coreAt s p).guests.length then
        holdDelivery s (.roamPacketArrival id) fun e => match e with
          | .roamPacketArrival j => (landedAt s p).any fun x => x.1 == j
          | _ => false
      else done s (joinGuests s id p k)
    | _, _ =>
      match packetCore s k with
      | none => again s (.roamPacketArrival id)
      | some (s1, p) =>
        if 8 ≤ (coreAt s1 p).guests.length || !(landedAt s1 p).isEmpty then
          done s (addEvent { s1 with packets := tset s1.packets id { k with landed := true, dest := .core p } }
            (.roamPacketArrival id))
        else done s (joinGuests s1 id p k)

/-! ### Admission of a guest (R32, R346) -/

/-- A guest as it goes on in its slot: in rotation from the next cycle. DEDUCED, log 17. -/
def guestStrand (k : Packet) (u cycle : Nat) : Strand :=
  { withLayout k.strand k.strand.map u 0 with role := 2, run := .ready (cycle + 1) }

/-- The names of a guest put into its region; the rest of the region is 0 (R32). -/
def guestNames (k : Packet) (u : Nat) (c : Core) : Core :=
  let c := zeroRegions c u (uniformSize k.strand.map) 0 0
  { c with ubank := BitVec.ofNat 16384 (setFieldN c.ubank.toNat u (mapBits k.strand.map false) k.names.toNat) }

/-- A guest takes a slot, which of the free ones is open. DEDUCED, log 17. -/
def admitGuest (s : State) (p : Nat) (k : Packet) (rest : List Packet) (slots : List Nat) (u : Nat) : State :=
  let slot := slots.getD ((Config.freeWord (Config.draw (Config.draw s.tick 4) p)).toNat % slots.length) 13
  let s := modCore s p fun c => guestNames k u { c with guests := rest }
  setStrand s (16 * p + slot) (guestStrand k u s.cycle)

/-- GUEST_ADMIT (R346). -/
def execGuestAdmit (p : Nat) (s : State) : Out :=
  match (coreAt s p).guests with
  | [] => done s s
  | k :: rest =>
    match guestSlots s p, roamRegion s p k.strand.map with
    | [], _ => done s (keepOnce s (.guestAdmit p))
    | _, none => done s (keepOnce s (.guestAdmit p))
    | slots, some u =>
      let s1 := admitGuest s p k rest slots u
      done s (if rest.isEmpty then s1 else keepOnce s1 (.guestAdmit p))

end Sys2Proof.Machine
end

