-- ==== Sys2Proof/Machine/Launch.lean ====
section
/-!
DEFINITION. The launch unit: its queues, the checks of a header, admission, the start, the end and the watchdog (spec/13
R332-R341, R352-R354, R357; spec/17 R442, R443; spec/18 R412-R414; spec/19 R427, R428).
-/

namespace Sys2Proof.Machine

/-! ### The launch unit's own reads (R335, R443) -/

/-- A byte range cut at the 4 KiB pages. -/
def pageCuts (va n : Nat) : List (Nat × Nat) :=
  let lo := va % 4096
  (List.range (if n = 0 then 0 else (lo + n + 4095) / 4096)).map fun i =>
    let a := Nat.max (4096 * i) lo
    ((va + (a - lo)) % 2 ^ 48, Nat.min (4096 * i + 4096) (lo + n) - a)

/-- A translation for the launch unit: the range descriptors of the ASID, then the tables, in which a leaf that it uses is
marked accessed (R390). -/
def unitXlat (s : State) (asid : Nat) (sv : Bool) (va : Nat) : Except XFault (State × Nat) :=
  if isNear va then .error (.missing 0)
  else
    match (loadRanges s asid).find? fun (r : RangeEnt) => decide (r.vbase ≤ va) && decide (va ≤ r.vlast) with
    | some r => do
      leafAllows r.attr.toNat .read sv
      .ok (s, r.pbase + (va - r.vbase))
    | none => do
      let root ← asidRoot s asid
      let (x, _) ← walkFrom s asid 4 1 root va []
      leafAllows x.leaf .read sv
      let (s1, _) ← setBits s x .read
      .ok (s1, x.pa + va % 2 ^ x.bits)

/-- The status of a page that cannot be read (R335). -/
def stUnreadable : Nat := 11

/-- Not a status: the unit tries again, the bits of a table entry being at a word that a strand reserves (R177). -/
def stRetry : Nat := 0

/-- Bytes in one page, or the status with which they cannot be read. -/
def unitPiece (s : State) (asid : Nat) (sv : Bool) (va n : Nat) : Except Nat (State × Nat) :=
  match unitXlat s asid sv va with
  | .error (.held _) => .error stRetry
  | .error _ => .error stUnreadable
  | .ok (s1, pa) =>
    match placeOf s1 pa with
    | .hole => .error stUnreadable
    | .device _ => .error stUnreadable
    | _ => if (poisoned s1 pa n).isSome then .error stUnreadable else .ok (s1, loadPhys s1 pa n)

/-- Pieces one behind the other. -/
def unitPieces (asid : Nat) (sv : Bool) : State → List (Nat × Nat) → Except Nat (State × Nat)
  | s, [] => .ok (s, 0)
  | s, (va, n) :: r => do
    let (s1, v) ← unitPiece s asid sv va n
    let (s2, w) ← unitPieces asid sv s1 r
    .ok (s2, v + 2 ^ (8 * n) * w)

/-- `n` bytes for the launch unit, or the status. -/
def unitRead (s : State) (asid : Nat) (sv : Bool) (va n : Nat) : Except Nat (State × Nat) :=
  unitPieces asid sv s (pageCuts va n)

/-- The header at an address: its page is checked in the mode the header itself gives (R443). -/
def readHeader (s : State) (asid va : Nat) : Except Nat (State × Nat) := do
  let (_, h) ← unitRead s asid true va 256
  unitRead s asid (bitN h (8 * 0x68 + 4)) va 256

/-! ### The checks of a header (R335, R442) -/

/-- A header field, as of `Launch.field`. -/
def hf (h off lo len : Nat) : Nat := fieldN h (8 * off + lo) len

/-- The bits of a header that have to be 0, with the reserved values of PCLASS, RR and TFLOOR (status 2). -/
def headerZeroOk (h : Nat) : Bool :=
  [(0x00, 24, 40), (0x08, 48, 16), (0x10, 17, 47), (0x18, 32, 32), (0x20, 48, 16), (0x30, 48, 16), (0x38, 50, 14),
   (0x38, 17, 15), (0x40, 48, 16), (0x48, 48, 16), (0x50, 45, 19), (0x50, 17, 15), (0x58, 50, 14), (0x58, 17, 15),
   (0x60, 50, 14), (0x60, 17, 15), (0x68, 12, 52), (0x68, 7, 1), (0x70, 32, 32), (0x78, 32, 32), (0x80, 48, 16),
   (0x80, 0, 6), (0x88, 40, 24), (0x90, 0, 896)].all (fun x => hf h x.1 x.2.1 x.2.2 == 0) &&
  hf h 0x68 2 2 != 3 && hf h 0x68 5 2 != 3 && hf h 0x68 8 4 < 14

/-- Alignment (status 3). -/
def headerAligned (h : Nat) : Bool :=
  [(0x08, 0, 2), (0x10, 0, 3), (0x38, 0, 3), (0x50, 0, 3), (0x58, 0, 3), (0x60, 0, 6), (0x38, 32, 3), (0x50, 32, 3),
   (0x58, 32, 3), (0x60, 32, 6), (0x88, 0, 6)].all fun x => hf h x.1 x.2.1 x.2.2 == 0

/-- The rectangle: columns and rows. -/
def hdrX0 (h : Nat) : Nat := hf h 0x18 0 8
def hdrY0 (h : Nat) : Nat := hf h 0x18 8 8
def hdrX1 (h : Nat) : Nat := hf h 0x18 16 8
def hdrY1 (h : Nat) : Nat := hf h 0x18 24 8
def hdrW (h : Nat) : Nat := hdrX1 h - hdrX0 h + 1
def hdrH (h : Nat) : Nat := hdrY1 h - hdrY0 h + 1

/-- The logical cores of a header's rectangle in the order of R337. -/
def hdrCores (h : Nat) : List Nat :=
  (List.range (hdrW h * hdrH h)).map fun c => 256 * (hdrY0 h + c / hdrW h) + (hdrX0 h + c % hdrW h)

/-- The work-identifier fields fit (status 5; R337). -/
def headerIdsOk (h : Nat) : Bool :=
  let ws := (List.range 6).map fun n => hf h 0x20 (8 * n) 8
  let t := ws.sum
  ws.all (· ≤ 64) && t ≤ 64 && (t == 64 || hf h 0x28 0 64 + hdrW h * hdrH h - 1 < 2 ^ t)

/-- Image, argument copy, discardable region and footprint area as local-store ranges. -/
def hdrImage (h : Nat) : Nat × Nat := (hf h 0x38 0 17, hf h 0x38 32 18)
def hdrArgs (h : Nat) : Nat × Nat := (hf h 0x50 0 17, if hf h 0x48 0 48 = 0 then 0 else hf h 0x50 32 13)
def hdrDiscard (h : Nat) : Nat × Nat := (hf h 0x58 0 17, hf h 0x58 32 18)
def hdrFoot (h : Nat) : Nat × Nat := (hf h 0x60 0 17, hf h 0x60 32 18)

/-- Two ranges share a byte. -/
def meets (a b : Nat × Nat) : Bool := a.2 != 0 && b.2 != 0 && a.1 < b.1 + b.2 && b.1 < a.1 + a.2

/-- The header of the map image as the launch unit reads it by itself, ahead of the image's other pages (R442): none where
its page cannot be read, which is judged later. -/
def mapHeader (s : State) (asid h : Nat) : Option Nat :=
  ((unitRead s asid (bitN h (8 * 0x68 + 4)) ((hf h 0x30 0 48 + (hf h 0x10 0 17 - (hdrImage h).1)) % 2 ^ 48) 8).map
    (·.2)).toOption

/-- The map image, its header with its COUNT entries, lies wholly in the launch image. -/
def mapInImage (h : Nat) (hdr : Option Nat) : Bool :=
  let (o, n) := hdrImage h
  let m := hf h 0x10 0 17
  let count := (hdr.map mapCount).getD 0
  o ≤ m && m + 8 ≤ o + n && m + 8 + 4 * count ≤ o + n

/-- The extents (status 6); `img` is the header of the map image. -/
def headerExtentsOk (h : Nat) (img : Option Nat) : Bool :=
  [hdrImage h, hdrArgs h, hdrDiscard h, hdrFoot h].all (fun r => r.1 + r.2 ≤ 131072) && hf h 0x50 32 13 ≤ 4096 &&
    !(meets (hdrFoot h) (hdrImage h)) && !(meets (hdrFoot h) (hdrArgs h)) && mapInImage h img

/-- What a header's launch loads: the image, its full/empty bitmap if there is one, the arguments. -/
structure Load where
  img  : Nat
  fe   : Option Nat
  args : Nat

/-- Image, bitmap and arguments as read (status 11). -/
def readLoad (s : State) (asid h : Nat) : Except Nat (State × Load) := do
  let sv := bitN h (8 * 0x68 + 4)
  let (s1, img) ← unitRead s asid sv (hf h 0x30 0 48) (hdrImage h).2
  let fe := hf h 0x40 0 48
  let (s2, bits) ← unitRead s1 asid sv fe (if fe = 0 then 0 else ((hdrImage h).2 / 8 + 7) / 8)
  let (s3, args) ← unitRead s2 asid sv (hf h 0x48 0 48) (hdrArgs h).2
  .ok (s3, ⟨img, if fe = 0 then none else some bits, args⟩)

/-- The control strand's map in the image. -/
def loadMap (h img : Nat) : MapCopy :=
  let v := img / 2 ^ (8 * (hf h 0x10 0 17 - (hdrImage h).1))
  { header := word v,
    entries := (List.range (mapCount (fieldN v 0 64))).map fun i => BitVec.ofNat 32 (v / 2 ^ (64 + 32 * i)) }

/-- Whether one of `n` lines of a replay buffer from an address on holds the end event, up to a line that cannot be read: the
buffer then holds a complete record, whose last event this is (R358). -/
def recordComplete (asid : Nat) (sv : Bool) : Nat → Nat → State → Except Nat (State × Bool)
  | 0, _, s => .ok (s, false)
  | n + 1, va, s =>
    match unitRead s asid sv va 64 with
    | .ok (s1, v) =>
      if (List.range 4).any fun j => rrEnd (fieldN v (128 * j) 64) (fieldN v (128 * j + 64) 64) then .ok (s1, true)
      else recordComplete asid sv n ((va + 64) % 2 ^ 48) s1
    | .error st => if st = stRetry then .error st else .ok (s, false)

/-- The record or replay buffer (status 9). -/
def headerReplay (s : State) (asid h : Nat) : Except Nat State :=
  let rr := hf h 0x68 5 2
  if rr = 0 then .ok s
  else if hf h 0x88 0 40 = 0 then .error 9
  else if rr = 1 then .ok s
  else do
    let (s1, whole) ← recordComplete asid (bitN h (8 * 0x68 + 4)) (hf h 0x88 0 40 / 64) (hf h 0x80 6 42 * 64) s
    if whole then .ok s1 else .error 9

/-- A context: SELF lies in TORUS and its route names this module (R412, R413). -/
def contextOk (s : State) (ctx : Nat) : Bool :=
  let t := devReg s (0x1010 + 32 * ctx)
  let e := routeEntry s ctx (fieldN t 12 12)
  fieldN t 12 4 ≤ fieldN t 0 4 && fieldN t 16 4 ≤ fieldN t 4 4 && fieldN t 20 4 ≤ fieldN t 8 4 &&
    bitN e 31 && fieldN e 19 12 == 0 && fieldN e 12 4 == 0 && fieldN e 0 12 == Config.moduleId.toNat

/-- The physical cores of a list of logical ones by a context's core table, if every entry is usable (R413, R414). -/
def mapCores (s : State) (ctx : Nat) (ls : List Nat) : Option (Table Nat) :=
  ls.mapM fun l =>
    let e := coreTabEntry s ctx l
    if bitN e 31 && fieldN e 17 14 == 0 && fieldN e 0 17 < Config.physicalCores then some (l, fieldN e 0 17) else none

/-- A core map: no two logical cores on one physical core, and no physical core that another launch holds under another
logical number (status 12; R414). -/
def coresOk (s : State) (m : Table Nat) : Bool :=
  (m.map (·.2)).Nodup && m.all fun e => (coreAt s e.2).lid == 0 || (coreAt s e.2).logical == e.1

/-- The core map of a header's or a saved launch's rectangle, in rising logical order; none is status 12. -/
def placeLaunch (s : State) (ctx : Nat) (ls : List Nat) : Option (Table Nat) :=
  if contextOk s ctx then
    match mapCores s ctx ls with
    | some m => if coresOk s m then some (m.foldl (fun t e => tset t e.1 e.2) []) else none
    | none => none
  else none

/-- The rule code of a map that breaks R23 to R28, or that its regions do not fit (statuses 7 and 14).
DEDUCED, log 19. -/
def mapStatus (m : MapCopy) : Option (Nat × Nat) :=
  match mapFault m false fun _ _ => false with
  | some (_, c) => some (7, c)
  | none => if 16384 < uniformSize m || 8192 < laneSize m then some (14, 0) else none

/-- SETTLE names a live entry (status 10). -/
def settleOk (s : State) (h : Nat) : Bool := hf h 0x70 0 32 == 0 || (futOf s (BitVec.ofNat 32 (hf h 0x70 0 32))).isSome

/-- The header's own fields, up to the pages it names: the first status that fails (R442 steps 2 to 10).
DEDUCED, log 19. -/
def headerStatus (s : State) (q asid h : Nat) : Nat :=
  let img := mapHeader s asid h
  if hf h 0 0 16 != 0x4B48 || hf h 0 16 8 != 1 then 1
  else if !(headerZeroOk h) then 2
  else if q < 4 && hf h 0x68 0 2 != q then 13
  else if q < 4 && hf h 0x68 4 1 == 1 then 8
  else if !(headerAligned h) then 3
  else if hdrX1 h < hdrX0 h || hdrY1 h < hdrY0 h then 4
  else if !(headerIdsOk h) then 5
  else if !(headerExtentsOk h img) then 6
  else if !(settleOk s h) then 10
  else 0

/-- An accepted header: the state after its pages were read, what it loads, its core map. -/
structure Accepted where
  st   : State
  hdr  : Nat
  load : Load
  map  : Table Nat

/-- The whole check of a pushed header (R335, R442): accepted, or the status and the rule code; the status `stRetry` where the
unit has to read again. DEDUCED, log 19. -/
def checkHeader (s : State) (q : Nat) (v : BitVec 64) : Except (Nat × Nat) Accepted :=
  let asid := fieldN v.toNat 48 16
  match readHeader s asid (fieldN v.toNat 8 40 * 256) with
  | .error st => .error (st, 0)
  | .ok (s1, h) =>
    let st := headerStatus s1 q asid h
    if st != 0 then .error (st, 0)
    else
      match readLoad s1 asid h with
      | .error st => .error (st, 0)
      | .ok (s2, ld) =>
        match mapStatus (loadMap h ld.img) with
        | some x => .error x
        | none =>
          match headerReplay s2 asid h with
          | .error st => .error (st, 0)
          | .ok s3 =>
            match placeLaunch s3 (fieldN v.toNat 4 4) (hdrCores h) with
            | some m => .ok ⟨s3, h, ld, m⟩
            | none => .error (12, 0)

/-! ### Admission (R336, R338, R354) -/

/-- A live launch may be greyed out to make room for one of a priority (R354). -/
def yields (l : Launch) (prio : Nat) : Bool :=
  let own := l.field 0x68 0 2
  match l.field 0x68 2 2 with
  | 0 => own < prio
  | 1 => prio == 3 && own < 3
  | _ => false

/-- The live launches that hold a core of a map. -/
def holders (s : State) (m : Table Nat) : List Nat :=
  (m.flatMap fun e => (match holderOf s e.1 with
    | some h => [h.1]
    | none => []) ++ (if (coreAt s e.2).lid = 0 then [] else [(coreAt s e.2).lid])).eraseDups

/-- What the launch unit may do with a core map: take it, wait, or grey out those that hold it (R336). -/
inductive Room where
  | free
  | wait
  | grey (lids : List Nat)

/-- The room there is for a launch of a priority. -/
def roomFor (s : State) (m : Table Nat) (prio : Nat) : Room :=
  match holders s m with
  | [] => .free
  | hs => if hs.all fun i => (launchAt s i).any (yields · prio) then .grey hs else .wait

/-- An identifier that no live or greyed-out launch holds; which one is open (R335). DEDUCED, log 19. -/
def freshLid (s : State) : Option Nat :=
  let start := (Config.freeWord (Config.draw (Config.draw s.tick 3) 0)).toNat
  ((List.range (Nat.min 65535 (s.launches.length + s.saved.length + 1))).map fun i => (start + i) % 65535 + 1).find? fun i =>
    (tget s.launches i).isNone && (tget s.saved i).isNone

/-- Bytes put into a local store by a dispatcher, with the state of each word: bit i full (R338). -/
def loadLocal (s : State) (p off n v : Nat) (fe : Option Nat) : State :=
  let a := lsBase p + off
  let s := agentWrite s loadWriter a n v
  let kept := s.empties.filter fun w => !(a ≤ w && w < a + n)
  let new := match fe with
    | some b => (List.range (n / 8)).filterMap fun i => if bitN b i then none else some (a + 8 * i)
    | none => []
  { s with empties := new.foldl nInsert kept }

/-- What the dispatcher clears on a core that a launch takes (R338 step 2); a record names the launch's copies by how far
their numbers lie past the next one here (R355). -/
def clearCore (c : Core) (lid logical : Nat) : Core :=
  { c with mailbox := [], binds := [], inbox := [], inq := [], outq := [], streams := [], accs := [],
           tstore := tmap c.tstore fun _ x => { x with full := false }, ctl := [], cx := [], bars := [], guests := [],
           idBase := c.nextId,
           mx := Engine.idle, vx := Engine.idle, copies := [], repack := none, lid := lid, logical := logical }

/-- A core made ready for a launch (R338 step 2). -/
def prepareCore (h : Nat) (ld : Load) (lid : Nat) (s : State) (e : Nat × Nat) : State :=
  let s := modCore (flushMerge s e.2) e.2 fun c => clearCore c lid e.1
  let s := loadLocal s e.2 (hdrImage h).1 (hdrImage h).2 ld.img ld.fe
  loadLocal s e.2 (hdrArgs h).1 (hdrArgs h).2 ld.args none

/-- A launch as admitted. -/
def newLaunch (s : State) (q : Nat) (v : BitVec 64) (a : Accepted) : Launch :=
  let asid := fieldN v.toNat 48 16
  let l : Launch := { hdr := BitVec.ofNat 2048 a.hdr, hdrAddr := BitVec.ofNat 48 (fieldN v.toNat 8 40 * 256), queue := q,
                      asid := asid, ctx := fieldN v.toNat 4 4, coreMap := a.map, ranges := loadRanges s asid,
                      fe := a.load.fe.map (BitVec.ofNat 16384), started := false, greying := false, frozen := false,
                      frozenIn := [], hung := false, wdogLeft := 0, rrPos := 0,
                      rrFull := false, rrDone := [], rrWait := [] }
  { l with wdogLeft := l.period }

/-- The log's operation for the inputs of a launch (R355). -/
def inputOp : Nat := 0x16

/-- The inputs of a launch that records: header, image and argument block as read, one event for each 8 bytes, numbered on
from one to the next (R355). DESIGN CHOICE, log 13. DEDUCED, log 13. -/
def recordInputs (s : State) (lid : Nat) (a : Accepted) : State :=
  let words (v n : Nat) : List Nat := (List.range (n / 8)).map fun i => fieldN v (64 * i) 64
  let all := words a.hdr 256 ++ words a.load.img (hdrImage a.hdr).2 ++ words a.load.args (hdrArgs a.hdr).2
  if rrMode s lid != 1 then s
  else all.zipIdx.foldl (fun acc x => rrAppend acc lid (rrWord inputOp x.2 0 0) x.1) s

/-- Admission of an accepted header (R335, R338). -/
def admitLaunch (q : Nat) (v : BitVec 64) (a : Accepted) : State :=
  match freshLid a.st with
  | none => a.st
  | some lid =>
    let s := recordInputs { a.st with launches := tset a.st.launches lid (newLaunch a.st q v a) } lid a
    let s := a.map.foldl (prepareCore a.hdr a.load lid) s
    addEvent (report s lid 0 0 0) (.launchStartBroadcast lid)

/-- Queue `q`. -/
def queueOf (s : State) (q : Nat) : List QItem := tgetD s.lq q []

/-- The head leaves a queue. -/
def popQueue (s : State) (q : Nat) : State := { s with lq := tset s.lq q ((queueOf s q).drop 1) }

/-- A saved launch. -/
def savedAt (s : State) (lid : Nat) : Option Saved := tget s.saved lid

/-- The priority of a head: that of its queue, of the header in the diagnostics queue, or of the launch that has
returned (R334, R354). -/
def headPrio (s : State) (q : Nat) (x : QItem) : Nat :=
  match x with
  | .back lid => ((savedAt s lid).map fun x => x.launch.field 0x68 0 2).getD 0
  | .push v =>
    if q < 4 then q
    else
      match readHeader s (fieldN v.toNat 48 16) (fieldN v.toNat 8 40 * 256) with
      | .ok x => hf x.2 0x68 0 2
      | .error _ => 0

/-- The heads in the order they are considered: by decreasing priority, the diagnostics head first among equals
(R334). -/
def heads (s : State) : List (Nat × QItem) :=
  let hs := [4, 0, 1, 2, 3].filterMap fun q => (queueOf s q).head?.map fun x => (q, x)
  [3, 2, 1, 0].flatMap fun p => hs.filter fun e => headPrio s e.1 e.2 == p

/-- What considering one head does: it leaves its queue with a new state, it waits, or it waits for grey-outs. -/
inductive HeadResult where
  | taken (s : State)
  | wait
  | grey (lids : List Nat)

/-- Some core of a map is lasting-faulty, and its entry not rewritten yet (R416, R437). -/
def someFaulty (s : State) (m : Table Nat) : Bool := m.any fun e => s.hub.faulty.contains (.core e.2)

/-- The logical cores of a saved launch whose entries name a lasting-faulty core (R416). -/
def faultyCores (s : State) (l : Launch) : List Nat :=
  (hdrCores l.hdr.toNat).filter fun c =>
    let e := coreTabEntry s l.ctx c
    bitN e 31 && s.hub.faulty.contains (.core (fieldN e 0 17))

/-- Worash is to rewrite the entries of a saved launch that name lasting-faulty cores (R416). -/
def askWorash (s : State) (l : Launch) : State :=
  let xs := ((faultyCores s l).map fun c => Input.retireCore l.ctx c).filter fun i => !(s.inputs.contains i)
  { s with inputs := s.inputs ++ xs }

/-- A greyed-out launch waits in no queue: it has a lasting-faulty core (R416). DEDUCED, log 54. -/
def waitsForCore (s : State) (lid : Nat) (x : Saved) : Bool :=
  !(faultyCores s x.launch).isEmpty && s.lq.all fun e => !(e.2.contains (.back lid))

/-- A pushed head, which waits while a core of its map is lasting-faulty; the report of a refusal carries the header address
and, from bit 48, the rule code of R29. DEDUCED, log 19. DEDUCED, log 54. -/
def considerPush (s : State) (q : Nat) (v : BitVec 64) : HeadResult :=
  match checkHeader s q v with
  | .error (st, code) =>
    if st = stRetry then .wait
    else .taken (popQueue (report s 0 st 1 (fieldN v.toNat 8 40 * 256 + code * 2 ^ 48)) q)
  | .ok a =>
    if someFaulty s a.map then .wait
    else
    match roomFor s a.map (hf a.hdr 0x68 0 2) with
    | .free => if (freshLid s).isSome then .taken (popQueue (admitLaunch q v a) q) else .wait
    | .wait => .wait
    | .grey ls => .grey ls

/-- The logical cores of a launch's rectangle. -/
def launchCores (l : Launch) : List Nat := hdrCores l.hdr.toNat

/-- A launch that has returned: it is restored when its cores are free (R354, R406); an unusable context refuses it with
status 12 (R412, R414). With a core that has become lasting-faulty it leaves the queue until Worash has rewritten the entry
(R416). DEDUCED, log 54. -/
def considerBack (s : State) (q lid : Nat) : HeadResult :=
  match savedAt s lid with
  | none => .taken (popQueue s q)
  | some x =>
    if !(faultyCores s x.launch).isEmpty then .taken (askWorash (popQueue s q) x.launch)
    else
    match placeLaunch s x.launch.ctx (launchCores x.launch) with
    | none => .taken (popQueue (report s lid 12 1 x.launch.hdrAddr.toNat) q)
    | some m =>
      match roomFor s m (x.launch.field 0x68 0 2) with
      | .free => .taken (addEvent (popQueue s q) (.restore lid))
      | .wait => .wait
      | .grey ls => .grey ls

/-- The heads in turn: the first that leaves its queue decides; a head that waits for grey-outs holds back those behind
it (R334, R336). -/
def considerHeads (s : State) : List (Nat × QItem) → State
  | [] => s
  | (q, x) :: r =>
    match (match x with
      | .push v => considerPush s q v
      | .back lid => considerBack s q lid) with
    | .taken s1 => s1
    | .wait => considerHeads s r
    | .grey ls => ls.foldl (fun acc i => keepOnce acc (.greyOut i)) s

/-- The module is quiescing as a whole: CKPT is BUSY, or it is to be powered down; nothing is admitted (R435, R438). -/
def moduleQuiescing (s : State) : Bool := bitN (devReg s 0x5200) 63 || s.agenda.contains .thermalShutdown

/-- LAUNCH_ADMIT: nothing is admitted while the report ring is full (R428). -/
def execLaunchAdmit (s : State) : Out :=
  let s1 := if !(ringFull s) && !(moduleQuiescing s) then considerHeads s (heads s) else s
  done s (if (heads s1).isEmpty then s1 else keepOnce s1 .launchAdmit)

/-- LQPUSH (R427): a push completes when its queue has room. -/
def execLqpush (q : Nat) (v : BitVec 64) (s : State) : Out :=
  if fieldN v.toNat 0 4 != 0 then done s (report s 0 2 1 (fieldN v.toNat 8 40 * 256))
  else if 64 ≤ (queueOf s q).length then again s (.lqpush q v)
  else done s (keepOnce { s with lq := tset s.lq q (queueOf s q ++ [.push v]) } .launchAdmit)

/-! ### The start (R337, R338) -/

/-- The control strand of core number `c` of a launch as it starts (R338): with kydb attached it is halted before its first
instruction (R275). DEDUCED, log 32. -/
def controlStrand (s : State) (l : Launch) (lid c : Nat) (m : MapCopy) : Strand :=
  { withLayout Strand.blank m 0 0 with
      pc := BitVec.ofNat 48 (l.field 0x08 0 48), sv := l.field 0x68 4 1 == 1, lid := lid, uid := s.nextUid,
      wid := word (l.field 0x28 0 64 + c), run := .ready s.cycle, halted := if s.kydb then some s.cycle else none }

/-- One core starts: its map is the image's, its names are 0. -/
def startCore (l : Launch) (lid : Nat) (s : State) (e : Nat × Nat) : State :=
  let m := imageAt s (lsBase e.2 + l.field 0x10 0 17)
  let h := l.hdr.toNat
  let c := (logX e.1 - hdrX0 h) + hdrW h * (logY e.1 - hdrY0 h)
  let s := modCore s e.2 fun x => zeroRegions x 0 (uniformSize m) 0 (laneSize m)
  setStrand { s with nextUid := s.nextUid + 1 } (16 * e.2) (controlStrand s l lid c m)

/-- LAUNCH_START_BROADCAST: once every local store is loaded (R177), the control strands enter rotation; from now on the
launch's end and its watchdog are looked for (R338, R341, R352). -/
def execLaunchStartBroadcast (lid : Nat) (s : State) : Out :=
  match launchAt s lid with
  | none => done s s
  | some l =>
    if l.started then done s s
    else if writesWaiting s loadWriter then again s (.launchStartBroadcast lid)
    else
      let s1 := l.coreMap.foldl (startCore l lid) s
      let s2 := { s1 with launches := tset s1.launches lid { l with started := true } }
      done s (addEvent (addEvent s2 (.launchEnd lid)) (.watchdogExpiry lid))

/-! ### The end (R341, R353, R357, R361) -/

/-- An engine has no command. -/
def Engine.empty (e : Engine) : Bool := e.executing.isNone && e.queue.isEmpty

/-- Nothing of a launch remains (R341, R374). -/
def launchOver (s : State) (l : Launch) (lid : Nat) : Bool :=
  l.started && s.strands.all (fun e => e.2.lid != lid) && s.tasks.all (fun e => e.2.lid != lid) &&
    s.packets.all (fun e => e.2.strand.lid != lid) && s.jobs.all (fun e => e.2.lid != lid) &&
    l.coreMap.all fun e =>
      let c := coreAt s e.2
      c.mx.empty && c.vx.empty && c.copies.isEmpty && c.guests.isEmpty

/-- A freed core: what was still in mailboxes, inboxes or queues is discarded (R341). -/
def freedCore (c : Core) : Core :=
  { c with mailbox := [], binds := [], inbox := [], inq := [], outq := [], wmb := [], lid := 0, logical := 0 }

/-- Cores have become free: the heads of the queues are considered, and Worash looks again for a core for each launch that
waits for one (R336, R416). -/
def coresFreed (s : State) : State :=
  s.saved.foldl (fun acc e => if waitsForCore acc e.1 e.2 then askWorash acc e.2.launch else acc) (keepOnce s .launchAdmit)

/-- The merge buffers of a launch's cores written out (R286). -/
def flushCores (s : State) (l : Launch) : State := l.coreMap.foldl (fun acc e => flushMerge acc e.2) s

/-- A write of one of a launch's merge buffers still waits at a word that a strand reserves (R177). -/
def mergeWaits (s : State) (l : Launch) : Bool := l.coreMap.any fun e => writesWaiting s (mergeAgent e.2)

/-- The cores of a launch freed, its name gone. -/
def freeCores (s : State) (l : Launch) (lid : Nat) : State :=
  let s1 := l.coreMap.foldl (fun acc e => modCore (flushMerge acc e.2) e.2 freedCore) s
  coresFreed { s1 with launches := tdel s1.launches lid }

/-- The end event of a launch that records and whose buffer has room for it (R358). -/
def endRecord (s : State) (lid : Nat) : State := rrAppend s lid (rrWord 0xFF 0 0 0) 0

/-- SETTLE resolved with 0, an operation of the launch, and the entries that the launch owns freed (R341, R358, R361). -/
def endFutures (s : State) (l : Launch) (lid : Nat) : State :=
  let h := BitVec.ofNat 32 (l.field 0x70 0 32)
  let s := if l.field 0x70 0 32 = 0 then s else settle s h (.resolve (some 0)) (homeLog 2 lid)
  (s.futures.filter fun e => e.2.owner == lid && e.2.st != .empty).foldl (fun acc e => futRelease acc e.1) s

/-- Recorded events of a launch wait to be written (R390). DEDUCED, log 13. -/
def recordWaits (s : State) (lid : Nat) : Bool := (launchAt s lid).any fun l => !l.rrWait.isEmpty

/-- SETTLE set and its futures freed, which the record of a launch still notes; its record closed. -/
def closeLaunch (s : State) (l : Launch) (lid : Nat) : State := endRecord (endFutures s l lid) lid

/-- A launch that is over ends: closed, its cores freed, reported; not yet, where an event of its record could not be written
now (R177, R390). -/
def endLaunch (s : State) (l : Launch) (lid : Nat) : Option State :=
  let s1 := closeLaunch s l lid
  let cut := ((launchAt s1 lid).map (·.rrFull)).getD false
  if recordWaits s1 lid then none
  else some (report (freeCores s1 l lid) lid 0 (if l.field 0x68 5 2 = 1 && cut then 3 else 2) 0)

/-- LAUNCH_END (R341): not while the report ring is full (R428), nor before every access of the launch has been performed. -/
def execLaunchEnd (lid : Nat) (s : State) : Out :=
  match launchAt s lid with
  | none => done s s
  | some l =>
    if launchOver s l lid && !(ringFull s) then
      let s1 := rrRetry (flushCores s l) lid
      done s ((if mergeWaits s1 l then none else endLaunch s1 l lid).getD (keepOnce s1 (.launchEnd lid)))
    else done s (keepOnce s (.launchEnd lid))

/-! ### The watchdog (R352, R353) -/

/-- The strands of a launch that have been parked longer than one period, each with its logical core, its slot and the cause
of its park (R352). -/
def parkedLong (s : State) (lid period : Nat) : List (Nat × Nat × Park) :=
  s.strands.filterMap fun e =>
    if e.2.lid = lid && e.2.parkedAt + period < s.cycle then
      match e.2.run with
      | .parked w => some ((coreAt s (keyCore e.1)).logical, e.1 % 16, w)
      | _ => none
    else none

/-- The first of them as the 16 bytes of a report in the ring name it; all of them go to Worash. DEDUCED, log 20. -/
def parkedWord (ps : List (Nat × Nat × Park)) : Nat :=
  match ps with
  | (l, slot, _) :: _ => slot + 2 ^ 4 * l
  | [] => 0

/-- WATCHDOG_EXPIRY: the count has reached 0: dispatch is frozen and the launch reported as hung (R352).
DEDUCED, log 20. -/
def execWatchdogExpiry (lid : Nat) (s : State) : Out :=
  match launchAt s lid with
  | none => done s s
  | some l =>
    if l.hung then done s s
    else if l.wdogLeft = 0 && l.started then
      let ps := parkedLong s lid l.period
      done s (report { s with launches := tset s.launches lid { l with hung := true, frozen := true },
                              told := s.told ++ [.hung lid ps] } lid 0 5 (parkedWord ps))
    else done s (keepOnce s (.watchdogExpiry lid))

/-- LIFT_THE_FREEZE (R352). DEDUCED, log 20. -/
def execLiftTheFreeze (lid : Nat) (s : State) : Out :=
  match launchAt s lid with
  | none => done s s
  | some l =>
    if l.hung then
      let l1 : Launch := { l with hung := false, frozen := false, wdogLeft := l.period }
      done s (keepOnce { s with launches := tset s.launches lid l1 } (.watchdogExpiry lid))
    else done s s

/-- A strand that Worash ends: it leaves every list it stands in, a reservation it holds is dropped, its slot is FREE. -/
def killStrand (s : State) (k : Nat) : State :=
  let t := strandAt s k
  let s := withdraw s k
  let s := match t.holds with
    | some h => releaseWord s h.1
    | none => s
  freeSlot s k

/-- Everything of a launch but its cores and futures goes: strands, packets, guests, jobs, commands, copies. -/
def killLaunch (s : State) (l : Launch) (lid : Nat) : State :=
  let s := (s.strands.filter fun e => e.2.lid == lid).foldl (fun acc e => killStrand acc e.1) s
  let s := { s with packets := s.packets.filter (fun e => e.2.strand.lid != lid),
                    jobs := s.jobs.filter (fun e => e.2.lid != lid) }
  l.coreMap.foldl (fun acc e => modCore acc e.2 fun c =>
    { c with mx := Engine.idle, vx := Engine.idle, copies := [], guests := [] }) s

/-- The tasks of a launch cancelled with code 0xF0 (R353). -/
def cancelTasks (s : State) (lid : Nat) : State :=
  (s.tasks.filter fun e => e.2.lid == lid).foldl (fun acc e =>
    if (taskAt acc e.1).isSome then settleTask acc e.1 7 (.cancel 0xF0) else acc) s

/-- A launch has been reported to Worash, as hung or as faulted, and may be ended (R339, R352, R353). -/
def endable (s : State) (l : Launch) (lid : Nat) : Bool :=
  l.hung || !l.frozenIn.isEmpty || s.strands.any fun e => e.2.lid == lid && e.2.run == .stopped

/-- END_LAUNCH_AS_HUNG: Worash ends a launch that is hung or has faulted (R339, R352, R353). DEDUCED, log 20. -/
def execEndLaunchAsHung (lid : Nat) (s : State) : Out :=
  match launchAt s lid with
  | none => done s s
  | some l =>
    if !(endable s l lid) then done s s
    else if ringFull s then again s (.endLaunchAsHung lid)
    else
      match endLaunch (cancelTasks (killLaunch s l lid) lid) l lid with
      | some s1 => done s s1
      | none => again s (.endLaunchAsHung lid)

/-- LRHEAD_WRITE: held reports are written as the head advances (R428). -/
def execLrheadWrite (v : BitVec 64) (s : State) : Out :=
  done s (flushReports { s with lrHead := BitVec.setWidth 32 v })

end Sys2Proof.Machine
end

