-- ==== Sys2Proof/Machine/Mx.lean ====
section
/-!
DEFINITION. The commands of the MX engine (spec/06 R227-R235; spec/07 R266-R267; spec/14 R378).
-/

namespace Sys2Proof.Machine

/-! ### Accumulators (R227) -/

/-- An accumulator tile. One that no command has set is as ACCZ leaves it (R338). -/
def accAt (c : Core) (n : Nat) : Acc := tgetD c.accs n Acc.zeroed

/-- The elements of an accumulator as rows of 32-bit patterns. -/
def accRows (a : Acc) : List (List Nat) :=
  (List.range 32).map fun i => (List.range 32).map fun j => fieldN a.vals.toNat (32 * (32 * i + j)) 32

/-- Rows of patterns packed. -/
def packRows (rows : List (List Nat)) : BitVec 32768 := BitVec.ofNat 32768 (packList 32 rows.flatten)

/-- An accumulator of type INT32. -/
def Acc.isInt (a : Acc) : Bool := a.ty == 1

/-- A domain agrees with the accumulator's: unset takes any; plain and hrow of one LVL match themselves (R227). -/
def Acc.admits (a : Acc) (d : Desc) : Bool :=
  a.dom == 0 || (a.dom == 1 && d.dom == 0) || (a.dom == 2 && d.dom == 1 && a.lvl.toNat == d.lvl)

/-- The attributes after a command with an operand of a domain: DOM and LVL set, SHADE lowered to its shade if it is in
the Haar domain, MASK with its effective mask (R227, R231). -/
def Acc.merge (a : Acc) (d : Desc) (shade mask : Nat) (rows : List (List Nat)) : Acc :=
  { a with vals := packRows rows, dom := if d.dom = 0 then 1 else 2, lvl := BitVec.ofNat 3 d.lvl,
           shade := BitVec.ofNat 4 (if d.dom = 0 then a.shade.toNat else Nat.min a.shade.toNat shade),
           mask := a.mask ||| BitVec.ofNat 32 mask }

/-- Put an accumulator. -/
def setAcc (s : State) (p n : Nat) (a : Acc) : State := modCore s p fun c => { c with accs := tset c.accs n a }

/-! ### Products (R229, R266, R267) -/

/-- A block sum: exact, a NaN with INVALID if a factor is a NaN, a product is 0 × ∞ or infinities of both signs
occur. -/
def blockSum (as bs : List FVal) : FVal × Bool :=
  let ps := as.zipWith FVal.mul bs
  if ps.any fun x => x.1.isNan then (.nan, true) else sumExact (ps.map (·.1))

/-- C + rne32(s) for FP32, with two roundings; sat32(C + s) for INT32. -/
def accumulate (int : Bool) (c : Nat) (s : FVal × Bool) : Nat × BitVec 8 :=
  if int then storeInt 32 Rec.default (ofInt (toSigned 32 c + s.1.toInt))
  else
    let r := r32of s
    let t := (fp32.decode c).add r.1
    let x := r32of t
    ((fp32.ieee 0 t.1).1, r.2 ||| x.2)

/-- One K block: row i of C takes the products of row i of A with the columns of B, unless it is skipped (R229,
R231). `as` are A's rows of the block, `bs` B's columns. -/
def kBlock (int : Bool) (live : Nat → Bool) (as bs : List (List FVal)) (c : List (List Nat)) :
    List (List Nat) × BitVec 8 :=
  let out := (c.zip as).zipIdx.map fun r =>
    if live r.2 then
      let xs := (r.1.1.zip bs).map fun x => accumulate int x.1 (blockSum r.1.2 x.2)
      (xs.map (·.1), orFlags (xs.map (·.2)))
    else (r.1.1, 0)
  (out.map (·.1), orFlags (out.map (·.2)))

/-- K blocks in order: A's rows and B's columns of each (R230). -/
def kBlocks (int : Bool) (live : Nat → Bool) : List (List (List FVal) × List (List FVal)) → List (List Nat) →
    List (List Nat) × BitVec 8
  | [], c => (c, 0)
  | b :: r, c =>
    let (c', fl) := kBlock int live b.1 b.2 c
    let (c'', fl') := kBlocks int live r c'
    (c'', fl ||| fl')

/-- 32 columns of rows, from a column on. -/
def colSlice (lo : Nat) (m : List (List FVal)) : List (List FVal) := m.map fun r => (r.drop lo).take 32

/-! ### The MMA family -/

/-- The types that a multiply admits (R228): `t` marks MMAT. -/
def mmaTypes (t : Bool) (a b : Nat) : Bool :=
  (a == 5 && b == 5) || ((a == 0 || a == 2 || a == 3 || a == 4) && (b == 0 || b == 2 || b == 3 || (t && b == 4)))

/-- The types of MMAS (R228). -/
def mmasTypes (a b : Nat) : Bool :=
  (a == 5 && b == 5) || ((a == 0 || a == 2 || a == 3) && (b == 0 || b == 2 || b == 3))

/-- What the four multiplies differ in: the flags admitted, the types, whether a record is required, the rows of A and
B. -/
structure MulForm where
  flgOk   : Bool
  typesOk : Bool
  record  : Bool
  rowsA   : List Span
  rowsB   : List Span

/-- The fixed fields of an MX command in the accumulator form: D3's reserved bits, and no record where none is
taken (R216). -/
def accFormOk (cmd : EngineCmd) (record : Bool) : Bool := fieldN (cmd.d 3) 43 21 == 0 && (record || cmd.prm == 0)

/-- The DTYPE that a record's CLAMP is judged by where the result goes to an accumulator. -/
def accDt (int : Bool) : Nat := if int then 6 else 1

/-- The record address of a command in the accumulator form; 0 is no record. -/
def prmOf (cmd : EngineCmd) : Option Nat := if cmd.prm = 0 then none else some cmd.prm

/-- The checks of a multiply in the order of R221 up to the translation of its pages: the state with what the walks
have set, and the record. DEDUCED, log 36. DESIGN CHOICE, log 50. -/
def mulChecks (s : State) (p : Nat) (cmd : EngineCmd) (f : MulForm) (meta' : Rec → List Span) : Eng (State × Rec) := do
  let a := descOf (cmd.d 1)
  let b := descOf (cmd.d 2)
  let acc := accAt (coreAt s p) cmd.accIx
  need (f.flgOk && factOk cmd false && accFormOk cmd f.record && a.fieldOk && b.fieldOk) 2
  need (f.typesOk && acc.isInt == (a.dtype == 5)) 3
  need (a.domOk && b.domOk && a.dom != 2 && b.dom == 0 && acc.admits a) 4
  need (!f.record || cmd.prm != 0) 5
  let rec' ← recordOf s p cmd (prmOf cmd) (accDt acc.isInt) { auxa := true }
  need (tileAddrOk s p cmd a f.rowsA && tileAddrOk s p cmd b f.rowsB && recordAddrOk s p cmd (prmOf cmd) &&
    (!f.record || rec'.auxa % 4 == 0) && (spanPieces (meta' rec')).all (tilePiece s p cmd)) 6
  need (b.dtype != 7 || 12 ≤ b.stride) 7
  kvCheck s p cmd (a.header ++ f.rowsA ++ f.rowsB) []
  let s1 ← pinReads s p cmd (kvSpan cmd ++ recordSpan (prmOf cmd) ++ a.header ++ f.rowsA ++ f.rowsB ++ meta' rec')
  let s2 ← cleanReads s1 p cmd
    (kvSpan cmd ++ recordSpan (prmOf cmd) ++ operandSpans s1 p cmd a f.rowsA ++ f.rowsB ++ meta' rec')
  .ok (s2, rec')

/-- What a multiply leaves (R231): the accumulator with its attributes, the skipped segments in AUX. -/
def mulResult (s : State) (p : Nat) (cmd : EngineCmd) (a : Desc) (o : Operand) (c : List (List Nat)) (fl : BitVec 8) :
    State × Result :=
  let acc := (accAt (coreAt s p) cmd.accIx).merge a o.shade (o.liveMask a) c
  let skipped := ((List.range 32).filter fun i => !(liveLine a o.mask o.shade i)).length
  (setAcc s p cmd.accIx acc, { shade := acc.shade.toNat, aux := skipped * (cmd.sel + 1), flags := fl })

/-- MMA and MMAT (R228, R229): for MMAT B is stored transposed. -/
def multiply (s : State) (p : Nat) (cmd : EngineCmd) (t : Bool) : Eng (State × Result) := do
  let a := descOf (cmd.d 1)
  let b := descOf (cmd.d 2)
  let n := cmd.sel + 1
  let rowsA := a.rows 32 (rowBytes a.dtype * n)
  let rowsB := if t then b.rows 32 (rowBytes b.dtype * n) else b.rows (32 * n) (rowBytes b.dtype)
  let (s1, _) ← mulChecks s p cmd ⟨cmd.flg / 4 == 0, mmaTypes t a.dtype b.dtype, false, rowsA, rowsB⟩ fun _ => []
  let oa ← readOperand s1 p cmd a (32 * n) rowsA
  let ob ← readOperand s1 p cmd b (if t then 32 * n else 32) rowsB
  let bs := (List.range n).map fun k =>
    (colSlice (32 * k) oa.vals,
     if t then colSlice (32 * k) ob.vals else transpose32 ((ob.vals.drop (32 * k)).take 32))
  let acc := accAt (coreAt s1 p) cmd.accIx
  let (c, fl) := kBlocks acc.isInt (liveLine a oa.mask oa.shade) bs (accRows acc)
  .ok (mulResult s1 p cmd a oa c fl)

/-- The positions of a group of the metadata, in storage order, or none where its code is not admitted (R232). -/
def groupPositions (quarter : Bool) (nib : Nat) : Option (List Nat) :=
  let x := nib % 4
  let y := nib / 4 % 4
  if quarter then (if y = 0 then some [x] else none) else (if x < y then some [x, y] else none)

/-- A row of A from its kept values and the metadata of its K blocks (R232). -/
def expandRow (quarter : Bool) (kept : List FVal) (words : List Nat) : List FVal :=
  let per := if quarter then 1 else 2
  (List.range (8 * words.length)).flatMap fun gi =>
    let pos := (groupPositions quarter (fieldN (words.getD (gi / 8) 0) (4 * (gi % 8)) 4)).getD []
    (List.range 4).map fun e =>
      match pos.zipIdx.find? (fun x => x.1 == e) with
      | some x => kept.getD (per * gi + x.2) fzero
      | none => fzero

/-- The bytes of the metadata: one word per row and K block (R232). -/
def metaSpan (n : Nat) (r : Rec) : List Span := [(r.auxa, 128 * n)]

/-- MMAS (R232). -/
def multiplySparse (s : State) (p : Nat) (cmd : EngineCmd) : Eng (State × Result) := do
  let a := descOf (cmd.d 1)
  let b := descOf (cmd.d 2)
  let n := cmd.sel + 1
  let quarter := bitN cmd.flg 2
  let kept := if quarter then 8 else 16
  let rowsA := a.rows 32 (elemBytes a.dtype * kept * n)
  let rowsB := b.rows (32 * n) (rowBytes b.dtype)
  let (s1, r) ← mulChecks s p cmd
    ⟨cmd.flg / 8 == 0, mmasTypes a.dtype b.dtype, true, rowsA, rowsB⟩ (metaSpan n)
  let oa ← readOperand s1 p cmd a (kept * n) rowsA
  let words := (List.range (32 * n)).map fun i => engRead s1 p cmd (r.auxa + 4 * i, 4)
  need (words.all fun w => (List.range 8).all fun g => (groupPositions quarter (fieldN w (4 * g) 4)).isSome) 9
  let ob ← readOperand s1 p cmd b 32 rowsB
  let full := oa.vals.zipIdx.map fun v =>
    expandRow quarter v.1 ((List.range n).map fun k => words.getD (32 * k + v.2) 0)
  let bs := (List.range n).map fun k => (colSlice (32 * k) full, transpose32 ((ob.vals.drop (32 * k)).take 32))
  let acc := accAt (coreAt s1 p) cmd.accIx
  let (c, fl) := kBlocks acc.isInt (liveLine a oa.mask oa.shade) bs (accRows acc)
  .ok (mulResult s1 p cmd a oa c fl)

/-- MMA (R229). -/
def execMma (p : Nat) (s : State) : Out := runCommand s p 0 fun cmd => concluded s p 0 cmd (multiply s p cmd false)

/-- MMAT (R229). -/
def execMmat (p : Nat) (s : State) : Out := runCommand s p 0 fun cmd => concluded s p 0 cmd (multiply s p cmd true)

/-- MMAS (R232). -/
def execMmas (p : Nat) (s : State) : Out := runCommand s p 0 fun cmd => concluded s p 0 cmd (multiplySparse s p cmd)

/-! ### MMAQ (R233, R378) -/

/-- The tiles of B as cb3 indices: 384 bytes each, STRIDE apart (R215). -/
def cb3Tiles (b : Desc) (n : Nat) : List Span := (List.range n).map fun k => (b.addr + 32 * b.stride * k, 384)

/-- The operands of an MMAQ, fetched; the copy of the accumulator it works on (R378). DEDUCED, log 35. -/
def quantFetch (s : State) (p : Nat) (cmd : EngineCmd) : Eng (State × MmaqWork) := do
  let a := descOf (cmd.d 1)
  let b := descOf (cmd.d 2)
  let n := cmd.sel + 1
  let rowsA := a.rows 32 (rowBytes a.dtype * n)
  let (s1, _) ← mulChecks s p cmd
    ⟨true, a.dtype == 0 && b.dtype == 7, false, rowsA, cb3Tiles b n⟩ fun _ => []
  let (shade, mask, _) ← headerOf s1 p cmd a
  let live := (List.range 32).foldl (fun acc i => if liveLine a mask shade i then acc + 2 ^ i else acc) 0
  let as := rowsA.map fun r => (List.range n).map fun k =>
    BitVec.ofNat 512 (engRead s1 p (afterHeader s1 p cmd a) (r.1 + 64 * k, 64))
  let bs := (cb3Tiles b n).map fun t => BitVec.ofNat 3072 (engRead s1 p cmd t)
  .ok (s1,
       ⟨as, bs, BitVec.ofNat 32 live, BitVec.ofNat 4 shade, 0, [], accAt (coreAt s1 p) cmd.accIx, 0⟩)

/-- MMAQ begins: its operands are fetched, then it takes the tables of its first K block (R378). -/
def execMmaq (p : Nat) (s : State) : Out :=
  runCommand s p 0 fun cmd =>
    match quantFetch s p cmd with
    | .error x => concluded s p 0 cmd (.error x)
    | .ok (s1, w) => addEvent (setEngine s1 p 0 { (coreAt s1 p).mx with work := some w }) (.mmaqSlotTake p)

/-- The table-store slot of a block (R233). -/
def quantSlot (cmd : EngineCmd) (b : Nat) : Nat := (2 * (cmd.flg / 8) + b) % 16

/-- B's columns of a K block, decoded through the tables of its eight blocks (R233, R264). -/
def quantColumns (tile : BitVec 3072) (tables : List (BitVec 128)) : List (List FVal) :=
  (List.range 32).map fun c => (List.range 32).map fun r =>
    let x := fieldN tile.toNat (3 * (32 * r + c)) 3
    bf16.decode (fieldN (tables.getD (r / 4) 0).toNat (16 * x) 16)

/-- A K block of an MMAQ computed into its working copy (R378). -/
def quantBlock (w : MmaqWork) (k : Nat) : MmaqWork :=
  let as := w.a.map fun row => (List.range 32).map fun e => bf16.decode (fieldN (row.getD k 0).toNat (16 * e) 16)
  let (c, fl) := kBlock false (bitN w.live.toNat) as (quantColumns (w.b.getD k 0) w.tables) (accRows w.acc)
  { w with tables := [], acc := { w.acc with vals := packRows c }, flags := w.flags ||| fl }

/-- The last K block is done: ACC is written from the working copy in one step (R378). -/
def quantEnd (s : State) (p : Nat) (cmd : EngineCmd) (w : MmaqWork) : State :=
  let a := descOf (cmd.d 1)
  let acc := w.acc.merge a w.shade.toNat w.live.toNat (accRows w.acc)
  let skipped := ((List.range 32).filter fun i => !(bitN w.live.toNat i)).length
  concluded s p 0 cmd (.ok (setAcc s p cmd.accIx acc,
    { shade := acc.shade.toNat, aux := skipped * (cmd.sel + 1), flags := w.flags }))

/-- MMAQ_SLOT_TAKE: a full slot is taken whole in one step, emptied with consume; with eight tables a K block is
computed (R233, R378). An empty slot leaves the engine waiting. -/
def execMmaqSlotTake (p : Nat) (s : State) : Out :=
  let n := (coreAt s p).mx
  done s <|
    match n.executing, n.work with
    | some cmd, some w =>
      let i := quantSlot cmd w.blk
      let c := coreAt s p
      let slot := tgetD c.tstore i ⟨0, false⟩
      if !slot.full then s
      else if c.badSlots.contains i then concluded s p 0 cmd (.error (.status 12))
      else
        let s1 := if bitN cmd.flg 2 then
            setCore s p { c with tstore := tset c.tstore i { slot with full := false } } else s
        let w1 := { w with tables := w.tables ++ [slot.bits], blk := w.blk + 1 }
        let w2 := if w1.blk % 8 = 0 then quantBlock w1 (w1.blk / 8 - 1) else w1
        if w2.blk = 8 * (cmd.sel + 1) then quantEnd s1 p cmd w2
        else addEvent (setEngine s1 p 0 { (coreAt s1 p).mx with work := some w2 }) (.mmaqSlotTake p)
    | _, _ => s

/-! ### The remaining accumulator commands (R234, R235) -/

/-- The fields that ACCZ, ACCLD, ACCST and ACCADD require: KBLK 0 and FLG[5:2] 0, but for FLG[2] of ACCZ. -/
def accFlgOk (cmd : EngineCmd) (z : Bool) : Bool := cmd.sel == 0 && (if z then cmd.flg / 8 == 0 else cmd.flg / 4 == 0)

/-- The effect of ACCZ. -/
def zeroAcc (s : State) (p : Nat) (cmd : EngineCmd) : Eng (State × Result) := do
  need (accFlgOk cmd true && factOk cmd false && accFormOk cmd false && cmd.d 1 == 0 && cmd.d 2 == 0) 2
  let _ ← engKv s p cmd
  let s1 ← pinReads s p cmd (kvSpan cmd)
  let s1 ← cleanReads s1 p cmd (kvSpan cmd)
  .ok (setAcc s1 p cmd.accIx { Acc.zeroed with ty := if bitN cmd.flg 2 then 1 else 0 }, { shade := 15 })

/-- ACCZ (R234). -/
def execAccz (p : Nat) (s : State) : Out := runCommand s p 0 fun cmd => concluded s p 0 cmd (zeroAcc s p cmd)

/-- A source of ACCLD and ACCADD gives INT32 (R234). -/
def intDt (dt : Nat) : Bool := dt == 5 || dt == 6

/-- A DTYPE that gives FP32 in an accumulator. -/
def fpDt (dt : Nat) : Bool := dt ≤ 4

/-- A value as an accumulator element holds it, exactly but for a magnitude beyond FP32 (R234). -/
def accElem (int : Bool) (v : FVal) : Nat × BitVec 8 :=
  if int then (zpat v.toInt 32, 0)
  else
    let (pat, inexact, ovf, tiny) := fp32.ieee 0 v
    (pat, if ovf then flagBit 5 else roundFlags inexact false tiny)

/-- The checks of a memory source of ACCLD and ACCADD from the record on: the state, the record and the source. -/
def accSource (s : State) (p : Nat) (cmd : EngineCmd) (d : Desc) (int unit : Bool) : Eng (State × Rec × Operand) := do
  let rows := d.rows 32 (rowBytes d.dtype)
  let r ← recordOf s p cmd (prmOf cmd) (accDt int) {}
  need (!unit || r.unitScale) 5
  need (tileAddrOk s p cmd d rows && recordAddrOk s p cmd (prmOf cmd)) 6
  kvCheck s p cmd (d.header ++ rows) []
  let s1 ← pinReads s p cmd (kvSpan cmd ++ recordSpan (prmOf cmd) ++ d.header ++ rows)
  let s1 ← cleanReads s1 p cmd (kvSpan cmd ++ recordSpan (prmOf cmd) ++ operandSpans s1 p cmd d rows)
  let o ← readOperand s1 p cmd d 32 rows
  .ok (s1, r, o)

/-- The effect of ACCLD: TYPE, DOM, LVL, SHADE and MASK all come from the source (R234). -/
def loadAcc (s : State) (p : Nat) (cmd : EngineCmd) : Eng (State × Result) := do
  let d := descOf (cmd.d 1)
  need (accFlgOk cmd false && factOk cmd false && accFormOk cmd false && cmd.d 2 == 0 && d.fieldOk) 2
  need (fpDt d.dtype || intDt d.dtype) 3
  need (d.domOk && d.dom != 2) 4
  let int := intDt d.dtype
  let (s1, _, o) ← accSource s p cmd d int false
  let out := o.vals.map fun r => r.map (accElem int)
  let acc : Acc :=
    { vals := packRows (out.map fun r => r.map (·.1)), ty := if int then 1 else 0, dom := if d.dom = 0 then 1 else 2,
      lvl := BitVec.ofNat 3 d.lvl, shade := BitVec.ofNat 4 o.shade, mask := BitVec.ofNat 32 o.mask }
  .ok (setAcc s1 p cmd.accIx acc, { shade := o.shade, flags := orFlags (out.map fun r => orFlags (r.map (·.2))) })

/-- ACCLD (R234). -/
def execAccld (p : Nat) (s : State) : Out := runCommand s p 0 fun cmd => concluded s p 0 cmd (loadAcc s p cmd)

/-- Another accumulator as an operand of ACCADD, under a descriptor of its domain. -/
def accOperand (a : Acc) : Operand :=
  let d : Desc := ⟨0, 8, if a.dom = 2 then 1 else 0, a.lvl.toNat, false, 0⟩
  let shade := if a.dom = 2 then a.shade.toNat else 15
  let mask := if a.dom = 2 then a.mask.toNat else 2 ^ 32 - 1
  { vals := (accRows a).zipIdx.map fun r => r.1.map fun x =>
      if liveLine d mask shade r.2 then (if a.isInt then ofInt (toSigned 32 x) else fp32.decode x) else fzero,
    shade := shade, mask := mask, tauix := 0 }

/-- C + SCALE × S, exact and rounded once, or saturated for INT32 (R234). -/
def addElem (int : Bool) (scale : FVal) (c : Nat) (v : FVal) : Nat × BitVec 8 :=
  if int then storeInt 32 Rec.default (ofInt (toSigned 32 c + v.toInt))
  else
    let x := scale.mul v
    let y := (fp32.decode c).add x.1
    let r := r32of (y.1, x.2 || y.2)
    ((fp32.ieee 0 y.1).1, r.2)

/-- The effect of ACCADD on the accumulator for a source that has been read. DESIGN CHOICE, log 37. -/
def addInto (s : State) (p : Nat) (cmd : EngineCmd) (d : Desc) (scale : FVal) (o : Operand) : State × Result :=
  let acc := accAt (coreAt s p) cmd.accIx
  let out := ((accRows acc).zip o.vals).zipIdx.map fun r =>
    if liveLine d o.mask o.shade r.2 then (r.1.1.zip r.1.2).map fun x => addElem acc.isInt scale x.1 x.2
    else r.1.1.map fun x => (x, 0)
  let new := acc.merge d o.shade (o.liveMask d) (out.map fun r => r.map (·.1))
  (setAcc s p cmd.accIx new, { shade := new.shade.toNat, flags := orFlags (out.map fun r => orFlags (r.map (·.2))) })

/-- The effect of ACCADD: from memory, or from another accumulator, which may be the destination itself, one with DOM unset
counting as plain (R234, R215). DESIGN CHOICE, log 52. -/
def addAcc (s : State) (p : Nat) (cmd : EngineCmd) : Eng (State × Result) := do
  let d := descOf (cmd.d 1)
  let acc := accAt (coreAt s p) cmd.accIx
  let src := accAt (coreAt s p) (d.addr % 8)
  let fromAcc := d.dtype == 8
  need (accFlgOk cmd false && factOk cmd false && accFormOk cmd true && cmd.d 2 == 0 && d.fieldOk) 2
  need (if fromAcc then src.isInt == acc.isInt else (fpDt d.dtype || intDt d.dtype) && acc.isInt == intDt d.dtype) 3
  need (d.domOk && d.dom != 2 && acc.admits d &&
    (!fromAcc || (if src.dom = 2 then d.dom == 1 && d.lvl == src.lvl.toNat else d.dom == 0))) 4
  if fromAcc then do
    let r ← recordOf s p cmd (prmOf cmd) (accDt acc.isInt) {}
    need (!acc.isInt || r.unitScale) 5
    need (recordAddrOk s p cmd (prmOf cmd)) 6
    let _ ← engKv s p cmd
    let s1 ← pinReads s p cmd (kvSpan cmd ++ recordSpan (prmOf cmd))
    let s1 ← cleanReads s1 p cmd (kvSpan cmd ++ recordSpan (prmOf cmd))
    .ok (addInto s1 p cmd d r.scale (accOperand src))
  else do
    let (s1, r, o) ← accSource s p cmd d acc.isInt acc.isInt
    .ok (addInto s1 p cmd d r.scale o)

/-- ACCADD (R234). -/
def execAccadd (p : Nat) (s : State) : Out := runCommand s p 0 fun cmd => concluded s p 0 cmd (addAcc s p cmd)

/-- TAU[ix] as captured at ENQ. -/
def tauOf (cmd : EngineCmd) (ix : Nat) : FVal := fp32.decode (cmd.tau.getD ix 0).toNat

/-- The effect of ACCST (R235). -/
def storeAcc (s : State) (p : Nat) (cmd : EngineCmd) : Eng (State × Result) := do
  let d := descOf (cmd.d 1)
  let acc := accAt (coreAt s p) cmd.accIx
  let rows := d.rows 32 (rowBytes d.dtype)
  need (accFlgOk cmd false && factOk cmd true && accFormOk cmd true && cmd.d 2 == 0 && d.fieldOk) 2
  need (fpDt d.dtype || (acc.isInt && intDt d.dtype)) 3
  need (d.domOk && (if acc.dom = 2 then d.dom == 1 && d.lvl == acc.lvl.toNat else d.dom == 0)) 4
  let r ← recordOf s p cmd (prmOf cmd) d.dtype {}
  need (tileAddrOk s p cmd d rows && recordAddrOk s p cmd (prmOf cmd)) 6
  need (strideOk d (rowBytes d.dtype)) 7
  kvCheck s p cmd [] (d.header ++ rows)
  let s1 ← pinReads s p cmd (kvSpan cmd ++ recordSpan (prmOf cmd))
  let s2 ← pinWrites s1 p cmd (d.header ++ rows)
  let s2 ← cleanReads s2 p cmd (kvSpan cmd ++ recordSpan (prmOf cmd))
  let vals := (accRows acc).map fun r => r.map fun x => if acc.isInt then ofInt (toSigned 32 x) else fp32.decode x
  let shade := acc.shade.toNat
  let (ws, fl) :=
    if d.dom = 0 then plainWrites d r vals
    else haarWrites d r (tauOf cmd r.tauix) (shadeRows d.lvl shade) shade r.tauix vals
  cleanWrites s2 p cmd (ws.map fun w => (w.1, w.2.1))
  .ok (engWrite s2 p cmd d.header ws, { shade := shade, flags := fl })

/-- ACCST (R235). -/
def execAccst (p : Nat) (s : State) : Out := runCommand s p 0 fun cmd => concluded s p 0 cmd (storeAcc s p cmd)

end Sys2Proof.Machine
end

