-- ==== Sys2Proof/Machine/GreyOut.lean ====
section
/-!
DEFINITION. Grey-out and restore (spec/17 R404-R407; spec/04 R159; spec/05 R210; spec/11 R325, R326; spec/13 R354; spec/14
R377; spec/15 R380).
-/

namespace Sys2Proof.Machine

/-! ### Quiescing (R404) -/

/-- A strand holds a reservation, or one is on its way to it. -/
def rsvBusy (s : State) (k : Nat) (t : Strand) : Bool := t.holds.isSome || s.rsvs.any fun r => r.2.holder == some k

/-- Strands of a launch, by key. -/
def launchStrands (s : State) (lid : Nat) : Table Strand := s.strands.filter fun e => e.2.lid == lid

/-- A parked strand leaves the lists it stands in; the descriptor that an LDK captured at its issue, and the cause word of a
WAITA that waits to write it, stay (R106, R174). -/
def withdrawParked (s : State) (k : Nat) : State :=
  let t := strandAt s k
  match t.run with
  | .parked _ =>
    let s1 := withdraw s k
    (match t.answer with
     | some (.kvdesc v) => setStrand s1 k { strandAt s1 k with answer := some (.kvdesc v) }
     | some (.cause w) => setStrand s1 k { strandAt s1 k with answer := some (.cause w) }
     | _ => s1)
  | _ => s

/-- Dispatch of the launch stops, its strands stop at their next issue turn, and those that wait for a reservation or a
take leave the lists (R210). -/
def beginGrey (s : State) (lid : Nat) : State :=
  let s := { s with launches := tmap s.launches fun i l => if i = lid then { l with greying := true } else l }
  (launchStrands s lid).foldl (fun acc e => if rsvBusy acc e.1 e.2 then acc else withdrawParked acc e.1) s

/-- An engine has nothing that it could complete: no command, or one that is stopped, or that waits for a slot that is empty,
an entry, room in its FIFO, or its turn in a replay (R233, R246, R380, R399, R404); and every write of it has been
performed. -/
def engineQuiet (s : State) (p e : Nat) : Bool :=
  let c := coreAt s p
  let n := engineAt c e
  !(writesWaiting s (engineAgent p e)) && match n.executing with
  | none => true
  | some cmd =>
    n.fault.isSome || n.stalled.isSome ||
      n.work.any (fun w => !(tgetD c.tstore (quantSlot cmd w.blk) ⟨0, false⟩).full) ||
      n.finished.any (fun x => 8 ≤ n.fifo.length || (onFuture s p e cmd x.1).isNone)

/-- A copy has no chunk in flight, and its writes have been performed, but for what it keeps of words in local stores; a
TABLE that waits for an empty slot is between two slots (R250, R404). -/
def copyQuiet (s : State) (p : Nat) (e : Nat × Copy) : Bool :=
  !(writesWaiting s (copyAgent p e.1)) && e.2.part.all (fun b => b.2.2.1 == 0) &&
    (e.2.mode != 7 || e.2.status.isSome || e.2.fault.isSome || !(tableInFlight e.2) || tableWaits s p e.2)

/-- A strand has issued an access that is not performed yet: a reply is to come, a write to a device register waits, a write
waits at the home of a word (R163, R177, R316, R325). -/
def accessOut (s : State) (k : Nat) (t : Strand) : Bool :=
  writesWaiting s k || (match t.run with
    | .parked .reply | .parked (.device _) => true
    | _ => false)

/-- A message is under way to a core of another launch, from which only a replay keeps it (R325, R356). -/
def sendOut (s : State) (lid : Nat) : Bool :=
  let away (p : Nat) : Bool := let held := (coreAt s p).lid; held != 0 && held != lid && rrMode s held != 2
  s.agenda.any fun e => match e with
    | .inboxDelivery p _ _ => away p
    | .mailboxDelivery p _ _ _ => away p
    | _ => false

/-- A launch has quiesced (R107, R180, R210, R325, R404). A roaming packet that has arrived and finds the guest queue full is
saved with its core. -/
def launchQuiet (s : State) (l : Launch) (lid : Nat) : Bool :=
  (launchStrands s lid).all (fun e => !(rsvBusy s e.1 e.2) && !(accessOut s e.1 e.2)) && !(sendOut s lid) &&
    s.packets.all (fun e => e.2.strand.lid != lid || e.2.landed) &&
    s.tasks.all (fun e => e.2.lid != lid || !(writesWaiting s (footAgent e.1))) &&
    s.jobs.all (fun e => e.2.lid != lid || !(writesWaiting s (jobAgent e.1))) &&
    l.coreMap.all fun e =>
      let c := coreAt s e.2
      c.repack.isNone && engineQuiet s e.2 0 && engineQuiet s e.2 1 && c.copies.all (copyQuiet s e.2)

/-! ### Moving what names a core -/

/-- A strand key with its core renumbered. -/
def moveKey (f : Nat → Option Nat) (k : Nat) : Option Nat := (f (k / 16)).map fun p => 16 * p + k % 16

/-- An event of a core or strand with the core renumbered; none for an event of no core that `f` numbers. -/
def moveEvent (f : Nat → Option Nat) (e : Instr) : Option Instr :=
  match e with
  | .accessReply k => (moveKey f k).map .accessReply
  | .strandRejoin k => (moveKey f k).map .strandRejoin
  | .repackRowWrite p => (f p).map .repackRowWrite
  | .repackUnlock p => (f p).map .repackUnlock
  | .monitorNotice k m => (moveKey f k).map (.monitorNotice · m)
  | .waitaTimeout k d => (moveKey f k).map (.waitaTimeout · d)
  | .barrierArrival p r rect src => (f p).map (.barrierArrival · r rect src)
  | .takeResend k => (moveKey f k).map .takeResend
  | .rsvholdTimeout k w g => (moveKey f k).map (.rsvholdTimeout · w g)
  | .mma p => (f p).map .mma
  | .mmas p => (f p).map .mmas
  | .mmaq p => (f p).map .mmaq
  | .mmat p => (f p).map .mmat
  | .accz p => (f p).map .accz
  | .accld p => (f p).map .accld
  | .accst p => (f p).map .accst
  | .accadd p => (f p).map .accadd
  | .vtmap p => (f p).map .vtmap
  | .vtbin p => (f p).map .vtbin
  | .vtred p => (f p).map .vtred
  | .vtsmax p => (f p).map .vtsmax
  | .vtnorm p => (f p).map .vtnorm
  | .vtcvt p => (f p).map .vtcvt
  | .vthaar p => (f p).map .vthaar
  | .vtihaar p => (f p).map .vtihaar
  | .vtconf p => (f p).map .vtconf
  | .vtkvLoad p => (f p).map .vtkvLoad
  | .vtkvStore p => (f p).map .vtkvStore
  | .mmaqSlotTake p => (f p).map .mmaqSlotTake
  | .vtkvEntryWake p => (f p).map .vtkvEntryWake
  | .reservedCommand p x => (f p).map (.reservedCommand · x)
  | .engineFaultTrap k v => (moveKey f k).map (.engineFaultTrap · v)
  | .copy2 p i => (f p).map (.copy2 · i)
  | .copy3 p i => (f p).map (.copy3 · i)
  | .slab p i => (f p).map (.slab · i)
  | .gather p i => (f p).map (.gather · i)
  | .scatter p i => (f p).map (.scatter · i)
  | .bcast p i => (f p).map (.bcast · i)
  | .reduce p i => (f p).map (.reduce · i)
  | .table p i => (f p).map (.table · i)
  | .tableSlotWrite p i => (f p).map (.tableSlotWrite · i)
  | .copyChunk p i => (f p).map (.copyChunk · i)
  | .copyComplete p i => (f p).map (.copyComplete · i)
  | .inboxDelivery p n v => (f p).map (.inboxDelivery · n v)
  | .mailboxDelivery p c lo hi => (f p).map (.mailboxDelivery · c lo hi)
  | .queueTransfer p q => (f p).map (.queueTransfer · q)
  | .guestAdmit p => (f p).map .guestAdmit
  | .confExitJobPost k => (moveKey f k).map .confExitJobPost
  | .fetchLineArrival k => (moveKey f k).map .fetchLineArrival
  | .iflushComplete k => (moveKey f k).map .iflushComplete
  | .tlbinvComplete k => (moveKey f k).map .tlbinvComplete
  | _ => none

/-- An event of a launch that names no core. -/
def launchEvent (s : State) (lid : Nat) (e : Instr) : Bool :=
  match e with
  | .barrierRelease i _ _ => i == lid
  | .launchEnd i => i == lid
  | .watchdogExpiry i => i == lid
  | .footprintFetchDone t => (taskAt s t).any (·.lid == lid)
  | .taskRetire t => (taskAt s t).any (·.lid == lid)
  | _ => false

/-- A command with its strand's key renumbered. -/
def moveCmd (f : Nat → Option Nat) (x : EngineCmd) : EngineCmd := { x with key := x.key.bind (moveKey f) }

/-- An engine with its commands' strands renumbered. -/
def moveEngine (f : Nat → Option Nat) (e : Engine) : Engine :=
  { e with executing := e.executing.map (moveCmd f), queue := e.queue.map (moveCmd f) }

/-- A task's place with its core renumbered. -/
def moveTaskState (f : Nat → Option Nat) (x : TaskState) : TaskState :=
  match x with
  | .fetching p slot run => .fetching ((f p).getD p) slot run
  | .running p run => .running ((f p).getD p) run
  | .retiring p run who => .retiring ((f p).getD p) run ((moveKey f who).getD who)
  | y => y

/-- The lines of the launch's own local stores are saved by logical core, above every physical line. -/
def savedLine (f : Nat → Option Nat) (line : Nat) : Nat :=
  if lineInStore line then
    match f ((line - 0x4000_0000) / 2048) with
    | some l => 2 ^ 52 + 2048 * l + line % 2048
    | none => line
  else line

/-- A saved line on the cores of a restored launch. -/
def restoredLine (f : Nat → Option Nat) (line : Nat) : Nat :=
  if 2 ^ 52 ≤ line then 0x4000_0000 + 2048 * ((f ((line - 2 ^ 52) / 2048)).getD 0) + line % 2048 else line

/-- A byte's address, as its line is renumbered. -/
def onLine (f : Nat → Nat) (a : Nat) : Nat := 64 * f (a / 64) + a % 64

/-- A copy whose bytes of words that are not whole yet (R253) lie in renumbered lines. -/
def moveLoose (f : Nat → Nat) (c : Copy) : Copy :=
  { c with part := c.part.foldl (fun l e => tset l (onLine f e.1) e.2) [] }

/-! ### Saving (R404, R405) -/

/-- A copy as saved. DEDUCED, log 22. -/
def savedCopy (f : Nat → Option Nat) (c : Copy) : Copy :=
  { moveLoose (savedLine f) c with old := [], held := none, dests := [] }

/-- The run state saved: a strand parked on a condition that restore returns to stays parked; one whose instruction has
to be issued again is in rotation (R159, R210). -/
def savedRun (x : Run) : Run :=
  match x with
  | .parked (.barrier _ _ _) => x
  | .parked (.join _) => x
  | .parked .helpers => x
  | .parked .waitMsg => x
  | .parked (.waitA _ _ _ _) => x
  | .parked (.backfillRoom _) => x
  | .parked (.grey _) => x
  | .parked .dispatch => x
  | .parked .flush => x
  | .parked (.tlbInv _) => x
  | .parked _ => .ready 0
  | y => y

/-- What a strand has obtained for the instruction that it will issue again: MON, MONX and CONF.exit start again after the
restore (R159). -/
def savedAnswer (a : Option Answer) : Option Answer :=
  match a with
  | some (.armed _ _) | some (.exit _) => none
  | a => a

/-- A job with its core renumbered; 2048 stands for no cluster. -/
def moveJob (f : Nat → Option Nat) (cluster : Nat → Nat) (j : Job) : Job :=
  let p := (f j.p).getD j.p
  { j with p := p, cluster := cluster p }

/-- A strand as saved. -/
def savedStrand (f : Nat → Option Nat) (t : Strand) : Strand :=
  { t with run := savedRun t.run, lineBuf := none, lastIssue := none, yieldAt := none, answer := savedAnswer t.answer,
           job := t.job.map (moveJob f fun _ => 2048),
           mons := t.mons.map fun m => { m with line := savedLine f m.line } }

/-- A core as saved, with the packets that have arrived for it; its caches are not saved (R405). -/
def savedCore (f : Nat → Option Nat) (landed : List Packet) (c : Core) : Core :=
  { c with mx := moveEngine f c.mx, vx := moveEngine f c.vx, guests := c.guests ++ landed, l1 := [], itlb := [], dtlb := [],
           issued := none,
           copies := tmap c.copies fun _ x => savedCopy f x }

/-- A core that a greyed-out launch has left: banks, table store, caches and the next identifier stay (R338). -/
def vacated (c : Core) : Core :=
  { Core.reset with ubank := c.ubank, lbank := c.lbank, badRows := c.badRows, badSlots := c.badSlots, nextId := c.nextId,
                    l1 := c.l1, itlb := c.itlb, dtlb := c.dtlb, issued := c.issued,
                    tstore := tmap c.tstore fun _ x => { x with full := false } }

/-- The logical core of a physical core of a launch. -/
def logicalOf (l : Launch) (p : Nat) : Option Nat := (l.coreMap.find? fun e => e.2 == p).map (·.1)

/-- Offsets in a core's local store of the words of a list. -/
def wordsIn (ws : List Nat) (p : Nat) : List Nat :=
  (ws.filter fun w => lsBase p ≤ w && w < lsBase p + 131072).map (· - lsBase p)

/-- What is saved of a launch that has quiesced. DEDUCED, log 22. -/
def savedOf (s : State) (l : Launch) (lid : Nat) : Saved :=
  let f := logicalOf l
  { launch := l
    cores := l.coreMap.map fun e => (e.1, savedCore f ((landedAt s e.2).map (·.2)) (coreAt s e.2))
    strands := (launchStrands s lid).foldl (fun t e => match moveKey f e.1 with
      | some k => tset t k (savedStrand f e.2)
      | none => t) []
    ls := l.coreMap.map fun e => (e.1, memSlice s.mem (lsBase e.2) 131072)
    empties := l.coreMap.map fun e => (e.1, wordsIn s.empties e.2)
    bad := l.coreMap.map fun e => (e.1, wordsIn s.poison e.2)
    events := s.agenda.filterMap fun e => if launchEvent s lid e then some e else moveEvent f e }

/-- Tasks, jobs and the producers of futures with the cores of a launch renumbered. -/
def renumber (s : State) (f : Nat → Option Nat) (lid : Nat) : State :=
  { s with tasks := tmap s.tasks fun _ x => if x.lid = lid then { x with st := moveTaskState f x.st } else x
           jobs := tmap s.jobs fun _ x => if x.lid = lid then moveJob f (fun _ => 2048) x else x
           futures := tmap s.futures fun _ x =>
             match x.producer.bind (moveKey f) with
             | some k => { x with producer := some (2 ^ 30 + lid * 2 ^ 20 + k) }
             | none => x }

/-- A fault queue without the entries that a launch's agents have posted or wait to post (R404). DEDUCED, log 22. -/
def withdrawFaults (lid : Nat) (c : Cluster) : Cluster :=
  let other (x : BitVec 128) : Bool := fieldN x.toNat 80 16 != lid
  let kept := (((List.range c.fqCount).map fun i => tgetD c.fq ((c.fqHead.toNat + i) % 256) 0).filter other)
  { c with fqWait := c.fqWait.filter other, fqCount := kept.length, fqTail := c.fqHead + BitVec.ofNat 8 kept.length,
           fq := kept.zipIdx.foldl (fun t x => tset t ((c.fqHead.toNat + x.2) % 256) x.1) c.fq }

/-- The launch's cores freed and everything of it gone from the machine but what was saved, and its records. -/
def vacate (s : State) (l : Launch) (lid : Nat) : State :=
  let f := logicalOf l
  let s1 := renumber s f lid
  let s2 := { s1 with
                agenda := s1.agenda.filter fun e => !(launchEvent s lid e) && (moveEvent f e).isNone
                packets := s1.packets.filter fun e => e.2.strand.lid != lid
                strands := s1.strands.filter fun e => e.2.lid != lid
                launches := tdel s1.launches lid
                clusters := tmap s1.clusters fun _ c => withdrawFaults lid c }
  l.coreMap.foldl (fun acc e => modCore acc e.2 vacated) s2

/-- Agents that wait for a launch to be saved go on (R158). -/
def wakeGrey (s : State) (lid : Nat) : State := wakeWhere s fun _ _ w => w == .grey lid

/-- The launch returns to the head of the queue of its own priority (R354); with a core that is lasting-faulty it stays
greyed out until Worash has rewritten the core's entry (R416). DEDUCED, log 54. -/
def requeue (s : State) (l : Launch) (lid : Nat) : State :=
  let q := l.field 0x68 0 2
  if !(faultyCores s l).isEmpty then askWorash s l
  else keepOnce { s with lq := tset s.lq q (.back lid :: queueOf s q) } .launchAdmit

/-- A strand in WAITA, halted there or not, is awake after the restore with reason 3 (R159, R137). -/
def wakeSaved (s : State) (k : Nat) : State :=
  let t := strandAt s k
  let s1 := tryWaita (setStrand s k { t with halted := none }) k 3
  setStrand s1 k { strandAt s1 k with halted := t.halted }

/-- The last steps of a grey-out: the strands in WAITA complete with reason 3, every list forgets the launch's strands,
and, the merge buffers having been written out, the launch is saved and its cores are freed (R404). DEDUCED, log 22. -/
def saveLaunch (s : State) (l : Launch) (lid : Nat) : State :=
  let ks := (launchStrands s lid).map (·.1)
  let s1 := ks.foldl (fun acc k => withdrawParked (wakeSaved acc k) k) s
  let s2 := flushCores s1 l
  let l2 := (launchAt s2 lid).getD l
  let s3 := vacate { s2 with saved := tset s2.saved lid (savedOf s2 l2 lid) } l2 lid
  let s4 := (launchClusters l2).foldl wakePost s3
  wakeGrey (coresFreed (requeue (report s4 lid 0 6 0) l2 lid)) lid

/-- GREY_OUT (R404): the launch is stopped, and saved once it has quiesced. -/
def execGreyOut (lid : Nat) (s : State) : Out :=
  match launchAt s lid with
  | none => done s (wakeGrey s lid)
  | some l =>
    if !l.started then again s (.greyOut lid)
    else
      let s1 := if l.greying then s else beginGrey s lid
      match launchAt s1 lid with
      | none => done s s1
      | some l1 =>
        let s2 := if launchQuiet s1 l1 lid then flushCores s1 l1 else s1
        done s (if launchQuiet s1 l1 lid && !(mergeWaits s2 l1) then saveLaunch s2 l1 lid else keepOnce s2 (.greyOut lid))

/-! ### Restoring (R406, R407) -/

/-- The footprint runs in use on a logical core of a saved launch. -/
def savedRuns (s : State) (lid logical : Nat) : List (Nat × Nat) :=
  s.tasks.filterMap fun e => if e.2.lid = lid then (e.2.runOn logical).map fun run => (run, e.2.flen) else none

/-- The initial state of a local-store word: its IMGFE bit inside the image, full outside it (R407). -/
def initialFull (l : Launch) (off : Nat) : Bool :=
  let (o, n) := hdrImage l.hdr.toNat
  if o ≤ off && off < o + n then
    match l.fe with
    | some b => bitN b.toNat ((off - o) / 8)
    | none => true
  else true

/-- The discardable region of a core: 0, with the declared states; a footprint run in use keeps its bytes (R405,
R407). -/
def discard (s : State) (l : Launch) (lid logical p : Nat) : State :=
  let (o, n) := hdrDiscard l.hdr.toNat
  let runs := savedRuns s lid logical
  (List.range (n / 8)).foldl (fun acc i =>
    let off := o + 8 * i
    if runs.any fun r => r.1 ≤ off && off < r.1 + r.2 then acc
    else setFull { acc with mem := memWrite acc.mem (lsBase p + off) 8 0
                            poison := acc.poison.filter (· != lsBase p + off) } (lsBase p + off) (initialFull l off)) s

/-- The local store of a saved core put onto a physical core: a write of all of it, which monitors of other strands see
(R134). -/
def restoreLocal (x : Saved) (lid : Nat) (s : State) (e : Nat × Nat) : State :=
  let b := lsBase e.2
  let out (ws : List Nat) : List Nat := ws.filter fun w => !(b ≤ w && w < b + 131072)
  let s := { s with mem := memPaste (memClear s.mem b 131072) b (tgetD x.ls e.1 [])
                    hist := s.hist.filter fun h => !(b ≤ 4 * h.2.1 && 4 * h.2.1 < b + 131072)
                    empties := ((tgetD x.empties e.1 []).map (· + b)).foldl nInsert (out s.empties)
                    poison := ((tgetD x.bad e.1 []).map (· + b)).foldl nInsert (out s.poison) }
  fireMonitors (discard s x.launch lid e.1 e.2) none (lineOf b) (lineOf (b + 131071))

/-- A copy goes on from its next chunk (R406). -/
def unpaused (f : Nat → Option Nat) (c : Copy) : Copy := { moveLoose (restoredLine f) c with fault := none }

/-- A command of a restored launch reads its operands as memory has been since the restore, which everything before it has
been performed for (R325, R326). -/
def freshCmd (s : State) (x : EngineCmd) : EngineCmd := { x with born := s.tick }

/-- An engine of a restored launch. -/
def restoredEngine (s : State) (f : Nat → Option Nat) (e : Engine) : Engine :=
  let e := moveEngine f e
  { e with executing := e.executing.map (freshCmd s), queue := e.queue.map (freshCmd s) }

/-- A saved core on a physical core. -/
def restoreCore (x : Saved) (f : Nat → Option Nat) (s : State) (e : Nat × Nat) : State :=
  match tget x.cores e.1 with
  | none => s
  | some c =>
    let s := setCore s e.2 { c with mx := restoredEngine s f c.mx, vx := restoredEngine s f c.vx,
                                    copies := tmap c.copies fun _ y => unpaused f y }
    let s := c.copies.foldl (fun acc y => if y.2.fault.isSome then
        addEvent acc (if y.2.mode = 7 then .tableSlotWrite e.2 y.1 else .copyChunk e.2 y.1) else acc) s
    let s := resumeEngine (resumeEngine s e.2 0) e.2 1
    let s := if c.mx.work.isSome then addEvent s (.mmaqSlotTake e.2) else s
    if c.vx.stalled.isSome then addEvent s (.vtkvEntryWake e.2) else s

/-- The run state of a restored strand on a core: in rotation from now on, or parked as it was; a wait for another launch's
grey-out that has happened meanwhile is over (R406). -/
def restoredRun (s : State) (p : Nat) (x : Run) : Run :=
  match x with
  | .ready _ => .ready s.cycle
  | .parked (.grey i) => if (launchAt s i).isNone then .ready s.cycle else x
  | .parked (.backfillRoom _) => .parked (.backfillRoom (clusterOf p))
  | y => y

/-- A strand as restored on a core: STATUS.RESUMED is set (R406). -/
def restoredStrand (s : State) (f : Nat → Option Nat) (p : Nat) (t : Strand) : Strand :=
  { t with resumed := true, parkedAt := s.cycle, job := t.job.map (moveJob f clusterOf),
           mons := t.mons.map (fun m => { m with line := restoredLine f m.line }), run := restoredRun s p t.run }

/-- The strands of a saved launch in their slots. -/
def restoreStrands (s : State) (x : Saved) (f : Nat → Option Nat) : State :=
  x.strands.foldl (fun acc e => match moveKey f e.1 with
    | some k => setStrand acc k (restoredStrand s f (keyCore k) e.2)
    | none => acc) s

/-- The home of a record after a restore: its cluster, if the launch still has a core in it, otherwise the cluster of the
same rank among those of the launch (R347). DEDUCED, log 22. -/
def movedHome (old new : List Nat) (c : Nat) : Nat :=
  if new.contains c then c else new.getD (old.idxOf c % new.length) c

/-- Records, jobs and producers of a saved launch on its new cores. -/
def restoreWork (s : State) (x : Saved) (f : Nat → Option Nat) (lid : Nat) (m : Table Nat) : State :=
  let old := launchClusters x.launch
  let new := launchClusters { x.launch with coreMap := m }
  { s with tasks := tmap s.tasks fun _ t =>
             if t.lid = lid then { t with st := moveTaskState f t.st, home := movedHome old new t.home } else t
           jobs := tmap s.jobs fun _ j =>
             if j.lid = lid then { moveJob f clusterOf j with fault := false } else j
           futures := tmap s.futures fun _ y =>
             match y.producer.bind awayProducer with
             | some (i, k) => if i = lid then { y with producer := moveKey f k } else y
             | none => y }

/-- What a restored record or job has to do next. -/
def restoreEvents (s : State) (lid : Nat) : State :=
  let s := s.tasks.foldl (fun acc e =>
    if e.2.lid != lid then acc
    else
      match e.2.st with
      | .ready _ _ => keepOnce acc (.taskDispatch e.2.home)
      | .fetching _ _ _ => keepOnce acc (.footprintFetchDone e.1)
      | .retiring _ _ _ => keepOnce acc (.taskRetire e.1)
      | _ => acc) s
  s.jobs.foldl (fun acc e =>
    if e.2.lid != lid then acc
    else
      let acc := keepOnce acc (.backfillJobStart e.2.cluster)
      if e.2.running && e.2.task.any (fun h => s.tasks.all fun t => t.2.handle.toNat != h) then
        keepOnce acc (.backfillLayerDone e.1) else acc) s

/-- A saved launch on the cores of a map (R406, R407). DEDUCED, log 22. -/
def restoreLaunch (s : State) (x : Saved) (lid : Nat) (m : Table Nat) : State :=
  let f (l : Nat) : Option Nat := tget m l
  let l : Launch := { x.launch with coreMap := m, ranges := loadRanges s x.launch.asid, greying := false }
  let s := { s with launches := tset s.launches lid l, saved := tdel s.saved lid }
  let s := m.foldl (fun acc e => restoreCore x f (restoreLocal x lid (flushMerge acc e.2) e) e) s
  let s := restoreStrands s x f
  let s := restoreWork s x f lid m
  let s := { s with agenda := s.agenda ++ x.events.map fun e => (moveEvent f e).getD e }
  wakeWhere (report (restoreEvents s lid) lid 0 7 0) fun _ _ w => w == .greyedTarget lid

/-- RESTORE (R406): where its cores are no longer free, the launch returns to its queue. -/
def execRestore (lid : Nat) (s : State) : Out :=
  match savedAt s lid with
  | none => done s s
  | some x =>
    match placeLaunch s x.launch.ctx (launchCores x.launch) with
    | none => done s (requeue s x.launch lid)
    | some m =>
      match roomFor s m (x.launch.field 0x68 0 2), ringFull s || someFaulty s m with
      | .free, false => done s (restoreLaunch s x lid m)
      | _, _ => done s (requeue s x.launch lid)

end Sys2Proof.Machine
end

