-- ==== Sys2Proof/Machine/Sha256.lean ====
section
/-!
DEFINITION. SHA-256 (FIPS 180-4), with which the module measures, attests and hashes its patch table (spec/00 R7;
spec/18 R417; spec/19 R432, R433). The constants are those of FIPS 180-4, which the spec names.
-/

namespace Sys2Proof.Machine

/-- The eight words a digest starts from. -/
def shaStart : List (BitVec 32) :=
  [0x6A09E667, 0xBB67AE85, 0x3C6EF372, 0xA54FF53A,
   0x510E527F, 0x9B05688C, 0x1F83D9AB, 0x5BE0CD19]

/-- Round constants 0-15. -/
def shaRound0 : List (BitVec 32) :=
  [0x428A2F98, 0x71374491, 0xB5C0FBCF, 0xE9B5DBA5,
   0x3956C25B, 0x59F111F1, 0x923F82A4, 0xAB1C5ED5,
   0xD807AA98, 0x12835B01, 0x243185BE, 0x550C7DC3,
   0x72BE5D74, 0x80DEB1FE, 0x9BDC06A7, 0xC19BF174]

/-- Round constants 16-31. -/
def shaRound1 : List (BitVec 32) :=
  [0xE49B69C1, 0xEFBE4786, 0x0FC19DC6, 0x240CA1CC,
   0x2DE92C6F, 0x4A7484AA, 0x5CB0A9DC, 0x76F988DA,
   0x983E5152, 0xA831C66D, 0xB00327C8, 0xBF597FC7,
   0xC6E00BF3, 0xD5A79147, 0x06CA6351, 0x14292967]

/-- Round constants 32-47. -/
def shaRound2 : List (BitVec 32) :=
  [0x27B70A85, 0x2E1B2138, 0x4D2C6DFC, 0x53380D13,
   0x650A7354, 0x766A0ABB, 0x81C2C92E, 0x92722C85,
   0xA2BFE8A1, 0xA81A664B, 0xC24B8B70, 0xC76C51A3,
   0xD192E819, 0xD6990624, 0xF40E3585, 0x106AA070]

/-- Round constants 48-63. -/
def shaRound3 : List (BitVec 32) :=
  [0x19A4C116, 0x1E376C08, 0x2748774C, 0x34B0BCB5,
   0x391C0CB3, 0x4ED8AA4A, 0x5B9CCA4F, 0x682E6FF3,
   0x748F82EE, 0x78A5636F, 0x84C87814, 0x8CC70208,
   0x90BEFFFA, 0xA4506CEB, 0xBEF9A3F7, 0xC67178F2]

/-- The 64 round constants. -/
def shaRounds : List (BitVec 32) := shaRound0 ++ shaRound1 ++ shaRound2 ++ shaRound3

def shaSmall0 (x : BitVec 32) : BitVec 32 := x.rotateRight 7 ^^^ x.rotateRight 18 ^^^ x >>> 3
def shaSmall1 (x : BitVec 32) : BitVec 32 := x.rotateRight 17 ^^^ x.rotateRight 19 ^^^ x >>> 10
def shaBig0 (x : BitVec 32) : BitVec 32 := x.rotateRight 2 ^^^ x.rotateRight 13 ^^^ x.rotateRight 22
def shaBig1 (x : BitVec 32) : BitVec 32 := x.rotateRight 6 ^^^ x.rotateRight 11 ^^^ x.rotateRight 25

/-- Item `i` of a list of words. -/
def shaNth (l : List (BitVec 32)) (i : Nat) : BitVec 32 := l.getD i 0

/-- The message schedule, the latest word first, extended by `n` words. -/
def shaExtend : Nat → List (BitVec 32) → List (BitVec 32)
  | 0, w => w
  | n + 1, w => shaExtend n ((shaSmall1 (shaNth w 1) + shaNth w 6 + shaSmall0 (shaNth w 14) + shaNth w 15) :: w)

/-- The eight working words, a to h. -/
structure ShaWork where
  a : BitVec 32
  b : BitVec 32
  c : BitVec 32
  d : BitVec 32
  e : BitVec 32
  f : BitVec 32
  g : BitVec 32
  h : BitVec 32
deriving DecidableEq, Repr

/-- One round with its constant and schedule word. -/
def shaStep (x : ShaWork) (k w : BitVec 32) : ShaWork :=
  let t1 := x.h + shaBig1 x.e + ((x.e &&& x.f) ^^^ (~~~x.e &&& x.g)) + k + w
  let t2 := shaBig0 x.a + ((x.a &&& x.b) ^^^ (x.a &&& x.c) ^^^ (x.b &&& x.c))
  ⟨t1 + t2, x.a, x.b, x.c, x.d + t1, x.e, x.f, x.g⟩

/-- One 16-word block folded into a digest. -/
def shaBlock (s : List (BitVec 32)) (m : List (BitVec 32)) : List (BitVec 32) :=
  let ws := (shaExtend 48 m.reverse).reverse
  let x0 : ShaWork := ⟨shaNth s 0, shaNth s 1, shaNth s 2, shaNth s 3, shaNth s 4, shaNth s 5, shaNth s 6, shaNth s 7⟩
  let x := (shaRounds.zip ws).foldl (fun x e => shaStep x e.1 e.2) x0
  List.zipWith (· + ·) s [x.a, x.b, x.c, x.d, x.e, x.f, x.g, x.h]

/-- Bytes as big-endian words. -/
def shaWords : List Byte → List (BitVec 32)
  | a :: b :: c :: d :: r => (a ++ b ++ c ++ d) :: shaWords r
  | _ => []

/-- The low `n` bytes of a number, lowest first. -/
def numBytes : Nat → Nat → List Byte
  | 0, _ => []
  | n + 1, v => BitVec.ofNat 8 v :: numBytes n (v / 256)

/-- Bytes as a number, the first lowest. -/
def bytesNum : List Byte → Nat
  | [] => 0
  | b :: r => b.toNat + 256 * bytesNum r

/-- A message padded to whole blocks: bit 1, zeros, and its length in bits. -/
def shaPad (m : List Byte) : List Byte :=
  m ++ [0x80] ++ List.replicate ((119 - m.length % 64) % 64) 0 ++ (numBytes 8 (8 * m.length)).reverse

/-- Blocks of 16 words folded in turn; `fuel` bounds their number. -/
def shaFold : Nat → List (BitVec 32) → List (BitVec 32) → List (BitVec 32)
  | 0, s, _ => s
  | fuel + 1, s, m => if m.isEmpty then s else shaFold fuel (shaBlock s (m.take 16)) (m.drop 16)

/-- The digest of a message: its 32 bytes in order, byte 0 lowest. -/
def sha256 (m : List Byte) : BitVec 256 :=
  let ws := shaWords (shaPad m)
  let d := shaFold ws.length shaStart ws
  BitVec.ofNat 256 (bytesNum (d.flatMap fun w => (numBytes 4 w.toNat).reverse))

end Sys2Proof.Machine
end

