-- ==== Sys2Proof/Machine/Slh.lean ====
section
/-!
DEFINITION. SHA-512 (FIPS 180-4) and SLH-DSA-SHA2-256s (FIPS 205), with which firmware is signed and attestations are made
(spec/00 R7; spec/19 R432, R434). The constants and the algorithms are those of the two standards, which the spec names:
n = 32, h = 64, d = 8, h' = 8, a = 14, k = 22, w = 16, m = 47. The pure form with an empty context is meant.
PRESUMED, log 30.
-/

namespace Sys2Proof.Machine

/-! ### SHA-512 -/

/-- The eight words a SHA-512 digest starts from. -/
def shaStart5 : List (BitVec 64) :=
  [0x6A09_E667_F3BC_C908, 0xBB67_AE85_84CA_A73B, 0x3C6E_F372_FE94_F82B,
   0xA54F_F53A_5F1D_36F1, 0x510E_527F_ADE6_82D1, 0x9B05_688C_2B3E_6C1F,
   0x1F83_D9AB_FB41_BD6B, 0x5BE0_CD19_137E_2179]

/-- Round constants 0-15. -/
def shaFive0 : List (BitVec 64) :=
  [0x428A_2F98_D728_AE22, 0x7137_4491_23EF_65CD, 0xB5C0_FBCF_EC4D_3B2F,
   0xE9B5_DBA5_8189_DBBC, 0x3956_C25B_F348_B538, 0x59F1_11F1_B605_D019,
   0x923F_82A4_AF19_4F9B, 0xAB1C_5ED5_DA6D_8118, 0xD807_AA98_A303_0242,
   0x1283_5B01_4570_6FBE, 0x2431_85BE_4EE4_B28C, 0x550C_7DC3_D5FF_B4E2,
   0x72BE_5D74_F27B_896F, 0x80DE_B1FE_3B16_96B1, 0x9BDC_06A7_25C7_1235,
   0xC19B_F174_CF69_2694]

/-- Round constants 16-31. -/
def shaFive1 : List (BitVec 64) :=
  [0xE49B_69C1_9EF1_4AD2, 0xEFBE_4786_384F_25E3, 0x0FC1_9DC6_8B8C_D5B5,
   0x240C_A1CC_77AC_9C65, 0x2DE9_2C6F_592B_0275, 0x4A74_84AA_6EA6_E483,
   0x5CB0_A9DC_BD41_FBD4, 0x76F9_88DA_8311_53B5, 0x983E_5152_EE66_DFAB,
   0xA831_C66D_2DB4_3210, 0xB003_27C8_98FB_213F, 0xBF59_7FC7_BEEF_0EE4,
   0xC6E0_0BF3_3DA8_8FC2, 0xD5A7_9147_930A_A725, 0x06CA_6351_E003_826F,
   0x1429_2967_0A0E_6E70]

/-- Round constants 32-47. -/
def shaFive2 : List (BitVec 64) :=
  [0x27B7_0A85_46D2_2FFC, 0x2E1B_2138_5C26_C926, 0x4D2C_6DFC_5AC4_2AED,
   0x5338_0D13_9D95_B3DF, 0x650A_7354_8BAF_63DE, 0x766A_0ABB_3C77_B2A8,
   0x81C2_C92E_47ED_AEE6, 0x9272_2C85_1482_353B, 0xA2BF_E8A1_4CF1_0364,
   0xA81A_664B_BC42_3001, 0xC24B_8B70_D0F8_9791, 0xC76C_51A3_0654_BE30,
   0xD192_E819_D6EF_5218, 0xD699_0624_5565_A910, 0xF40E_3585_5771_202A,
   0x106A_A070_32BB_D1B8]

/-- Round constants 48-63. -/
def shaFive3 : List (BitVec 64) :=
  [0x19A4_C116_B8D2_D0C8, 0x1E37_6C08_5141_AB53, 0x2748_774C_DF8E_EB99,
   0x34B0_BCB5_E19B_48A8, 0x391C_0CB3_C5C9_5A63, 0x4ED8_AA4A_E341_8ACB,
   0x5B9C_CA4F_7763_E373, 0x682E_6FF3_D6B2_B8A3, 0x748F_82EE_5DEF_B2FC,
   0x78A5_636F_4317_2F60, 0x84C8_7814_A1F0_AB72, 0x8CC7_0208_1A64_39EC,
   0x90BE_FFFA_2363_1E28, 0xA450_6CEB_DE82_BDE9, 0xBEF9_A3F7_B2C6_7915,
   0xC671_78F2_E372_532B]

/-- Round constants 64-79. -/
def shaFive4 : List (BitVec 64) :=
  [0xCA27_3ECE_EA26_619C, 0xD186_B8C7_21C0_C207, 0xEADA_7DD6_CDE0_EB1E,
   0xF57D_4F7F_EE6E_D178, 0x06F0_67AA_7217_6FBA, 0x0A63_7DC5_A2C8_98A6,
   0x113F_9804_BEF9_0DAE, 0x1B71_0B35_131C_471B, 0x28DB_77F5_2304_7D84,
   0x32CA_AB7B_40C7_2493, 0x3C9E_BE0A_15C9_BEBC, 0x431D_67C4_9C10_0D4C,
   0x4CC5_D4BE_CB3E_42B6, 0x597F_299C_FC65_7E2A, 0x5FCB_6FAB_3AD6_FAEC,
   0x6C44_198C_4A47_5817]

/-- The 80 round constants. -/
def shaRounds5 : List (BitVec 64) := shaFive0 ++ shaFive1 ++ shaFive2 ++ shaFive3 ++ shaFive4

/-- Item `i` of a list of words. -/
def shaNth5 (l : List (BitVec 64)) (i : Nat) : BitVec 64 := l.getD i 0

/-- The message schedule, the latest word first, extended by `n` words. -/
def shaExtend5 : Nat → List (BitVec 64) → List (BitVec 64)
  | 0, w => w
  | n + 1, w =>
    let x := shaNth5 w 1
    let y := shaNth5 w 14
    shaExtend5 n (((x.rotateRight 19 ^^^ x.rotateRight 61 ^^^ x >>> 6) + shaNth5 w 6 +
      (y.rotateRight 1 ^^^ y.rotateRight 8 ^^^ y >>> 7) + shaNth5 w 15) :: w)

/-- One round with its constant and schedule word on the working words, a first. -/
def shaStep5 (x : List (BitVec 64)) (k w : BitVec 64) : List (BitVec 64) :=
  match x with
  | [a, b, c, d, e, f, g, h] =>
    let t1 := h + (e.rotateRight 14 ^^^ e.rotateRight 18 ^^^ e.rotateRight 41) + ((e &&& f) ^^^ (~~~e &&& g)) + k + w
    let t2 := (a.rotateRight 28 ^^^ a.rotateRight 34 ^^^ a.rotateRight 39) + ((a &&& b) ^^^ (a &&& c) ^^^ (b &&& c))
    [t1 + t2, a, b, c, d + t1, e, f, g]
  | y => y

/-- One block of 16 words folded into a digest. -/
def shaBlock5 (s m : List (BitVec 64)) : List (BitVec 64) :=
  let ws := (shaExtend5 64 m.reverse).reverse
  List.zipWith (· + ·) s ((shaRounds5.zip ws).foldl (fun x e => shaStep5 x e.1 e.2) s)

/-- Blocks folded in turn; `fuel` bounds their number. -/
def shaFold5 : Nat → List (BitVec 64) → List (BitVec 64) → List (BitVec 64)
  | 0, s, _ => s
  | fuel + 1, s, m => if m.isEmpty then s else shaFold5 fuel (shaBlock5 s (m.take 16)) (m.drop 16)

/-- The low `n` bytes of a number, highest first. -/
def bigBytes (n v : Nat) : List Byte := (numBytes n v).reverse

/-- Bytes as a number, the first highest. -/
def bigNum (m : List Byte) : Nat := bytesNum m.reverse

/-- Bytes cut into stretches of `n`, of which there are `k`. -/
def cutN (n : Nat) : Nat → List Byte → List (List Byte)
  | 0, _ => []
  | k + 1, m => m.take n :: cutN n k (m.drop n)

/-- The SHA-512 digest of a message: its 64 bytes in order. -/
def sha512 (m : List Byte) : List Byte :=
  let p := m ++ [0x80] ++ List.replicate ((239 - m.length % 128) % 128) 0 ++ bigBytes 16 (8 * m.length)
  let ws := (cutN 8 (p.length / 8) p).map fun b => word (bigNum b)
  (shaFold5 ws.length shaStart5 ws).flatMap fun w => bigBytes 8 w.toNat

/-- The SHA-256 digest as bytes in order. -/
def sha256Bytes (m : List Byte) : List Byte := numBytes 32 (sha256 m).toNat

/-- HMAC-SHA-512 with a key of at most 128 bytes. -/
def hmac512 (key m : List Byte) : List Byte :=
  let k := key ++ List.replicate (128 - key.length) 0
  sha512 (k.map (· ^^^ 0x5C) ++ sha512 (k.map (· ^^^ 0x36) ++ m))

/-- MGF1 with SHA-512, one digest of it, which is enough for 47 bytes. -/
def mgf512 (seed : List Byte) : List Byte := sha512 (seed ++ bigBytes 4 0)

/-! ### Addresses and the functions of a parameter set (FIPS 205 sections 4 and 11) -/

/-- An address: layer, tree, type and the three words that the type gives a meaning (key pair; chain or height; hash or
index). -/
structure SlhAdr where
  layer : Nat
  tree  : Nat
  type' : Nat
  pair  : Nat
  mid   : Nat
  low   : Nat

/-- The compressed address, 22 bytes. -/
def SlhAdr.bytes (x : SlhAdr) : List Byte :=
  bigBytes 1 x.layer ++ bigBytes 8 x.tree ++ bigBytes 1 x.type' ++ bigBytes 4 x.pair ++ bigBytes 4 x.mid ++ bigBytes 4 x.low

/-- F and PRF: SHA-256 of the seed, padded to its block, the address and 32 bytes. -/
def slhF (seed : List Byte) (x : SlhAdr) (m : List Byte) : List Byte :=
  sha256Bytes (seed ++ List.replicate 32 0 ++ x.bytes ++ m)

/-- H and T: SHA-512 of the seed, padded to its block, the address and the rest, cut to 32 bytes. -/
def slhH (seed : List Byte) (x : SlhAdr) (m : List Byte) : List Byte :=
  (sha512 (seed ++ List.replicate 96 0 ++ x.bytes ++ m)).take 32

/-- The digest of a message under a randomizer and a public key, 47 bytes. -/
def slhMsg (r seed root m : List Byte) : List Byte :=
  (mgf512 (r ++ seed ++ sha512 (r ++ seed ++ root ++ m))).take 47

/-- The first `n` digits of `b` bits of a byte string, its highest bits first. -/
def slhDigits (b n : Nat) (m : List Byte) : List Nat :=
  let v := bigNum m
  (List.range n).map fun i => v / 2 ^ (8 * m.length - b * (i + 1)) % 2 ^ b

/-! ### WOTS+ (section 5) -/

/-- `s` steps of a chain from step `i`. -/
def slhChain (seed : List Byte) (x : SlhAdr) : Nat → Nat → List Byte → List Byte
  | 0, _, m => m
  | s + 1, i, m => slhChain seed x s (i + 1) (slhF seed { x with low := i } m)

/-- The 67 digits that a WOTS+ key signs: those of the message and of the checksum. -/
def wotsDigits (m : List Byte) : List Nat :=
  let ds := slhDigits 4 64 m
  ds ++ slhDigits 4 3 (bigBytes 2 ((ds.map fun d => 15 - d).sum * 16))

/-- The secret of a chain. -/
def wotsSecret (skSeed seed : List Byte) (x : SlhAdr) (i : Nat) : List Byte :=
  slhF seed { x with type' := 5, mid := i, low := 0 } skSeed

/-- The public key whose chains end as given. -/
def wotsRoot (seed : List Byte) (x : SlhAdr) (ends : List (List Byte)) : List Byte :=
  slhH seed { x with type' := 1, mid := 0, low := 0 } ends.flatten

/-- The public key of a leaf. -/
def wotsKey (skSeed seed : List Byte) (x : SlhAdr) : List Byte :=
  wotsRoot seed x ((List.range 67).map fun i =>
    slhChain seed { x with type' := 0, mid := i } 15 0 (wotsSecret skSeed seed x i))

/-- The signature of 32 bytes. -/
def wotsSign (skSeed seed : List Byte) (x : SlhAdr) (m : List Byte) : List (List Byte) :=
  (wotsDigits m).zipIdx.map fun d => slhChain seed { x with type' := 0, mid := d.2 } d.1 0 (wotsSecret skSeed seed x d.2)

/-- The public key that a signature of 32 bytes leads to. -/
def wotsFromSig (seed : List Byte) (x : SlhAdr) (m : List Byte) (sig : List (List Byte)) : List Byte :=
  wotsRoot seed x (((wotsDigits m).zip sig).zipIdx.map fun d =>
    slhChain seed { x with type' := 0, mid := d.2 } (15 - d.1.1) d.1.1 d.1.2)

/-! ### Merkle trees (sections 6 to 8) -/

/-- The node above two nodes. -/
def slhNode (seed : List Byte) (x : SlhAdr) (height ix : Nat) (l r : List Byte) : List Byte :=
  slhH seed { x with mid := height, low := ix } (l ++ r)

/-- The node `ix` of a height in a tree whose leaves are given. -/
def slhTree (seed : List Byte) (x : SlhAdr) (leaf : Nat → List Byte) : Nat → Nat → List Byte
  | 0, ix => leaf ix
  | z + 1, ix =>
    slhNode seed x (z + 1) ix (slhTree seed x leaf z (2 * ix)) (slhTree seed x leaf z (2 * ix + 1))

/-- The nodes beside the path of leaf `ix`, from the bottom. -/
def slhPath (seed : List Byte) (x : SlhAdr) (leaf : Nat → List Byte) (height ix : Nat) : List (List Byte) :=
  (List.range height).map fun z => slhTree seed x leaf z ((ix / 2 ^ z) ^^^ 1)

/-- The root that a node at `ix` of a height leads to along a path. -/
def slhClimb (seed : List Byte) (x : SlhAdr) : List (List Byte) → Nat → Nat → List Byte → List Byte
  | [], _, _, m => m
  | a :: r, z, ix, m =>
    let up := if ix % 2 = 0 then slhNode seed x (z + 1) (ix / 2) m a else slhNode seed x (z + 1) (ix / 2) a m
    slhClimb seed x r (z + 1) (ix / 2) up

/-- The address of a tree of the hypertree. -/
def xmssAdr (layer tree : Nat) : SlhAdr := ⟨layer, tree, 2, 0, 0, 0⟩

/-- The leaf `i` of a tree of the hypertree. -/
def xmssLeaf (skSeed seed : List Byte) (layer tree i : Nat) : List Byte :=
  wotsKey skSeed seed ⟨layer, tree, 0, i, 0, 0⟩

/-- The root of a tree of the hypertree. -/
def xmssRoot (skSeed seed : List Byte) (layer tree : Nat) : List Byte :=
  slhTree seed (xmssAdr layer tree) (xmssLeaf skSeed seed layer tree) 8 0

/-- The signature of 32 bytes by a leaf of a tree. -/
def xmssSign (skSeed seed : List Byte) (layer tree ix : Nat) (m : List Byte) : List (List Byte) :=
  wotsSign skSeed seed ⟨layer, tree, 0, ix, 0, 0⟩ m ++
    slhPath seed (xmssAdr layer tree) (xmssLeaf skSeed seed layer tree) 8 ix

/-- The root that a signature leads to. -/
def xmssFromSig (seed : List Byte) (layer tree ix : Nat) (m : List Byte) (sig : List (List Byte)) : List Byte :=
  slhClimb seed (xmssAdr layer tree) (sig.drop 67) 0 ix (wotsFromSig seed ⟨layer, tree, 0, ix, 0, 0⟩ m (sig.take 67))

/-- The signature by the hypertree from a layer up; `fuel` is the number of layers left. -/
def htSign (skSeed seed : List Byte) : Nat → Nat → Nat → Nat → List Byte → List (List Byte)
  | 0, _, _, _, _ => []
  | fuel + 1, layer, tree, ix, m =>
    xmssSign skSeed seed layer tree ix m ++
      htSign skSeed seed fuel (layer + 1) (tree / 256) (tree % 256) (xmssRoot skSeed seed layer tree)

/-- The root that a hypertree signature leads to. -/
def htFromSig (seed : List Byte) : Nat → Nat → Nat → Nat → List Byte → List (List Byte) → List Byte
  | 0, _, _, _, m, _ => m
  | fuel + 1, layer, tree, ix, m, sig =>
    htFromSig seed fuel (layer + 1) (tree / 256) (tree % 256) (xmssFromSig seed layer tree ix m (sig.take 75)) (sig.drop 75)

/-- The secret of a leaf of FORS. -/
def forsSecret (skSeed seed : List Byte) (x : SlhAdr) (i : Nat) : List Byte :=
  slhF seed { x with type' := 6, mid := 0, low := i } skSeed

/-- The leaf `i` of FORS. -/
def forsLeaf (skSeed seed : List Byte) (x : SlhAdr) (i : Nat) : List Byte :=
  slhF seed { x with mid := 0, low := i } (forsSecret skSeed seed x i)

/-- One of the 22 parts of a FORS signature: the secret of a leaf and its path. -/
def forsPart (skSeed seed : List Byte) (x : SlhAdr) (tree digit : Nat) : List (List Byte) :=
  let ix := tree * 2 ^ 14 + digit
  forsSecret skSeed seed x ix :: slhPath seed x (forsLeaf skSeed seed x) 14 ix

/-- The FORS signature of 39 bytes. -/
def forsSign (skSeed seed : List Byte) (x : SlhAdr) (md : List Byte) : List (List Byte) :=
  (slhDigits 14 22 md).zipIdx.flatMap fun d => forsPart skSeed seed x d.2 d.1

/-- The root of one FORS tree that a part leads to. -/
def forsPartRoot (seed : List Byte) (x : SlhAdr) (tree digit : Nat) (part : List (List Byte)) : List Byte :=
  let ix := tree * 2 ^ 14 + digit
  slhClimb seed x (part.drop 1) 0 ix (slhF seed { x with mid := 0, low := ix } (part.headD []))

/-- The parts of a FORS signature, 15 strings each. -/
def forsParts : Nat → List (List Byte) → List (List (List Byte))
  | 0, _ => []
  | k + 1, sig => sig.take 15 :: forsParts k (sig.drop 15)

/-- The FORS key that a signature leads to. -/
def forsFromSig (seed : List Byte) (x : SlhAdr) (md : List Byte) (sig : List (List Byte)) : List Byte :=
  slhH seed { x with type' := 4, mid := 0, low := 0 }
    (((slhDigits 14 22 md).zip (forsParts 22 sig)).zipIdx.map fun d => forsPartRoot seed x d.2 d.1.1 d.1.2).flatten

/-! ### SLH-DSA-SHA2-256s (sections 9 and 10) -/

/-- What a digest of 47 bytes selects: the 39 bytes that FORS signs, the tree of the bottom layer, the leaf. -/
def slhSplit (m : List Byte) : List Byte × Nat × Nat :=
  (m.take 39, bigNum ((m.drop 39).take 7) % 2 ^ 56, bigNum ((m.drop 46).take 1) % 2 ^ 8)

/-- The message as the pure form signs it, its context empty. DEDUCED, log 30. -/
def slhPure (m : List Byte) : List Byte := [0, 0] ++ m

/-- A signature of 29,792 bytes over a message verifies under a public key, seed and root of 32 bytes each. -/
def slhVerify (key sig m : List Byte) : Bool :=
  let seed := key.take 32
  let root := (key.drop 32).take 32
  let (md, tree, leaf) := slhSplit (slhMsg (sig.take 32) seed root (slhPure m))
  let parts := cutN 32 930 (sig.drop 32)
  let fors := forsFromSig seed ⟨0, tree, 3, leaf, 0, 0⟩ md (parts.take 330)
  sig.length == 29792 && key.length == 64 && htFromSig seed 8 0 tree leaf fors (parts.drop 330) == root

/-- A private key: SK.seed, SK.prf, and the seed of the public key. -/
structure SlhKey where
  skSeed : List Byte
  skPrf  : List Byte
  seed   : List Byte

/-- The public key, 64 bytes: the seed, and the root of the top tree. -/
def SlhKey.public (k : SlhKey) : List Byte := k.seed ++ xmssRoot k.skSeed k.seed 7 0

/-- The signature of a message with 32 bytes of randomness. -/
def SlhKey.sign (k : SlhKey) (rand m : List Byte) : List Byte :=
  let root := (k.public).drop 32
  let r := (hmac512 k.skPrf (rand ++ slhPure m)).take 32
  let (md, tree, leaf) := slhSplit (slhMsg r k.seed root (slhPure m))
  let x : SlhAdr := ⟨0, tree, 3, leaf, 0, 0⟩
  let fors := forsSign k.skSeed k.seed x md
  r ++ fors.flatten ++ (htSign k.skSeed k.seed 8 0 tree leaf (forsFromSig k.seed x md fors)).flatten

end Sys2Proof.Machine
end

