-- ==== Sys2Proof/Machine/Hub.lean ====
section
/-!
DEFINITION. The hub: writes to device registers, attestation, checkpoints and the loading of a patch table (spec/00 R5,
R7; spec/18 R417, R420; spec/19 R427, R429, R434-R436). Only these events, and those of Boot, change `State.hub`.
-/

namespace Sys2Proof.Machine

/-- A device register takes a value. -/
def setDev (s : State) (off : Nat) (v : BitVec 64) : State := { s with hub := { s.hub with dev := tset s.hub.dev off v } }

/-! ### Plain registers (R427) -/

/-- The bits that a write to a plain device register sets; none for an offset that has no register of this kind
(R298, R412, R427). DESIGN CHOICE, log 25. -/
def devMask (off v : Nat) : Option Nat :=
  if off = 0x40 then some (fieldN v 12 40 * 2 ^ 12 + fieldN v 0 8)
  else if off = 0x100 then some (fieldN v 5 47 * 2 ^ 5)
  else if 0x1000 ≤ off && off < 0x1200 then
    (if off % 32 = 0 || off % 32 = 8 then some (fieldN v 2 50 * 2 ^ 2)
     else if off % 32 = 16 then some (fieldN v 0 24) else none)
  else if 0x2000 ≤ off && off < 0x2080 && off % 8 = 0 then some (fieldN v 0 36)
  else if off = 0x4000 then some (fieldN v 0 48)
  else none

/-- DEVICE_REGISTER_WRITE (R427): a read-only or absent register keeps what it holds; a ring that LRBASE gives room takes
the reports held (R428). -/
def execDeviceRegisterWrite (off : Nat) (v : BitVec 64) (s : State) : Out :=
  match devMask off v.toNat with
  | some x => .next (if off = 0x40 then flushReports (setDev s off (word x)) else setDev s off (word x))
  | none => .next s

/-- A pool-decoder value that a write may not install (R429). -/
def poolDecReserved (v : Nat) : Bool := bitN v 63 && (fieldN v 60 3 == 7 || bitN v 59 || 5 ≤ fieldN v 56 3)

/-- Pool memory starts here (R280). -/
def poolStart : Nat := 0x1000_0000_0000

/-- The pool's bytes after the decoder has changed: it moves nothing, so a byte stays behind its port, out of reach where no
entry leads there any more, and one that an entry leads to again is read again (R429). DESIGN CHOICE, log 25. -/
def reshelve (old s : State) : State :=
  let stays (c : Host.Cell) : Bool := c.1 < poolStart || (poolPort old (c.1 - poolStart)).isNone ||
    poolPort s (c.1 - poolStart) == poolPort old (c.1 - poolStart)
  let away := s.mem.filter fun c => !(stays c)
  let shelf := away.foldl (fun (t : Table (List Host.Cell)) c => match poolPort old (c.1 - poolStart) with
    | some p => tset t p ((tgetD t p []).filter (·.1 != c.1) ++ [c])
    | none => t) s.shelf
  let here (p : Nat) (c : Host.Cell) : Bool := poolStart ≤ c.1 && poolPort s (c.1 - poolStart) == some p
  let back := shelf.flatMap fun e => e.2.filter (here e.1)
  { s with mem := back.foldl (fun m c => memWrite m c.1 1 c.2.toNat) (s.mem.filter stays)
           shelf := tmap shelf fun p l => l.filter fun c => !(here p c) }

/-- POOLDEC_WRITE (R429). -/
def execPooldecWrite (j : Nat) (v : BitVec 64) (s : State) : Out :=
  if poolDecReserved v.toNat || 64 ≤ j then .next s else .next (reshelve s (setDev s (0x3000 + 8 * j) v))

/-- The cap that a written value sets (R427). -/
def capOf (v : Nat) : Nat := Nat.max 1000 (Nat.min 7500 (fieldN v 0 16))

/-- PCAP_WRITE (R427). -/
def execPcapWrite (v : BitVec 64) (s : State) : Out := .next (setDev s 0x4010 (word (capOf v.toNat)))

/-! ### Attestation (R433, R434) -/

/-- ATTREQ: the request joins those that the root of trust serves in order. -/
def execAttreq (v : BitVec 64) (s : State) : Out :=
  let s1 := { s with hub := { s.hub with attQueue := s.hub.attQueue ++ [word (fieldN v.toNat 6 46 * 64)] } }
  .next (addEvent s1 .attestationDone)

/-- A 32 KiB buffer lies wholly in the vault and pool ranges of R280. DEDUCED, log 24. -/
def bufferInside (a : Nat) : Bool :=
  (a + 32768 ≤ 0x10_0000_0000 && a % 0x200_0000 + 32768 ≤ 0x180_0000) ||
    (0x1000_0000_0000 ≤ a && a + 32768 ≤ 0x5000_0000_0000)

/-- The device identity key (R7, R434). -/
def identityKey : SlhKey :=
  ⟨numBytes 32 Config.identitySeed.toNat, numBytes 32 Config.identityPrf.toNat, numBytes 32 Config.identityPub.toNat⟩

/-- What an attestation signs (R434), for a nonce of 32 bytes. -/
def attestation (s : State) (nonce : Nat) : List Byte :=
  numBytes 32 nonce ++ (List.range 8).flatMap (fun i => numBytes 32 (tgetD s.hub.meas i 0).toNat) ++
    numBytes 8 (versionWord s) ++ numBytes 32 s.hub.patchHash.toNat ++ identityKey.public

/-- Bits of the last word of a result buffer set, after whatever else is written there. DEDUCED, log 24. -/
def attestFlag (s : State) (buf bits : Nat) : State :=
  agentPut s hubWriter true (buf + 32760) 8 (loadPhys s (buf + 32760) 8 ||| bits)

/-- The report, its signature and the done bit (R434). -/
def attestReport (s : State) (nonce buf : Nat) : State :=
  let m := attestation s nonce
  let s1 := agentWrite s hubWriter buf m.length (bytesNum m)
  let sig := identityKey.sign (numBytes 32 (Config.signRandom s.tick).toNat) m
  attestFlag (agentWrite s1 hubWriter (buf + m.length) 29792 (bytesNum sig)) buf 1

/-- A request served (R434). DEDUCED, log 24. -/
def attestServe (s : State) (req : Nat) : State :=
  let buf := loadPhys s (req + 32) 8
  if buf % 64 != 0 || !(bufferInside buf) then
    { s with hub := { s.hub with attRefused := s.hub.attRefused + 1 } }
  else if loadPhys s (req + 40) 24 != 0 then attestFlag s buf 3
  else attestReport s (loadPhys s req 32) buf

/-- ATTESTATION_DONE: the oldest request. -/
def execAttestationDone (s : State) : Out :=
  match s.hub.attQueue with
  | [] => .next s
  | r :: rest => .next (attestServe { s with hub := { s.hub with attQueue := rest } } r.toNat)

/-! ### Checkpoints (R435, R436) -/

/-- CKPT.BUSY. -/
def ckptBusy (s : State) : Bool := bitN (devReg s 0x5200) 63

/-- The base of the image that CKPT names. -/
def ckptBase (s : State) : Nat := fieldN (devReg s 0x5200) 12 40 * 4096

/-- Every live launch is to be greyed out (R435). -/
def greyAll (s : State) : State := s.launches.foldl (fun acc e => keepOnce acc (.greyOut e.1)) s

/-- A write to CKPT that starts an operation: refused with result 3 while one runs (R436). DEDUCED, log 23. -/
def ckptStart (v : BitVec 64) (s : State) : State :=
  if ckptBusy s then setDev s 0x5200 (word (setFieldN (devReg s 0x5200) 56 4 3))
  else
    let x := 2 ^ 63 + fieldN v.toNat 60 3 * 2 ^ 60 + fieldN v.toNat 12 40 * 2 ^ 12
    addEvent (greyAll (setDev s 0x5200 (word x))) (.ckptDone (Nat.min 2 (Config.ckptResult s.tick).toNat))

/-- CKPT_SRAM_IMAGE. -/
def execCkptSramImage (v : BitVec 64) (s : State) : Out := .next (ckptStart v s)

/-- CKPT_WHOLE_DEVICE_IMAGE. -/
def execCkptWholeDeviceImage (v : BitVec 64) (s : State) : Out := .next (ckptStart v s)

/-- CKPT_RESTORE. -/
def execCkptRestore (v : BitVec 64) (s : State) : Out := .next (ckptStart v s)

/-- The pages that a table of a level and those below it map with D = 1, each as its physical base and the logarithm of its
size (R385, R390). -/
def dirtyBelow (s : State) : Nat → Nat → Nat → List (Nat × Nat)
  | 0, _, _ => []
  | fuel + 1, level, table =>
    (List.range 512).flatMap fun i =>
      let e := loadPhys s (table + 8 * i) 8
      if !(bitN e 0 && entryFormatOk level e) then []
      else if bitN e 1 then (if bitN e 7 then [(leafBase level e, leafBits level e)] else [])
      else dirtyBelow s fuel (level + 1) (fieldN e 12 40 * 4096)

/-- Pages, each once, without those that lie in a larger one. -/
def wholePages (ps : List (Nat × Nat)) : List (Nat × Nat) :=
  let qs := ps.eraseDups
  qs.filter fun x => !(qs.any fun y => x.2 < y.2 && y.1 ≤ x.1 && x.1 + 2 ^ x.2 ≤ y.1 + 2 ^ y.2)

/-- A physical address lies in the pool, in a GiB that a decoder entry covers (R280, R429). -/
def inPool (s : State) (pa : Nat) : Bool := match placeOf s pa with
  | .pool _ => true
  | _ => false

/-- The dirty pages of the pool: those that some address space maps with D = 1, each counted once however many entries map
it. DEDUCED, log 23. -/
def dirtyPages (s : State) : List (Nat × Nat) :=
  wholePages <| ((List.range 65536).flatMap fun asid => match asidRoot s asid with
    | .ok root => dirtyBelow s 4 1 root
    | .error _ => []).filter fun x => inPool s x.1

/-- An address lies in one of several pages. -/
def inPages (ps : List (Nat × Nat)) (a : Nat) : Bool := ps.any fun x => x.1 ≤ a && a < x.1 + 2 ^ x.2

/-- The bytes that an image keeps: the vaults and local stores, and the pages of the pool it names. -/
def imageBytes (ps : List (Nat × Nat)) (m : List Host.Cell) : List Host.Cell :=
  m.filter fun c => c.1 < poolStart || inPages ps c.1

/-- The image of a module all of whose launches are greyed out (R5): SRAM with every register row, engine and table, and
with `whole` the dirty pages of the pool. DEDUCED, log 23. -/
def imageOf (s : State) (base : Nat) (whole : Bool) : Image :=
  let dirty := if whole then dirtyPages s else []
  { base := base, whole := whole, dirty := dirty, saved := s.saved, mem := imageBytes dirty s.mem, fe := s.empties,
    cores := s.cores, clusters := s.clusters, futures := s.futures, tasks := s.tasks, nextTask := s.nextTask,
    jobs := s.jobs, nextJob := s.nextJob, tolBlocks := s.tolBlocks }

/-- A whole-device image holds up to 4 TiB of dirty pages (R5). -/
def imageFits (x : Image) : Bool := (x.dirty.map fun p => 2 ^ p.2).sum ≤ 2 ^ 42

/-- An image put into the persistent tier. -/
def keepImage (s : State) (base : Nat) (whole : Bool) : State :=
  { s with hub := { s.hub with images := imageOf s base whole :: s.hub.images.filter (·.base != base) } }

/-- Every launch that an image holds returns to the head of its queue (R354, R406). -/
def requeueAll (s : State) : State := s.saved.foldl (fun acc e => requeue acc e.2.launch e.1) s

/-- A cluster as an image brings it back: its caches and TLBs are empty (R406). -/
def coldCluster (c : Cluster) : Cluster := { c with icache := [], l2tlb := [], walks := [] }

/-- A core as an image brings it back: its caches and TLBs are empty (R406). -/
def coldCore (c : Core) : Core := { c with l1 := [], itlb := [], dtlb := [], issued := none }

/-- An image brought back: what it holds replaces what the module holds; what it does not hold of the pool stays, and
a word that had an uncorrectable error can be read again. DESIGN CHOICE, log 55. -/
def restoreImage (s : State) (x : Image) : State :=
  let stays (a : Nat) : Bool := poolStart ≤ a && !(inPages x.dirty a)
  requeueAll { s with
    mem := (s.mem.filter fun c => stays c.1).foldl (fun m c => memWrite m c.1 1 c.2.toNat) x.mem
    empties := x.fe
    saved := x.saved
    cores := tmap x.cores fun _ c => coldCore c
    clusters := tmap x.clusters fun _ c => coldCluster c
    futures := x.futures
    tasks := x.tasks
    nextTask := x.nextTask
    jobs := x.jobs
    nextJob := x.nextJob
    tolBlocks := x.tolBlocks
    poison := s.poison.filter stays
    sectors := s.sectors.filter fun b => stays (256 * b.1)
    lq := tmap s.lq fun _ l => l.filter fun i => match i with
      | .push _ => true
      | .back _ => false }

/-- The operation that CKPT runs ends with a result, and BUSY is cleared. DEDUCED, log 23. -/
def ckptEnd (s : State) (result : Nat) : State :=
  setDev s 0x5200 (word (result * 2 ^ 56 + fieldN (devReg s 0x5200) 12 40 * 2 ^ 12))

/-- Once every launch is greyed out: the image written, or brought back (R436). A base that names no image is an
uncorrectable error. DEDUCED, log 23. -/
def ckptAct (s : State) (result : Nat) : State :=
  let base := ckptBase s
  match fieldN (devReg s 0x5200) 60 3 with
  | 3 =>
    match s.hub.images.find? (·.base == base), result with
    | some x, 0 => ckptEnd (restoreImage s x) 0
    | some _, r => ckptEnd s r
    | none, _ => ckptEnd s 2
  | op =>
    if result = 0 then (if imageFits (imageOf s base (op == 2)) then ckptEnd (keepImage s base (op == 2)) 0 else ckptEnd s 1)
    else ckptEnd s result

/-- CKPT_DONE. -/
def execCkptDone (result : Nat) (s : State) : Out :=
  if !(ckptBusy s) then .next s
  else if !s.launches.isEmpty then .next (keepOnce (greyAll s) (.ckptDone result))
  else .next (keepOnce (ckptAct s result) .launchAdmit)

/-! ### The patch table (R417, R420) -/

/-- Words of 32 bits from words of 64, low half first. -/
def halves : List (BitVec 64) → List (BitVec 32)
  | [] => []
  | w :: r => BitVec.setWidth 32 w :: BitVec.ofNat 32 (w.toNat / 2 ^ 32) :: halves r

/-- An instruction that a substitute may hold before its last one, by its opcode: 0x00-0x37 other than RSZ and WIDQ, PLOG and
PMOV (R417). -/
def patchPlain (w : BitVec 32) : Bool :=
  let op := opOf w
  (op ≤ 0x37 && op != 0x29 && op != 0x2A) || op == 0x4E || op == 0x4F

/-- The rule for a substitute: every instruction but the last is plain; a LIMM pair counts as one. -/
def substituteOk : List (BitVec 32) → Bool
  | [] => true
  | [_] => true
  | w :: v :: r =>
    if opOf w = 0x7F then r.isEmpty || (patchPlain v && substituteOk r)
    else patchPlain w && substituteOk (v :: r)

/-- The entry of ten words, if it breaks no rule (R417). -/
def patchEntry (ws : List (BitVec 64)) : Option PatchEntry :=
  let h := ((ws[0]?).getD 0).toNat
  let plen := fieldN h 0 3
  let slen := fieldN h 4 4
  let hs := halves ws
  let mask := (hs.drop 2).take 4
  let val := (hs.drop 6).take 4
  let sub := ((hs.drop 10).take 8).take slen
  let ok := ws.length == 10 && fieldN h 10 54 == 0 && !(bitN h 3) && 1 ≤ plen && plen ≤ 4 && slen ≤ 8 &&
    ((ws[9]?).getD 0 == 0) && (mask.zip val).all (fun x => x.2 &&& ~~~x.1 == 0) && substituteOk sub
  if ok then some ⟨bitN h 9, bitN h 8, mask.take plen, val.take plen, sub⟩ else none

/-- COUNT entries in turn; none if one breaks a rule. -/
def patchEntries : Nat → List (BitVec 64) → Option (List PatchEntry)
  | 0, _ => some []
  | n + 1, ws =>
    match patchEntry (ws.take 10), patchEntries n (ws.drop 10) with
    | some e, some r => some (e :: r)
    | _, _ => none

/-- The table of an image, if it breaks no rule (R417). -/
def patchTable (ws : List (BitVec 64)) : Option (List PatchEntry) :=
  let h := ((ws[0]?).getD 0).toNat
  let count := fieldN h 16 9
  if 2 ≤ ws.length && fieldN h 25 39 == 0 && count ≤ 256 && fieldN h 0 16 == 0x4B50 && (ws[1]?).getD 0 == 0 then
    patchEntries count (ws.drop 2)
  else none

/-- The hash of a table's header and entries (R417). -/
def patchHashOf (ws : List (BitVec 64)) : BitVec 256 :=
  sha256 ((ws.take (2 + 10 * fieldN ((ws[0]?).getD 0).toNat 16 9)).flatMap fun w => numBytes 8 w.toNat)

/-- Firmware of a version installs a table: table, hash and version change together; an image that breaks a rule leaves the
table in force, and the refusal is reported (R420). -/
def installPatch (image : List (BitVec 64)) (fw : BitVec 32) (s : State) : State :=
  match patchTable image with
  | some t => { s with hub := { s.hub with patch := t, patchHash := patchHashOf image, firmware := fw } }
  | none => { s with told := s.told ++ [.patchRefused] }

/-- PATCH_TABLE_LOAD, at a firmware update: the firmware in force is from now on the one that flash A holds.
DEDUCED, log 33. -/
def execPatchTableLoad (image : List (BitVec 64)) (s : State) : Out := .next (installPatch image s.hub.flashA.fw s)

end Sys2Proof.Machine
end

