-- ==== Sys2Proof/Machine/Boot.lean ====
section
/-!
DEFINITION. Power-on and reset, throttling and shutdown (spec/19 R432, R433, R438).
-/

namespace Sys2Proof.Machine

/-- A measurement register extended by a digest (R433). -/
def extended (m d : BitVec 256) : BitVec 256 := sha256 (numBytes 32 m.toNat ++ numBytes 32 d.toNat)

/-- A stage's copy on a flash device verifies: its key is the one hashed in the fuses, its signature over the stage is valid
under that key, and its security version reaches the fused counter (R7, R432). -/
def stageVerifies (x : FlashStage) : Bool :=
  let key := numBytes 64 x.key.toNat
  sha256 key == Config.fusedKey && slhVerify key (numBytes 29792 x.sig.toNat) x.body && Config.fusedVersion ≤ x.version

/-- The copy of a stage that is started: that of flash A if it verifies, otherwise that of flash B if it does (R432). The
mark says whether it is B's. -/
def stageTaken (a b : Option FlashStage) : Option (FlashStage × Bool) :=
  match a.filter stageVerifies, b.filter stageVerifies with
  | some x, _ => some (x, false)
  | none, some x => some (x, true)
  | none, none => none

/-- What the boot ROM has done: the measurement registers, whether a stage failed on both devices, whether the last stage
was taken from flash B. -/
structure Booted where
  meas  : Table (BitVec 256)
  bad   : Bool
  fromB : Bool

/-- The stages in turn, each extended into its register before it is started (R432, R433). DEDUCED, log 30. -/
def bootStages (a b : List FlashStage) : Nat → Nat → Booted → Booted
  | 0, _, r => r
  | fuel + 1, i, r =>
    match stageTaken a[i]? b[i]? with
    | none => { r with bad := true }
    | some (x, side) =>
      bootStages a b fuel (i + 1)
        ⟨tset r.meas x.reg.toNat (extended (tgetD r.meas x.reg.toNat 0) (sha256 x.body)), false, side⟩

/-- The boot ROM's run over the two flash devices. -/
def bootRom (h : Hub) : Booted :=
  bootStages h.flashA.stages h.flashB.stages (Nat.max h.flashA.stages.length h.flashB.stages.length) 0 ⟨[], false, false⟩

/-- Firmware that has started loads the patch table of its flash device, if that holds one (R420, R432). -/
def bootPatch (x : FlashImage) (s : State) : State :=
  let s1 := { s with hub := { s.hub with firmware := x.fw } }
  if x.patch.isEmpty then s1 else installPatch x.patch x.fw s1

/-- What a reset leaves as it is: the flash devices; the pool, which lies outside the module, behind its ports until the
decoder leads there again, with the images in its persistent tier; the rows and lanes that have been retired; the model's
own counters. DEDUCED, log 30. -/
def resetFrom (s : State) (m : Table (BitVec 256)) (bad : Bool) : State :=
  reshelve s { State.reset with
    mem := s.mem.filter (fun c => poolStart ≤ c.1)
    shelf := s.shelf
    tick := s.tick
    nextUid := s.nextUid
    readySeq := s.readySeq
    inputs := s.inputs
    told := s.told
    hub := { Hub.reset with flashA := s.hub.flashA
                            flashB := s.hub.flashB
                            faulty := s.hub.faulty
                            images := s.hub.images
                            spareRows := s.hub.spareRows
                            failedRows := s.hub.failedRows
                            lanesLost := s.hub.lanesLost
                            meas := m
                            recovery := bad } }

/-- POWER_ON_RESET (R432): registers are measured from 0, and a stage that fails on both devices leaves the module in
recovery; otherwise the firmware loads its patch table. What it then does are inputs of its own. The steps are the same
whatever the reset comes from. -/
def execPowerOnReset (_origin : ResetOrigin) (s : State) : Out :=
  let r := bootRom s.hub
  let s1 := resetFrom s r.meas r.bad
  .next (if r.bad then s1 else bootPatch (if r.fromB then s.hub.flashB else s.hub.flashA) s1)

/-! ### Power (R438) -/

/-- THERMAL_THROTTLE: the compute dies skip one more, or one fewer, of 16 issue cycles; no value changes. At 105 degrees
the module is to shut down. DEDUCED, log 31. -/
def execThermalThrottle (watts celsius : Nat) (s : State) : Out :=
  let t := if devReg s 0x4010 < watts || 95 ≤ celsius then Nat.min 15 (s.hub.throttle + 1) else s.hub.throttle - 1
  let s1 := { s with hub := { s.hub with throttle := t } }
  .next (if 105 ≤ celsius then keepOnce s1 .thermalShutdown else s1)

/-- THERMAL_SHUTDOWN: every core stops as for a checkpoint, an SRAM image is written if the tier allows it, and the
compute dies are powered down. DEDUCED, log 31. -/
def execThermalShutdown (s : State) : Out :=
  if !s.launches.isEmpty then .next (keepOnce (greyAll s) .thermalShutdown)
  else
    let s1 := if (Config.ckptResult s.tick).toNat = 0 then keepImage s (ckptBase s) false else s
    .next { s1 with hub := { s1.hub with powered := false } }

end Sys2Proof.Machine
end

