-- ==== Sys2Proof/Machine/Conf.lean ====
section
/-!
DEFINITION. The confidence test and early exit: CONF, CONF.exit and the posting of its backfill job (spec/04
R150-R153; spec/14 R371-R374; spec/01 R47).
-/

namespace Sys2Proof.Machine

/-- The test of R150: the exact margin is a number and at least CONFTAU. -/
def confident (s : State) (a b : Src) : Bool :=
  let m := ((a.fval 0).add (b.fval 0).neg).1
  let tau := fp32.decode (ctlOf (coreAt s (curP s)) 0x0C)
  !m.isNan && !tau.isNan && !(m.lt tau)

/-- The types CONF admits (R150). -/
def confTypes (_ is : List NameInfo) : Bool := is.all fun i => i.ty == 3 || i.kind == 8

/-- CONF (R150). -/
def execConf (g : Guard) (d : BitVec 3) (a b : NameIx) (s : State) : Out :=
  uniformOp s g false (d != 0) [] [a, b] confTypes fun s' _ xs =>
    .ok (advance (setCur s' fun t => setP t d.toNat (confident s' (nth xs 0) (nth xs 1))))

/-! ### The exit of a token -/

/-- An address in a near-region window other than the vault window (R45, R371). -/
def nearButVault (va : Nat) : Bool :=
  va < 0x2_0000 || (0x10_0000 ≤ va && va < 0x30_0100) || (0x40_0000 ≤ va && va < 0x50_4000) ||
    (0x60_0000 ≤ va && va < 0x70_0000) || (0x100_0000 ≤ va && va < 0x300_0000 && va % 0x10_0000 < 0x2_0000)

/-- The descriptor's addresses may be used by a routine on another core (R371). -/
def kvShared (kv : Nat) (d : KvDesc) : Bool :=
  !(nearButVault kv || nearButVault d.bfjob || nearButVault d.bffut || nearButVault d.base || nearButVault d.state)

/-- CURSOR: the layer and the token, checked with code 9 (R151, R153). -/
def kvCursor (d : KvDesc) : Option (Nat × Nat) :=
  let e := fieldN d.cursor 32 16
  let t := fieldN d.cursor 0 32
  if fieldN d.cursor 48 16 != 0 || e = 0 || d.layers < e || d.tokens ≤ t then none else some (e, t)

/-- The places of the state bytes that an exit marks, each writable and free to write (R152, R153). -/
def markPlaces (s0 : State) (d : KvDesc) (tok : Nat) : State → List Nat → Res (State × List Nat)
  | s, [] => .ok (s, [])
  | s, layer :: r => do
    let va := d.stateAt layer tok
    let (s1, pa) ← strandPhys s0 s .write 1 1 va
    if pageHeld s1 (asidOf s0 (curStrand s0).lid) va then
      parkNow (.migration (asidOf s0 (curStrand s0).lid) (va / 65536))
    else
      match poisoned s1 pa 1 with
      | some _ => trapNow cMCHECK (va + mcheckSource s1 pa * 2 ^ 56)
      | none => do
        let (s2, ps) ← markPlaces s0 d tok s1 r
        .ok (s2, pa :: ps)

/-- Mark entries PENDING; those that are stay so (R152). A mark of a reserved word waits at its home (R177). -/
def markAll (s : State) (ps : List Nat) : State :=
  ps.foldl (fun acc pa => if loadPhys acc pa 1 = 2 then acc else homeWrite acc ⟨acc.cur, pa, 1, 2, false, false⟩) s

/-- The jobs queued, and not running, in a cluster's backfill unit (R374). -/
def jobsQueued (s : State) (c : Nat) : Nat := (s.jobs.filter fun j => j.2.cluster == c && !j.2.running).length

/-- Post a job to its unit (R152 step 5). -/
def postJob (s : State) (j : Job) : State :=
  addEvent { s with jobs := tset s.jobs s.nextJob j, nextJob := s.nextJob + 1 } (.backfillJobStart j.cluster)

/-- The predicate is written and the PC advances: what CONF.exit does once nothing can stop it. -/
def endConf (s : State) (d : Nat) : State := advance (setCur s fun t => setP t d true)

/-- The job of an exit as the strand that issues forms it (R152, R374). -/
def exitJob (s : State) (kv : Nat) (desc : KvDesc) (e tok : Nat) (h : BitVec 32) : Job :=
  let t := curStrand s
  let p := curP s
  { lid := t.lid, asid := asidOf s t.lid, sv := t.sv, tvec := t.tvec, wid := t.wid, tok := tok, layer := e + 1,
    last := desc.layers, bfjob := BitVec.ofNat 48 desc.bfjob, handle := h, desc := BitVec.ofNat 48 kv,
    kv := BitVec.ofNat 512 desc.bits, p := p, cluster := clusterOf p, running := false, waiting := false, filled := 0,
    fault := false, task := none, tested := false, found := none }

/-- Step 4 of R152: the marks, on which the strand waits with its job formed. `s0` is the state without the reading of the
sources, with what the walks so far have set. -/
def exitMarks (s0 : State) (kv : Nat) (desc : KvDesc) (e tok : Nat) (h : BitVec 32) : Res State := do
  let layers := (List.range (desc.layers - e)).map (· + e + 1)
  let (s1, ps) ← markPlaces s0 desc tok s0 layers
  let s2 := setCur (markAll s1 ps) fun t => { t with answer := some (.exit (exitJob s0 kv desc e tok h)) }
  .error (.park .marks (some (addEvent s2 (.accessReply s2.cur))))

/-- Step 5 of R152: the job is posted, or the strand waits for room. -/
def exitPost (s : State) (d : Nat) (j : Job) : Res State :=
  let s2 := endConf s d
  if jobsQueued s2 j.cluster < 64 then
    .error (.park .reply (some (addEvent (postJob (progressCur s2) j) (.accessReply s2.cur))))
  else
    .error (.park (.backfillRoom j.cluster)
      (some (addEvent (setCur s2 fun t => { t with job := some j }) (.confExitJobPost s2.cur))))

/-- exit_token (R152, R153) up to its marks; `is` are the sources, which an instruction that parks does not read, while the
bits that its walks set stay (R36, R390). The resolving of step 3 writes no p1: R152 speaks of the entry only.
DESIGN CHOICE, log 49. -/
def exitToken (s0 : State) (is : List NameInfo) (d : Nat) : Res State := do
  let kv := ctlOf (coreAt s0 (curP s0)) 0x0D
  if kv = 0 then trapNow cILLEGAL (refuseVal 0 10)
  else if nearButVault kv then trapNow cILLEGAL (refuseVal 0 13)
  else
    let (s1, desc) ← strandKv s0 s0 kv
    if !(kvShared kv desc) then trapNow cILLEGAL (refuseVal 0 13)
    else
      match kvCursor desc with
      | none => trapNow cILLEGAL (refuseVal 0 9)
      | some (e, tok) => do
        let (s2, hv) ← strandRead s0 s1 4 ((desc.bffut + 4 * tok) % 2 ^ 48)
        let h := BitVec.ofNat 32 hv
        let _ ← liveFut s2 h
        if e = desc.layers then do
          let (s2, _) ← readSrcs s2 is []
          fsetStep s2 h 0 fun s3 _ => .error (.park .reply (some (addEvent (endConf s3 d) (.accessReply s3.cur))))
        else exitMarks s2 kv desc e tok h

/-- The job that a CONF.exit whose marks are performed has formed (R152 step 4). -/
def exitFormed (t : Strand) : Option Job :=
  match t.answer with
  | some (.exit j) => some j
  | _ => none

/-- CONF.exit: the test, and on success the exit of the token (R150, R152). -/
def execConfExit (g : Guard) (d : BitVec 3) (a b : NameIx) (s : State) : Out :=
  uniformOp s g false (d != 0) [] [a, b] confTypes fun s' _ xs =>
    match exitFormed (curStrand s) with
    | some j => exitPost s' d.toNat j
    | none =>
      if confident s' (nth xs 0) (nth xs 1) then exitToken s (xs.map (·.info)) d.toNat
      else .ok (advance (setCur s' fun t => setP t d.toNat false))

/-- CONF_EXIT_JOB_POST: a strand parked for room in its backfill queue posts the job it has formed (R152 step 5,
R159). -/
def execConfExitJobPost (k : Nat) (s : State) : Out :=
  match tget s.strands k with
  | some t =>
    match t.job with
    | some j =>
      if jobsQueued s j.cluster < 64 then
        done s (wake (setStrand (postJob (progress s t.lid) j) k { t with job := none }) k)
      else again s (.confExitJobPost k)
    | none => done s s
  | none => done s s

end Sys2Proof.Machine
end

