-- ==== Sys2Proof/Machine/Sys.lean ====
section
/-!
DEFINITION. The system group: IFLUSH, TLBINV, DBRK, GREY, and the arrival of instruction lines (spec/04 R154-R159; spec/10
R289-R292; spec/17 R389-R391; spec/08 R275, R278; spec/12 R328).
-/

namespace Sys2Proof.Machine

/-- The physical line of an address for the strand that issues, whatever its permissions; none for the near region, of which
R155 does not speak and nothing is cached, nor for an address with no translation. DESIGN CHOICE, log 27. -/
def flushLine (s : State) (va : Nat) : Option Nat :=
  let t := curStrand s
  if isNear va then none
  else
    let range : Option RangeEnt := match launchAt s t.lid with
      | some l => l.ranges.find? fun (r : RangeEnt) => decide (r.vbase ≤ va) && decide (va ≤ r.vlast)
      | none => none
    match range with
    | some r => some (lineOf (r.pbase + (va - r.vbase)))
    | none =>
      match tlbFind s (.core (curP s)) (asidOf s t.lid) va .fetch with
      | some e => some (lineOf (e.pa + va % 2 ^ e.bits))
      | none => (walk s (clusterOf (curP s)) (asidOf s t.lid) va).toOption.map fun x => lineOf (x.pa + va % 2 ^ x.bits)

/-- Lines that a test picks leave the caches of the strand's cluster; the strand is parked meanwhile (R155). The strand's
earlier stores come first, those in the write-merge buffer among them, which R286 does not list. DESIGN CHOICE, log 49. -/
def flushLines (s : State) (drop : Nat → Bool) : Res State := do
  let s1 ← settleStores s
  let s2 := leaveMiddle s1 (clusterOf (curP s1)) drop
  .error (.park .flush (some (addEvent (advance s2) (.iflushComplete s2.cur))))

/-- IFLUSH of one line (R155). A name of any type gives the address, as its bits read unsigned. DESIGN CHOICE, log 11.
DEDUCED, log 11. -/
def execIflush (g : Guard) (a : NameIx) (s : State) : Out :=
  uniformOp s g false true [] [a] (fun _ _ => true) fun s' _ xs =>
    let line := flushLine s' ((nth xs 0).pat 0 % 2 ^ 48)
    flushLines s' fun l => some l == line

/-- IFLUSH of every line (R155). -/
def execIflushAll (g : Guard) (s : State) : Out :=
  gated s .uniform g true false fun _ => flushLines s fun _ => true

/-- IFLUSH_COMPLETE (R155). -/
def execIflushComplete (k : Nat) (s : State) : Out :=
  done s (if (strandAt s k).run = .parked .flush then wake s k else s)

/-! ### TLBINV -/

/-- The range entries of the launches that a test picks, changed (R156, R389). -/
def mapRanges (s : State) (f : Launch → List RangeEnt) : State :=
  { s with launches := tmap s.launches fun _ l => { l with ranges := f l } }

/-- Some TLB of the module holds an entry that a test picks. -/
def anyEntry (s : State) (f : TlbEnt → Bool) : Bool :=
  s.cores.any (fun c => c.2.itlb.any f || c.2.dtlb.any f) || s.clusters.any fun c => c.2.l2tlb.any f

/-- Translations that a test picks, by ASID, first and last address, leave every TLB and walk cache of the module
(R156, R389). -/
def dropTranslations (s : State) (drop : Nat → Nat → Nat → Bool) : State :=
  let keep (e : TlbEnt) : Bool := !(drop e.asid e.va (e.va + 2 ^ e.bits - 1))
  let core (_ : Nat) (c : Core) : Core := { c with itlb := c.itlb.filter keep, dtlb := c.dtlb.filter keep }
  let cluster (_ : Nat) (c : Cluster) : Cluster :=
    { c with l2tlb := c.l2tlb.filter keep
             walks := c.walks.filter fun w => !(drop w.asid w.va (w.va + 2 ^ (48 - 9 * w.level) - 1)) }
  { s with cores := tmap s.cores core, clusters := tmap s.clusters cluster }

/-- The translations that the chunks of a copy in flight hold: that of a TABLE's source, and those through which bytes are
still to be written (R401, R402). -/
def copyHolds (s : State) (p id : Nat) (c : Copy) : List Held := c.held.toList ++ c.dests.filter (destHeld s p id c)

/-- The chunks of copies that hold a translation which a test picks: core, copy and virtual page (R156, R402). -/
def heldChunks (s : State) (drop : Nat → Nat → Nat → Bool) : List (Nat × Nat × Nat) :=
  s.cores.flatMap fun c => c.2.copies.flatMap fun x =>
    ((copyHolds s c.1 x.1 x.2).filter fun h => h.lo ≤ h.hi && drop x.2.asid h.lo h.hi).map fun h => (c.1, x.1, h.page)

/-- A chunk is still in flight with the translation it held. -/
def chunkHolds (s : State) (x : Nat × Nat × Nat) : Bool :=
  (tget (coreAt s x.1).copies x.2.1).any fun c => (copyHolds s x.1 x.2.1 c).any fun h => h.page == x.2.2

/-- Translations leave every TLB of the module; walks and most chunks are single steps here, so what is left to wait for is
the strand's earlier stores, those in the write-merge buffer among them, the chunks that hold such a translation, and the
completion itself (R156, R391, R402). A spurious wake covers the monitors of a whole 64 KiB page. DESIGN CHOICE, log 49.
DESIGN CHOICE, log 51. -/
def dropEntries (s0 : State) (drop : Nat → Nat → Nat → Bool) (ranges : State → Launch → List RangeEnt)
    (pages : Nat → Nat → Bool) : Res State := do
  let s ← settleStores s0
  let gone (asid page : Nat) : Bool := pages asid page || anyEntry s fun e =>
    drop e.asid e.va (e.va + 2 ^ e.bits - 1) && e.asid == asid && e.va < page * 65536 + 65536 &&
      page * 65536 < e.va + 2 ^ e.bits
  let s1 := mapRanges (dropTranslations s drop) (ranges s)
  let s2 := spurious s1 6 fun _ t m => !(isNear (m.page * 65536)) && gone (asidOf s1 t.lid) m.page
  .error (.park (.tlbInv (heldChunks s drop)) (some (addEvent (advance s2) (.tlbinvComplete s2.cur))))

/-- TLBINV of one page, in every ASID (R156). A name of any type gives the address, as its bits read unsigned.
DESIGN CHOICE, log 11. DEDUCED, log 11. -/
def execTlbinvPage (g : Guard) (a : NameIx) (s : State) : Out :=
  uniformOp s g true true [] [a] (fun _ _ => true) fun s' _ xs =>
    let va := (nth xs 0).pat 0 % 2 ^ 48
    dropEntries s' (fun _ lo hi => lo ≤ va && va ≤ hi) (fun _ l =>
      l.ranges.filter fun r => !(r.vbase ≤ va && va ≤ r.vlast)) fun _ page => page == va / 65536

/-- TLBINV of one ASID; its range descriptors are loaded again (R156, R389). -/
def execTlbinvAsid (g : Guard) (a : NameIx) (s : State) : Out :=
  uniformOp s g true true [] [a] (fun _ _ => true) fun s' _ xs =>
    let asid := zpat (srcInt s (nth xs 0)) 16
    dropEntries s' (fun x _ _ => x == asid) (fun s l => if l.asid = asid then loadRanges s asid else l.ranges)
      fun x _ => x == asid

/-- TLBINV of everything (R156). -/
def execTlbinvAll (g : Guard) (s : State) : Out :=
  gated s .uniform g true true fun _ => dropEntries s (fun _ _ _ => true) (fun s l => loadRanges s l.asid) fun _ _ => true

/-- TLBINV_COMPLETE, once the chunks it waits for have ended (R156, R402). -/
def execTlbinvComplete (k : Nat) (s : State) : Out :=
  match (strandAt s k).run with
  | .parked (.tlbInv xs) => if xs.any (chunkHolds s) then again s (.tlbinvComplete k) else done s (wake s k)
  | _ => done s s

/-! ### DBRK, GREY -/

/-- The cycle from which the strands of a core count as halted: that in which the first of them was, or the present one. -/
def haltCycle (s : State) (p : Nat) : Nat := ((strandsOf s p).filterMap (·.2.halted)).foldl Nat.min s.cycle

/-- A strand of a core is halted, with every strand of the core that is halted counting from one cycle, by which `go` shifts
them all: so they keep their offsets, those that issue after the first has halted too (R278). DEDUCED, log 32. -/
def haltStrand (s : State) (p : Nat) (t : Strand) : Strand := { t with halted := some (haltCycle s p) }

/-- Every live strand of a core is halted at its next issue turn, and its merge buffer is written out (R278, R286,
R328); a halt that reaches the core during a repack waits for the repack's end (R107). DEDUCED, log 32. -/
def haltCore (s : State) (p : Nat) : State :=
  if (coreAt s p).repack.isSome then addEvent s (.kydbHalt p)
  else
    let s := flushMerge s p
    { s with strands := tmap s.strands fun k t => if keyCore k = p then haltStrand s p t else t }

/-- DBRK (R154): a halt only with the debugger attached and breaks enabled, which tells kydb the code. -/
def execDbrk (g : Guard) (c : BitVec 6) (s : State) : Out :=
  gated s .uniform g true false fun _ =>
    let p := curP s
    if s.kydb && s.breaksOn then
      let s1 := setCur (advance s) (haltStrand s p)
      .ok (haltCore { s1 with told := s1.told ++ [.breakCode (coreAt s p).logical (curSlot s) c] } p)
    else .ok (advance s)

/-- GREY (R158, R354): the launch unit is asked, and the strand waits until the launch is saved. -/
def execGrey (g : Guard) (a : NameIx) (s : State) : Out :=
  uniformOp s g true true [] [a] (fun _ _ => true) fun s' _ xs =>
    let lid := srcWord s (nth xs 0)
    if lid = (curStrand s').lid then illegal s
    else
      match launchAt s' lid with
      | some l =>
        if l.field 0x68 2 2 = 2 then .ok (advance s')
        else .error (.park (.grey lid) (some (addEvent (advance s') (.greyOut lid))))
      | none => .ok (advance s')

/-- FETCH_LINE_ARRIVAL: the line a strand waits for enters its core's L1, and its cluster's middle cache if that lacks it,
which then reads further lines (R289-R291) and counts the line read (R302). -/
def execFetchLineArrival (k : Nat) (s : State) : Out :=
  match tget s.strands k with
  | some t =>
    match t.run with
    | .parked (.fetch va) =>
      let c := clusterOf (keyCore k)
      match translate s t.lid (.core (keyCore k)) (asidOf s t.lid) t.sv .fetch va with
      | .ok (s1, pa, _) =>
        let line := lineOf pa
        match cacheGet (clusterAt s1 c).icache line with
        | some data => done s (wake (fillL1 s1 (keyCore k) line data) k)
        | none =>
          if (poisoned s1 (line * 64) 64).isSome then done s (wake s1 k)
          else
            let s2 := fillMiddle (countPlace s1 c (asidOf s1 t.lid) va pa false) c line (lineBytes s1 line)
            let s3 := prefetchNext { fillL1 s2 (keyCore k) line (lineBytes s1 line) with cur := k } va
            done s (wake { s3 with cur := s.cur } k)
      | .error (.held _) => again s (.fetchLineArrival k)
      | .error _ => done s (wake s k)
    | _ => done s s
  | none => done s s

end Sys2Proof.Machine
end

