-- ==== Sys2Proof/Machine/Debug.lean ====
section
/-!
DEFINITION. Halting and resuming by kydb (spec/08 R275, R278; spec/11 R328, R329).
-/

namespace Sys2Proof.Machine

/-- KYDB_HALT: the debugger is attached, and the live strands of the core halt at their next issue turn; one parked in
WAITA is halted where it is (R278, R328, R329). DEDUCED, log 32. -/
def execKydbHalt (p : Nat) (s : State) : Out := done s { haltCore s p with kydb := true }

/-- A strand goes on after a halt with every cycle that its turn depends on shifted by the length of the halt, so that the
strands of the core keep their offsets (R278). -/
def resumed (now : Nat) (t : Strand) : Strand :=
  match t.halted with
  | none => t
  | some c =>
    let by' := now - c
    { t with halted := none, lastIssue := t.lastIssue.map (· + by'), yieldAt := t.yieldAt.map (· + by'),
             run := (match t.run with
               | .ready since => .ready (since + by')
               | r => r) }

/-- The halted strands of a core. -/
def haltedOf (s : State) (p : Nat) : List Nat := ((strandsOf s p).filter (·.2.halted.isSome)).map (·.1)

/-- KYDB_RESUME: the halted strands of a core go on. One that was halted at a breakpoint executes the instruction there
(R275), and a WAITA completes with reason 4 and the bits that hold (R329). DEDUCED, log 32. -/
def execKydbResume (p : Nat) (s : State) : Out :=
  let ks := haltedOf s p
  let s1 := { s with strands := tmap s.strands fun k t => if keyCore k = p then resumed s.cycle t else t }
  done s (ks.foldl (fun acc k => tryWaita acc k 4) s1)

end Sys2Proof.Machine
end

