-- ==== Sys2Proof/Machine/Link.lean ====
section
/-!
DEFINITION. The Raelo links: flits sent and received, and forwarded (spec/18 R415; spec/19 R431), the messages in them
(spec/05 R190) and the writes.
-/

namespace Sys2Proof.Machine

/-- One bit of CRC-32, least significant bit first, with the IEEE 802.3 polynomial. -/
def crcBit (c : BitVec 32) : BitVec 32 := if bitN c.toNat 0 then (c >>> 1) ^^^ 0xEDB88320 else c >>> 1

/-- One byte of CRC-32. -/
def crcByte (c : BitVec 32) (b : Byte) : BitVec 32 :=
  crcBit (crcBit (crcBit (crcBit (crcBit (crcBit (crcBit (crcBit (c ^^^ b.setWidth 32))))))))

/-- CRC-32 of bytes, in the form of IEEE 802.3: all ones at first, complemented at the end. PRESUMED, log 28. -/
def crc32 (m : List Byte) : BitVec 32 := ~~~(m.foldl crcByte 0xFFFF_FFFF)

/-- The CRC of a flit is right (R431). -/
def flitCrcOk (f : Nat) : Bool := crc32 (numBytes 248 f) == BitVec.ofNat 32 (fieldN f 1984 32)

/-! Fields of a flit (R431). -/
def flitType (f : Nat) : Nat := fieldN f 0 8
def flitDest (f : Nat) : Nat := fieldN f 8 12
def flitSource (f : Nat) : Nat := fieldN f 20 12
def flitSeq (f : Nat) : Nat := fieldN f 32 16
def flitLast (f : Nat) : Nat := fieldN f 48 16
def flitPayload (f : Nat) : BitVec 1920 := BitVec.ofNat 1920 (fieldN f 64 1920)

/-- The live launch of an ASID that holds a logical core, with the physical core. -/
def liveHolder (s : State) (asid l : Nat) : Option Nat :=
  (s.launches.find? fun e => e.2.asid == asid && (tget e.2.coreMap l).isSome).bind fun e => tget e.2.coreMap l

/-- The event that a message gives rise to at a core. -/
def messageEvent (p cls slot : Nat) (v who : BitVec 64) : Instr :=
  if cls = 0 then .inboxDelivery p slot v else .mailboxDelivery p cls v who

/-- A message from another module (R190): delivered to the live launch of the sender's ASID on the core, kept for one
that is greyed out, otherwise discarded with a report of kind 8. DESIGN CHOICE, log 49. -/
def remoteMessage (s : State) (m : BitVec 2 × BitVec 64 × BitVec 64 × BitVec 64 × BitVec 16) : State :=
  let (cls, w, v, who, asid) := m
  let l := fieldN w.toNat 0 16
  let slot := fieldN w.toNat 16 5
  match liveHolder s asid.toNat l, greyedHolder s asid.toNat l with
  | some p, _ => addEvent s (messageEvent p cls.toNat slot v who)
  | none, some lid =>
    { s with saved := tmap s.saved fun i x =>
        if i = lid then { x with events := x.events ++ [messageEvent l cls.toNat slot v who] } else x }
  | none, none => report s 0 0 8 w.toNat

/-- A write from another module: a whole line, where memory lies; at a reserved word its part waits (R177). -/
def remoteBeat (s : State) (b : BitVec 46 × BitVec 512) : State :=
  let pa := 64 * b.1.toNat
  match placeOf s pa with
  | .hole => s
  | .device _ => s
  | _ =>
    agentWrite s remoteWriter pa 64 b.2.toNat

/-- What a flit of data brings to its destination. PRESUMED, log 28. -/
def flitDeliver (s : State) (f : Nat) : State :=
  let s1 := (Config.flitMessages (flitPayload f)).foldl remoteMessage s
  (Config.flitBeats (flitPayload f)).foldl remoteBeat s1

/-- The 32 words of a flit. DESIGN CHOICE, log 29. -/
def flitWords (f : Nat) : List (BitVec 64) := (List.range 32).map fun i => word (fieldN f (64 * i) 64)

/-- A flit of data in order: delivered here, or sent on towards its module. PRESUMED, log 28. -/
def flitAccept (s : State) (f : Nat) : State :=
  if flitDest f = Config.moduleId.toNat then flitDeliver s f
  else { s with linkOut := s.linkOut ++ [⟨4096 + flitDest f, flitDest f, 0, 16, flitWords f⟩] }

/-! ### Links -/

/-- The link of a direction. -/
def linkAt (s : State) (dir : Nat) : Link := tgetD s.hub.links dir Link.reset

/-- A link changed. -/
def setLink (s : State) (dir : Nat) (k : Link) : State := { s with hub := { s.hub with links := tset s.hub.links dir k } }

/-- Flits held until the acknowledgement of one of them: those up to it are let go (R431). -/
def acknowledged (sent : List (Nat × LinkMsg × BitVec 2048)) (last : Nat) : List (Nat × LinkMsg × BitVec 2048) :=
  if sent.any (·.1 == last) then (sent.dropWhile (·.1 != last)).drop 1 else sent

/-- A number from its 64-bit words, the lowest first. -/
def wordsNum : List (BitVec 64) → Nat
  | [] => 0
  | w :: ws => w.toNat + 2 ^ 64 * wordsNum ws

/-- The flit of a packet: its header, payload, CRC and credits. A flit on its way through keeps its destination, source and
payload. PRESUMED, log 28. -/
def flitOf (s : State) (k : Link) (m : LinkMsg) : BitVec 2048 :=
  let through := wordsNum m.words
  let (source, payload) := if m.kind = 16 then (flitSource through, flitPayload through)
    else (Config.moduleId.toNat, Config.flitPayload m.words)
  let head := 1 + m.phys % 4096 * 2 ^ 8 + source % 4096 * 2 ^ 20 + k.next % 65536 * 2 ^ 32 +
    (k.expect + 65535) % 65536 * 2 ^ 48
  let body := head + payload.toNat * 2 ^ 64
  BitVec.ofNat 2048 (body + (crc32 (numBytes 248 body)).toNat * 2 ^ 1984 + (Config.creditReturn s.tick).toNat * 2 ^ 2016)

/-- The direction a packet leaves in: the first hop of its route entry, or what the forwarding table says of its module
(R413, R431). -/
def hopOf (s : State) (m : LinkMsg) : Option Nat := if m.kind = 16 then tget s.hub.forwards m.phys else some m.hop

/-- A packet waits: a packet to its logical module went out under another route entry and is not acknowledged (R415). -/
def routeChanged (s : State) (m : LinkMsg) : Bool :=
  s.hub.links.any fun e => e.2.sent.any fun x =>
    x.2.1.dest == m.dest && (x.2.1.phys != m.phys || (m.kind != 16 && x.2.1.hop != m.hop))

/-- Packets leave in order, each as a flit that is held until it is acknowledged; one that cannot leave keeps back the later
ones to its module and of its direction. `kept` are those kept back so far. -/
def sendPackets : List LinkMsg → List LinkMsg → State → State
  | [], kept, s => { s with linkOut := kept }
  | m :: rest, kept, s =>
    match hopOf s m with
    | none => sendPackets rest (kept ++ [m]) s
    | some dir =>
      let k := linkAt s dir
      let behind := kept.any fun x => x.dest == m.dest || hopOf s x == some dir
      if behind || routeChanged s m || 128 ≤ k.sent.length then sendPackets rest (kept ++ [m]) s
      else sendPackets rest kept (setLink s dir
        { k with next := (k.next + 1) % 65536, sent := k.sent ++ [(k.next, m, flitOf s k m)] })

/-- The links send what they can (R415, R431). -/
def pumpLinks (s : State) : State := if s.linkOut.isEmpty then s else sendPackets s.linkOut [] s

/-- LINK_FLIT_RECEIVE (R431): a flit with a bad CRC, of a reserved type or of data out of sequence is discarded, and with it
every flit up to the first that is missing. PRESUMED, log 28. -/
def execLinkFlitReceive (dir : Nat) (flit : BitVec 2048) (s : State) : Out :=
  let f := flit.toNat
  let k := linkAt s dir
  let good := flitCrcOk f && flitType f ≤ 2
  let due := flitType f == 1 && flitSeq f == k.expect
  let old := good && flitType f == 1 && (k.expect + 65536 - flitSeq f) % 65536 ≤ 128
  if good && (due || (!k.waiting && flitType f != 1)) then
    let k1 := { k with sent := acknowledged k.sent (flitLast f), waiting := false
                       credits := BitVec.ofNat 32 (fieldN f 2016 32)
                       expect := if due then (k.expect + 1) % 65536 else k.expect }
    let s1 := setLink s dir k1
    .next (pumpLinks (if due then flitAccept s1 f else s1))
  else .next (setLink s dir { k with waiting := k.waiting || !old })

end Sys2Proof.Machine
end

