-- ==== Sys2Proof/Machine/Migration.lean ====
section
/-!
DEFINITION. The page migrator and the vault rows (spec/10 R302-R305; spec/11 R306; spec/19 R437). A replica is a copy in a
frame of its own, which always holds what its page holds: a write to the page waits until every replica is gone.
-/

namespace Sys2Proof.Machine

/-! ### The mapping of a page -/

/-- What a walk of the migrator finds, in memory alone. -/
def pageWalk (s : State) (asid va : Nat) : Option Xlat :=
  ((asidRoot s asid).bind fun root => walkFrom s asid 4 1 root va []).toOption.map (·.1)

/-- A part of 4 KiB of a 64 KiB page: its number in the page, the address of its leaf, the leaf, log2 of the size the leaf
maps, and the physical address of the part. -/
structure PagePart where
  ix    : Nat
  entry : Nat
  leaf  : Nat
  bits  : Nat
  pa    : Nat
deriving DecidableEq, Repr

/-- The mapped parts of a 64 KiB page. -/
def pageParts (s : State) (asid page : Nat) : List PagePart :=
  (List.range 16).filterMap fun i =>
    let va := page * 65536 + 4096 * i
    (pageWalk s asid va).map fun x => ⟨i, x.entry.getD 0, x.leaf, x.bits, x.pa + va % 2 ^ x.bits⟩

/-- The range entry of a launch of that address space that covers a page, which is used before any leaf (R388). -/
def pageRange (s : State) (asid page : Nat) : Option RangeEnt :=
  (s.launches.filter fun e => e.2.asid == asid).findSome? fun e => e.2.ranges.find? fun r =>
    decide (r.vbase ≤ page * 65536) && decide (page * 65536 ≤ r.vlast)

/-- The mapping of a page: the physical address of its first mapped byte and the leaf, or the range's attributes. -/
def pageMapping (s : State) (asid page : Nat) : Option (Nat × Nat) :=
  match pageRange s asid page with
  | some r => some (r.pbase + (page * 65536 - r.vbase), r.attr.toNat)
  | none => ((pageParts s asid page).head?).map fun x => (x.pa, x.leaf)

/-- The page is mapped read-only: its range entry, or every leaf of it (R303). -/
def pageReadOnly (s : State) (asid page : Nat) : Bool :=
  match pageRange s asid page with
  | some r => !(bitN r.attr.toNat 3)
  | none => (pageParts s asid page).all fun x => !(bitN x.leaf 3)

/-- The page is pinned (R305, R386). -/
def pagePinned (s : State) (asid page : Nat) : Bool :=
  match pageRange s asid page with
  | some r => bitN r.attr.toNat 10
  | none => (pageParts s asid page).any fun x => bitN x.leaf 10

/-- The page can be remapped alone: leaves of 64 KiB or 4 KiB map it. A leaf that maps more, or a range entry, cannot change
for a part of what it maps. DEDUCED, log 26. -/
def pageMovable (s : State) (asid page : Nat) : Bool :=
  (pageRange s asid page).isNone && (pageParts s asid page).all fun x => x.bits ≤ 16

/-- A task that holds its footprint in a local store has it in this page. -/
def pageFootprint (s : State) (asid page : Nat) : Bool :=
  s.tasks.any fun e => e.2.asid == asid && e.2.flen != 0 && !(isNear e.2.foot.toNat) &&
    (e.2.foot.toNat / 65536 ≤ page && page ≤ (e.2.foot.toNat + e.2.flen - 1) / 65536) && (match e.2.st with
      | .fetching _ _ _ | .running _ _ | .retiring _ _ _ => true
      | _ => false)

/-- The translations of a page leave every TLB (R156, R304). -/
def dropPage (s : State) (asid page : Nat) : State :=
  dropTranslations s fun x base bits => x == asid && base < page * 65536 + 65536 && page * 65536 < base + 2 ^ bits

/-- Those that wait for a page go on. -/
def wakePage (s : State) (asid page : Nat) : State := wakeWhere s fun _ _ w => w == .migration asid page

/-- A page leaves the lists of pages that writes wait for; the frames of its replicas are free again. -/
def unholdPage (s : State) (asid page : Nat) : State :=
  let gone := (s.replicas.filter fun r => r.asid == asid && r.page == page).flatMap fun r => r.frames.map (·.2)
  wakePage { s with
    migrations := s.migrations.filter fun m => !(m.asid == asid && m.page == page)
    replicas := s.replicas.filter fun r => !(r.asid == asid && r.page == page)
    hub := { s.hub with vacated := (s.hub.vacated ++ gone).eraseDups } } asid page

/-- Strands in WAITA with a monitor on the page wake with reason 2 (R137, R304). -/
def wakeMonitors (s : State) (asid page : Nat) : State :=
  spurious s 2 fun _ t m => m.page == page && !(isNear (page * 65536)) && asidOf s t.lid == asid

/-! ### Frames (R303) -/

/-- Physical extents below a table of a level: the tables and what their leaves map, each with log2 of its size. -/
def tableExtents (s : State) : Nat → Nat → Nat → List (Nat × Nat)
  | 0, _, _ => []
  | fuel + 1, level, table =>
    (table, 12) :: (List.range 512).flatMap fun i =>
      let e := loadPhys s (table + 8 * i) 8
      if !(bitN e 0) || !(entryFormatOk level e) then []
      else if bitN e 1 then [(leafBase level e, leafBits level e)]
      else tableExtents s fuel (level + 1) (fieldN e 12 40 * 4096)

/-- What the address spaces that have a root map: their tables, pages and range entries, in 64 KiB units for the last. -/
def mappedExtents (s : State) : List (Nat × Nat) :=
  (List.range 65536).flatMap fun asid =>
    match asidRoot s asid with
    | .ok root => tableExtents s 4 1 root ++ (loadRanges s asid).flatMap fun r =>
        (List.range ((r.vlast + 1 - r.vbase) / 65536)).map fun i => (r.pbase + 65536 * i, 16)
    | .error _ => []

/-- A 64 KiB frame is in use: a translation or a table lies in it, a migration goes to it, a replica is in it, or it holds
data that the migrator has not moved away itself. DEDUCED, log 26. -/
def frameInUse (s : State) (mapped : List (Nat × Nat)) (frame : Nat) : Bool :=
  let lo := 65536 * frame
  (mapped.any fun x => x.1 < lo + 65536 && lo < x.1 + 2 ^ x.2) ||
  (s.migrations.any fun m => m.frame == frame) || (s.replicas.any fun r => r.frames.any fun e => e.2 == frame) ||
  (!(s.hub.vacated.contains frame) && s.mem.any fun c => lo ≤ c.1 && c.1 < lo + 65536)

/-- The free ones of the 379 frames that the migrator may use in a cluster's vault. -/
def freeFrames (s : State) (mapped : List (Nat × Nat)) (c : Nat) : List Nat :=
  ((List.range 379).map (vaultBase c / 65536 + ·)).filter fun f => !(frameInUse s mapped f)

/-- The free frames of a vault without those that the decisions of a window have taken so far. DEDUCED, log 26. -/
def framesLeft (s : State) (mapped : List (Nat × Nat)) (taken : List Nat) (c : Nat) : List Nat :=
  (freeFrames s mapped c).filter fun f => !(taken.contains f)

/-- A frame that the migrator takes for a page in a vault with more than 64 of them free (R303). -/
def migrationFrame (s : State) (mapped : List (Nat × Nat)) (taken : List Nat) (c asid page : Nat) : Option Nat :=
  let free := framesLeft s mapped taken c
  if 64 < free.length then free[Config.frameChoice c (Config.draw (Config.draw s.tick asid) page) % free.length]? else none

/-! ### PAGE_MIGRATION (R304) -/

/-- A word of the 4 KiB at a physical address is reserved, or awaited by strands that have asked for it, or a write to it waits
somewhere. -/
def partReserved (s : State) (pa : Nat) : Bool :=
  s.rsvs.any fun e => (pa ≤ e.1 && e.1 < pa + 4096 && (e.2.holder.isSome || !e.2.queue.isEmpty)) ||
    e.2.writes.any fun w => pa ≤ w.pa && w.pa < pa + 4096

/-- An address of 4 KiB that have moved. -/
def moved (old new a : Nat) : Nat := if old ≤ a && a < old + 4096 then new + (a - old) else a

/-- A monitor on a line that has moved. DEDUCED, log 26. -/
def movedMonitor (old new : Nat) (m : Monitor) : Monitor := { m with line := moved old new (64 * m.line) / 64 }

/-- Those of the things noted by 256-byte blocks that remain when 4 KiB take the place of others, and those that go with
them. -/
def copiedBlocks {α : Type} (old new : Nat) (xs : List (Nat × α)) : List (Nat × α) :=
  (xs.filter fun b => !(new ≤ 256 * b.1 && 256 * b.1 < new + 4096)) ++
    (xs.filter fun b => old ≤ 256 * b.1 && 256 * b.1 < old + 4096).map fun b => (moved old new (256 * b.1) / 256, b.2)

/-- 4 KiB, with the errors in them, copied to another place, whose history is that of another page. -/
def copyPart (s : State) (old new : Nat) : State :=
  let gone (a : Nat) : Bool := new ≤ a && a < new + 4096
  let bad := s.poison.filter fun w => !(gone w)
  { s with
    mem := memPaste (memClear s.mem new 4096) new (memSlice s.mem old 4096)
    hist := s.hist.filter fun h => !(gone (4 * h.2.1))
    poison := (bad.filter fun w => old ≤ w && w < old + 4096).foldl (fun acc w => nInsert acc (moved old new w)) bad
    sectors := copiedBlocks old new s.sectors
    tolBlocks := copiedBlocks old new s.tolBlocks }

/-- A strand whose monitors, and whose wait for an entry's state, follow 4 KiB that move (R174, R304).
DEDUCED, log 26. -/
def movedStrand (old new : Nat) (t : Strand) : Strand :=
  { t with mons := t.mons.map (movedMonitor old new)
           run := (match t.run with
             | .parked (.kvEntry a) => .parked (.kvEntry (moved old new a))
             | r => r) }

/-- A core whose stalled VTKV, and the bytes that its copies have changed, follow 4 KiB that move (R246, R253). -/
def movedCore (old new : Nat) (c : Core) : Core :=
  { c with vx := { c.vx with stalled := c.vx.stalled.map (moved old new) }
           copies := tmap c.copies fun _ x => { x with old := x.old.foldl (fun t e => tset t (moved old new e.1) e.2) [] } }

/-- 4 KiB copied to another place; what waits for them or watches them follows. -/
def movePart (s0 : State) (old new : Nat) : State :=
  let s := copyPart s0 old new
  { s with
    strands := tmap s.strands fun _ t => movedStrand old new t
    cores := tmap s.cores fun _ c => movedCore old new c
    saved := tmap s.saved fun _ x => { x with strands := tmap x.strands fun _ t => movedStrand old new t
                                              cores := tmap x.cores fun _ c => movedCore old new c } }

/-- The lines of a frame leave every instruction cache: what they held of it is no longer there. DEDUCED, log 26. -/
def dropLines (s : State) (frame : Nat) : State :=
  s.clusters.foldl (fun acc c => leaveMiddle acc c.1 fun line => line / 1024 == frame) s

/-- A part of a page goes to its place in a frame, and its leaf points there (R386). -/
def movePagePart (frame : Nat) (s : State) (x : PagePart) : State :=
  let new := 65536 * frame + 4096 * x.ix
  let ppn := if x.bits = 16 then 16 * frame else 16 * frame + x.ix
  storePhys (movePart s x.pa new) none x.entry 8 (setFieldN (loadPhys s x.entry 8) 12 40 ppn)

/-- The frames that a migration leaves, and the one it takes. -/
def leaveFrames (s : State) (ps : List PagePart) (frame : Nat) : State :=
  { s with hub := { s.hub with
      vacated := (s.hub.vacated ++
        (ps.filter fun (x : PagePart) => x.bits == 16).map fun (x : PagePart) => x.pa / 65536).eraseDups.filter (· != frame) } }

/-- Steps 3 to 5: copy, remap, invalidate, lift the protection. DEDUCED, log 26. -/
def migrateNow (s : State) (asid page frame : Nat) (ps : List PagePart) : State :=
  let s2 := ps.foldl (movePagePart frame) (wakeMonitors (dropLines s frame) asid page)
  unholdPage (dropPage (leaveFrames s2 ps frame) asid page) asid page

/-- The chunks of copies in flight that hold a translation of the page: it is not remapped under them (R304, R402).
DEDUCED, log 26. -/
def pageChunks (s : State) (asid page : Nat) : List (Nat × Nat × Nat) :=
  heldChunks s fun x lo hi => x == asid && lo < page * 65536 + 65536 && page * 65536 ≤ hi

/-- PAGE_MIGRATION: atomics on the page wait from the first step on, the page is write-protected once no word of it is
reserved, and moved in a later step, to the frame that was reserved for it, once no word of its leaves is reserved. A page that
is pinned or cannot be remapped alone stays, and so does one whose frame has been taken since; a second move of a page under
migration comes to nothing (R177, R304, R305). DEDUCED, log 26. -/
def execPageMigration (asid page frame : Nat) (s : State) : Out :=
  let here (m : Migration) : Bool := m.asid == asid && m.page == page
  let ps := pageParts s asid page
  let next (s1 : State) : Out := .next (addEvent s1 (.pageMigration asid page frame))
  if ps.isEmpty || pagePinned s asid page || !(pageMovable s asid page) || pageFootprint s asid page then
    .next (unholdPage s asid page)
  else
    match s.migrations.find? here with
    | none =>
      if frameInUse s (mappedExtents s) frame then done s s
      else next { s with migrations := s.migrations ++ [⟨asid, page, frame, false⟩] }
    | some m =>
      if m.frame != frame then done s s
      else if m.began then
        if (pageChunks s asid page).isEmpty && ps.all fun x => (reservedByOther s none x.entry 8).isNone then
          .next (migrateNow s asid page m.frame ps)
        else again s (.pageMigration asid page frame)
      else if ps.any fun x => partReserved s x.pa then again s (.pageMigration asid page frame)
      else next { s with migrations := s.migrations.map fun x => if here x then { x with began := true } else x }

/-! ### Replicas (R303, R304) -/

/-- A write waits for the removal of the replicas of a page: a strand's, or perhaps an engine's or a copy's of a launch of
that address space, the write-back of a footprint, the VALID of a backfill job or an event of a record. -/
def replicaWritten (s : State) (asid page : Nat) : Bool :=
  (s.strands.any fun e => match e.2.run with
    | .parked w => w == .migration asid page
    | _ => false) ||
  (s.tasks.any fun e => e.2.asid == asid && (match e.2.st with
    | .retiring _ _ _ => true
    | _ => false)) ||
  (s.jobs.any fun e => e.2.asid == asid && e.2.running) || (s.launches.any fun e => e.2.asid == asid && !e.2.rrWait.isEmpty) ||
  s.cores.any fun e => e.2.lid != 0 && asidOf s e.2.lid == asid &&
    (e.2.mx.executing.isSome || e.2.vx.executing.isSome || !e.2.copies.isEmpty)

/-- REPLICA_REMOVAL_DONE: the replicas of a page that is to be written are gone, and its writers go on. -/
def execReplicaRemovalDone (asid page : Nat) (s : State) : Out :=
  if !(s.replicas.any fun m => m.asid == asid && m.page == page) then done s s
  else if replicaWritten s asid page then .next (unholdPage (dropPage s asid page) asid page)
  else again s (.replicaRemovalDone asid page)

/-- The frame that a replica in a cluster takes: the one decided on, or, where that is in use by now, another free one of the
vault. -/
def replicaFrame (s : State) (mapped : List (Nat × Nat)) (e : Nat × Nat) : Option Nat :=
  if frameInUse s mapped e.2 then (freeFrames s mapped e.1).head? else some e.2

/-- The mapped parts of a page copied into a frame; as physical addresses with the number of the part. -/
def fillFrame (ps : List (Nat × Nat)) (s : State) (frame : Nat) : State :=
  ps.foldl (fun acc x => copyPart acc x.2 (65536 * frame + 4096 * x.1)) s

/-- The parts of 4 KiB of a page that are mapped, by a range entry or by leaves. -/
def pagePlaces (s : State) (asid page : Nat) : List (Nat × Nat) :=
  match pageRange s asid page with
  | some r => (List.range 16).map fun i => (i, r.pbase + (page * 65536 - r.vbase) + 4096 * i)
  | none => (pageParts s asid page).map fun x => (x.ix, x.pa)

/-- A page is replicated into a frame of each cluster decided on: from now on a write to it waits. DEDUCED, log 26. -/
def replicate (s : State) (asid page : Nat) (frames : Table Nat) : State :=
  if (s.replicas.any fun m => m.asid == asid && m.page == page) || s.migrations.any fun m => m.asid == asid && m.page == page
  then s
  else
    let mapped := mappedExtents s
    let fs := frames.filterMap fun e => (replicaFrame s mapped e).map fun f => (e.1, f)
    let s1 := (fs.map (·.2)).foldl (fillFrame (pagePlaces s asid page)) s
    addEvent (dropPage (wakeMonitors { s1 with replicas := s1.replicas ++ [⟨asid, page, fs⟩] } asid page) asid page)
      (.replicaRemovalDone asid page)

/-! ### MIGRATION_WINDOW (R302, R303) -/

/-- The counts of a page by cluster, and whether any of them wrote. -/
def pageCounts (s : State) (asid page : Nat) : List (Nat × Nat × Bool) :=
  s.clusters.filterMap fun c => (c.2.pmc.find? fun x => x.asid == asid && x.page == page).map fun x =>
    (c.1, x.count, x.wrote)

/-- The pages reported. -/
def pagesReported (s : State) : List (Nat × Nat) :=
  (s.clusters.flatMap fun c => c.2.pmc.map fun x => (x.asid, x.page)).eraseDups

/-- Die boundaries crossed between clusters (R281). -/
def dieHops (a b : Nat) : Nat :=
  let x (c : Nat) : Nat := c / 128 % 4
  let y (c : Nat) : Nat := c / 128 / 4
  (x a - x b) + (x b - x a) + (y a - y b) + (y b - y a)

/-- The home of a physical address (R303): a vault's cluster, or the cluster that a pool port is attached to (R429). -/
inductive PageHome where
  | vault (c : Nat)
  | pool (at72 : Nat)
deriving DecidableEq, Repr

/-- The home of a page by its physical address. -/
def pageHome (s : State) (pa : Nat) : Option PageHome :=
  match placeOf s pa with
  | .vault c _ => some (.vault c)
  | .pool off => (poolPort s off).map fun j => .pool (128 * j + 72)
  | _ => none

/-- The typical latency from a cluster to a home (R281). -/
def latency (x : Nat) (h : PageHome) : Nat :=
  match h with
  | .vault c => 40 + 3 * hops x c + 60 * dieHops x c
  | .pool c => 800 + 3 * hops x c + 60 * dieHops x c

/-- The cluster of a vault's home. -/
def PageHome.vaultOf : PageHome → Option Nat
  | .vault c => some c
  | .pool _ => none

/-- The cluster on whose mesh node a home's traffic ends. -/
def PageHome.node : PageHome → Nat
  | .vault c => c
  | .pool c => c

/-- The cluster other than the home with the greatest count, the lowest number on a tie. -/
def busiest (cs : List (Nat × Nat × Bool)) (h : PageHome) : Option Nat :=
  ((cs.filter fun c => h.vaultOf != some c.1).foldl (fun (best : Option (Nat × Nat)) c =>
    match best with
    | some (d, n) => if n < c.2.1 then some (c.1, c.2.1) else some (d, n)
    | none => some (c.1, c.2.1)) none).map (·.1)

/-- G of R303: what a move to `d` gains. -/
def moveGain (cs : List (Nat × Nat × Bool)) (h : PageHome) (d : Nat) : Int :=
  (cs.map fun c => (c.2.1 : Int) * ((latency c.1 h : Int) - latency c.1 (.vault d))).sum

/-- G > M, with Q in 256ths of an entry. DEDUCED, log 26. -/
def worthMoving (s : State) (cs : List (Nat × Nat × Bool)) (h : PageHome) (d : Nat) : Bool :=
  let q := Nat.min 2048 (Config.linkOccupancy h.node d s.cycle)
  decide ((4096 * (512 + q) : Int) < 512 * moveGain cs h d)

/-- The decision for one page (R303). -/
def decidePage (s : State) (mapped : List (Nat × Nat)) (taken : List Nat) (e : Nat × Nat) : Option Decision :=
  let (asid, page) := e
  match pageMapping s asid page with
  | none => none
  | some (pa, _) =>
    match pageHome s pa with
    | none => none
    | some h =>
      let cs := pageCounts s asid page
      let sites := cs.filter fun c =>
        h.vaultOf != some c.1 && 512 ≤ c.2.1 && decide (64 < (framesLeft s mapped taken c.1).length)
      if pagePinned s asid page then none
      else if !(cs.any (·.2.2)) && pageReadOnly s asid page && 2 ≤ sites.length then
        some (.replicate asid page (sites.filterMap fun c => (migrationFrame s mapped taken c.1 asid page).map fun f => (c.1, f)))
      else
        match busiest cs h with
        | none => none
        | some d =>
          match migrationFrame s mapped taken d asid page with
          | some f => if worthMoving s cs h d then some (.move asid page f) else none
          | none => none

/-- The frames that a decision takes. -/
def Decision.frames (d : Decision) : List Nat := match d with
  | .move _ _ f => [f]
  | .replicate _ _ fs => fs.map (·.2)

/-- The decisions for a list of pages in turn, no frame of which serves two. DEDUCED, log 26. -/
def decidePages (s : State) (mapped : List (Nat × Nat)) (es : List (Nat × Nat)) : List Decision :=
  es.foldl (fun ds e => ds ++ (decidePage s mapped (ds.flatMap (·.frames)) e).toList) []

/-- A decision applied: a page moves by an event of its own. -/
def applyDecision (s : State) (d : Decision) : State :=
  match d with
  | .move asid page frame => addEvent s (.pageMigration asid page frame)
  | .replicate asid page frames => replicate s asid page frames

/-- The counters that clusters report at the end of a window (R302). -/
def counterNotices (s : State) : List Notice :=
  (s.clusters.filter fun c => !c.2.pmc.isEmpty).map fun c => .counters c.1 c.2.pmc

/-- MIGRATION_WINDOW: the clusters report and clear their counters, and the migrator decides for each page. In override mode
Worash receives the decisions, and only what it returns is applied (R305). -/
def execMigrationWindow (s : State) : Out :=
  let mapped := mappedExtents s
  let ds := decidePages s mapped (pagesReported s)
  let s1 := { s with clusters := tmap s.clusters fun _ c => { c with pmc := [] }
                     told := s.told ++ counterNotices s }
  if s.hub.override then
    .next { s1 with hub := { s.hub with decisions := s.hub.decisions ++ ds }, told := s1.told ++ [.decisions ds] }
  else done s (ds.foldl applyDecision s1)

/-! ### Vault rows (R437) -/

/-- VAULT_ROW_RETIRE: a row goes onto a spare row with its content, and the monitors on it wake with reason 5; with no
spare left it is marked failed and stays in service. -/
def execVaultRowRetire (vault row : Nat) (s : State) : Out :=
  if 2048 ≤ vault || 12288 ≤ row then .next s
  else
    let used := tgetD s.hub.spareRows vault 0
    if 64 ≤ used then
      if s.hub.failedRows.contains (vault, row) then .next s
      else .next { s with hub := { s.hub with failedRows := s.hub.failedRows ++ [(vault, row)] }
                          told := s.told ++ [.rowFailed vault row] }
    else
      let lo := vaultBase vault + 2048 * row
      let s1 := { s with hub := { s.hub with spareRows := tset s.hub.spareRows vault (used + 1) } }
      .next { (spurious s1 5 fun _ _ m => lo / 64 ≤ m.line && m.line < lo / 64 + 32) with hub := s1.hub }

end Sys2Proof.Machine
end

