-- ==== Sys2Proof/Machine/Input.lean ====
section
/-!
DEFINITION. What reaches the module from outside its instruction set: the management host, Worash and the firmware, the
user of kydb, errors in the silicon (spec/08 R275; spec/10 R305; spec/12 R328; spec/18 R416; spec/19 R430-R433, R437, R439).
-/

namespace Sys2Proof.Machine

/-! ### The management host (R430) -/

/-- The registers that the management host may write: CKPT, PCAP and ATTREQ. -/
def hostMayWrite (off : Nat) : Bool := off == 0x4010 || off == 0x5100 || off == 0x5200

/-- A write of the management host is the event that any write of the register is; to another register it is discarded. -/
def hostWrite (off : Nat) (v : BitVec 64) (s : State) : State :=
  if hostMayWrite off then addEvent s (deviceEvent off v.toNat) else s

/-- A write to a register that the host may write is under way. -/
def hostWritePending (s : State) : Bool :=
  s.agenda.any fun e => match e with
    | .pcapWrite _ | .attreq _ | .ckptSramImage _ | .ckptWholeDeviceImage _ | .ckptRestore _ => true
    | .deviceRegisterWrite off _ => hostMayWrite off
    | _ => false

/-- A read of the management host: every register, as a strand would read it, in order behind the host's own writes
(R427). -/
def hostRead (off : Nat) (s : State) : State :=
  if hostWritePending s then { s with inputs := .hostRead off :: s.inputs }
  else
    let (s1, v) := deviceRead s off
    { s1 with told := s1.told ++ [.hostRead off (word v)] }

/-- The 8 bytes of the message area at an offset. -/
def bar2At (s : State) (off : Nat) : BitVec 64 := tgetD s.hub.bar2 (off / 8 * 8) 0

/-- A write to the message area, by the host or by Worash (R430). -/
def bar2Put (off : Nat) (v : BitVec 64) (s : State) : State :=
  if off < 65536 then { s with hub := { s.hub with bar2 := tset s.hub.bar2 (off / 8 * 8) v } } else s

/-- The host is told what the message area holds. -/
def bar2Read (off : Nat) (s : State) : State :=
  if off < 65536 then { s with told := s.told ++ [.message off (bar2At s off)] } else s

/-- Worash, which serves the message area, is told what it holds. -/
def bar2Serve (off : Nat) (s : State) : State :=
  if off < 65536 then { s with told := s.told ++ [.served off (bar2At s off)] } else s

/-! ### The firmware and Worash -/

/-- Firmware extends registers 4-7 through the root of trust (R433). -/
def extendReg (reg : Nat) (d : BitVec 256) (s : State) : State :=
  if 4 ≤ reg && reg < 8 then
    { s with hub := { s.hub with meas := tset s.hub.meas reg (extended (tgetD s.hub.meas reg 0) d) } }
  else s

/-- The physical core that the default mapping gives a logical core: active core k = c of the cluster at the same place, for
its peer number c (R439). -/
def defaultCore (l : Nat) : Nat := 33 * logCluster l + (logX l % 4 + 4 * (logY l % 8))

/-- The entry of the default core table (R413, R439). -/
def defaultEntry (l : Nat) : Nat := 2 ^ 31 + defaultCore l

/-- Firmware writes the core table at boot and names it in a context (R412, R439). -/
def writeCoreTable (ctx addr : Nat) (s : State) : State :=
  let base := addr / 4 * 4
  let s1 := (List.range 65536).foldl (fun acc l => agentWrite acc hubWriter (base + 4 * l) 4 (defaultEntry l)) s
  setDev s1 (0x1000 + 32 * ctx) (word base)

/-- A physical core is free: it is no part of a launch, and has not been retired. -/
def coreFree (s : State) (p : Nat) : Bool := (coreAt s p).lid == 0 && !(s.hub.faulty.contains (.core p))

/-- An entry of a context's core table names a physical core. -/
def coreNamed (s : State) (ctx p : Nat) : Bool := (List.range 65536).any fun l => coreTabEntry s ctx l == 2 ^ 31 + p

/-- A greyed-out launch that waits for the rewriting of the entry of logical core `l` has another entry that names a physical
core: the core is not free for it (R414, R416). DEDUCED, log 54. -/
def coreTaken (s : State) (ctx l p : Nat) : Bool :=
  s.saved.any fun e => e.2.launch.ctx == ctx && (launchCores e.2.launch).contains l &&
    (launchCores e.2.launch).any fun m => m != l && coreTabEntry s ctx m == 2 ^ 31 + p

/-- The core that takes the place of a retired one in the entry of a logical core: the spare of its cluster, or, where that
is in use, any free one (R416). DEDUCED, log 54. -/
def replacement (s : State) (ctx l p : Nat) : Option Nat :=
  let spare := 33 * clusterOf p + 32
  if coreFree s spare && !(coreNamed s ctx spare) then some spare
  else
    let free := (List.range Config.physicalCores).filter fun q => coreFree s q && !(coreTaken s ctx l q)
    free[freeNat s 28 p free.length]?

/-- The launches that waited for a core and have one again return to their queues (R416). -/
def requeueReady (old s : State) : State :=
  s.saved.foldl (fun acc e =>
    if waitsForCore old e.1 e.2 && (faultyCores acc e.2.launch).isEmpty then requeue acc e.2.launch e.1 else acc) s

/-- Worash rewrites an entry of a context's core table that names a lasting-faulty core, once no launch holds the core, and
the launches greyed out for it may return. With no core left the entry stays, and so do they, and Worash reports the spares
exhausted (R416). -/
def retireCore (ctx l : Nat) (s : State) : State :=
  let e := coreTabEntry s ctx l
  let p := fieldN e 0 17
  if !(bitN e 31) || !(s.hub.faulty.contains (.core p)) then s
  else if (coreAt s p).lid != 0 then { s with inputs := s.inputs ++ [.retireCore ctx l] }
  else
    match replacement s ctx l p with
    | some q => requeueReady s (agentWrite s rootWriter (devReg s (0x1000 + 32 * ctx) / 4 * 4 + 4 * l) 4 (2 ^ 31 + q))
    | none => { s with told := s.told ++ [.sparesExhausted ctx l] }

/-- Worash is to rewrite every entry that names a core (R416). -/
def askForCore (s : State) (p : Nat) : State :=
  let named := (List.range 16).flatMap fun ctx => (List.range 65536).filterMap fun l =>
    if coreTabEntry s ctx l = 2 ^ 31 + p then some (Input.retireCore ctx l) else none
  { s with inputs := s.inputs ++ named.filter fun i => !(s.inputs.contains i) }

/-- Worash returns decisions in place of those it has received: they are applied, and no others (R305). -/
def takeDecisions (ds : List Decision) (s : State) : State :=
  ds.foldl applyDecision { s with hub := { s.hub with decisions := [] } }

/-! ### Errors (R403, R437) -/

/-- The unit that an error counts for: a row's count for its vault (R437). DEDUCED, log 54. -/
def countedUnit (u : FaultUnit) : FaultUnit :=
  match u with
  | .vaultRow c _ => .vault c
  | u => u

/-- A vault's row goes onto a spare row, and the vault counts from 0 again. DEDUCED, log 54. -/
def retireRow (s : State) (c row : Nat) : State :=
  addEvent { s with hub := { s.hub with errors := s.hub.errors.filter fun e => e.1 != .vault c } } (.vaultRowRetire c row)

/-- The errors of a unit that lie in the window of CEWIN. -/
def recentErrors (s : State) (u : FaultUnit) : Nat :=
  (s.hub.errors.filter fun e => e.1 == u && s.cycle < e.2 + fieldN (devReg s 0x4000) 0 32 * 2 ^ 20).length

/-- CETHR (R427). -/
def errorThreshold (s : State) : Nat := fieldN (devReg s 0x4000) 32 16

/-- A unit is lasting-faulty: Worash is told, and the unit is retired in service. Of a vault the row whose error it was goes
onto a spare row, one that is open where none is named; a lane is dropped, and a core, a port or a device is retired by Worash
(R416, R429, R437). DEDUCED, log 54. -/
def declareFaulty (s : State) (u : FaultUnit) : State :=
  let s := { s with told := s.told ++ [Notice.faulty (countedUnit u)] }
  match u with
  | .vaultRow c row => retireRow s c row
  | .vault c => retireRow s c (freeNat s 37 c 12288)
  | .lane i => { s with hub := { s.hub with lanesLost := s.hub.lanesLost ++ [i], faulty := s.hub.faulty ++ [u] } }
  | .core p =>
    let s := askForCore { s with hub := { s.hub with faulty := s.hub.faulty ++ [u] } } p
    if (coreAt s p).lid != 0 then keepOnce s (.greyOut (coreAt s p).lid) else s
  | _ => { s with hub := { s.hub with faulty := s.hub.faulty ++ [u] } }

/-- An error is counted for its unit, an uncorrectable one as CETHR + 1; a count above CETHR makes the unit lasting-faulty
(R437). -/
def countError (u : FaultUnit) (uncorrectable : Bool) (s : State) : State :=
  let n := if uncorrectable then errorThreshold s + 1 else 1
  let s1 := { s with hub := { s.hub with errors := s.hub.errors ++ List.replicate n (countedUnit u, s.cycle) } }
  if errorThreshold s < recentErrors s1 (countedUnit u) && !(s.hub.faulty.contains u) then declareFaulty s1 u else s1

/-- The unit that a byte of memory lies in; a hole and the device window are the hub's. -/
def unitOf (s : State) (pa : Nat) : FaultUnit :=
  match placeOf s pa with
  | .ls p _ => .core p
  | .vault c off => .vaultRow c (off / 2048)
  | .pool off => ((poolPort s off).map FaultUnit.poolDevice).getD .hub
  | _ => .hub

/-- A word of memory takes an uncorrectable error. -/
def badWord (w : Nat) (s : State) : State :=
  countError (unitOf s (w / 8 * 8)) true { s with poison := nInsert s.poison (w / 8 * 8) }

/-- The stored form of a compressed block changes: its metadata and sectors are these from now on. Where the decoder cannot
rebuild the block, that is an uncorrectable error; otherwise the block holds what the decoder rebuilds (R293-R296).
DEDUCED, log 42. -/
def badBlock (b kind : Nat) (sectors : BitVec 2048) (s : State) : State :=
  match blockDecode kind sectors.toNat with
  | some v => storePhys s none (256 * b) 256 v
  | none => countError (unitOf s (256 * b)) true { s with sectors := s.sectors.filter (·.1 != b) ++ [(b, kind, sectors)] }

/-- A row of a bank takes an uncorrectable error. -/
def badRow (p bank row : Nat) (s : State) : State :=
  countError (.core p) true (modCore s p fun c => { c with badRows := c.badRows ++ [(bank, row)] })

/-- A slot of the table store takes an uncorrectable error. -/
def badSlot (p slot : Nat) (s : State) : State :=
  countError (.core p) true (modCore s p fun c => { c with badSlots := nInsert c.badSlots slot })

/-! ### Inputs -/

/-- An input that reaches a module whose firmware has not started: the boot flash, BAR0 and errors; no software runs and no
debugger is attached (R432). -/
def beforeBoot (i : Input) : Bool :=
  match i with
  | .hostWrite _ _ | .hostRead _ | .flash _ _ | .error _ _ | .badWord _ | .badBlock _ _ _ | .badRow _ _ _ | .badSlot _ _ => true
  | _ => false

/-- What an input does. DESIGN CHOICE, log 44. -/
def applyInput (i : Input) (s : State) : State :=
  match i with
  | .hostWrite off v => hostWrite off v s
  | .hostRead off => hostRead off s
  | .message off v => bar2Put off v s
  | .messageRead off => bar2Read off s
  | .serve off => bar2Serve off s
  | .answer off v => bar2Put off v s
  | .hubCore i c => if i < 16 then { s with hub := { s.hub with appCores := tset s.hub.appCores i c } } else s
  | .extend reg d => extendReg reg d s
  | .coreTable ctx addr => if ctx < 16 then writeCoreTable ctx addr s else s
  | .forward dest dir => { s with hub := { s.hub with forwards := tset s.hub.forwards dest dir } }
  | .flash b x => { s with hub := if b then { s.hub with flashB := x } else { s.hub with flashA := x } }
  | .error u uncorrectable => countError u uncorrectable s
  | .badWord w => badWord w s
  | .badBlock b kind sectors => badBlock b kind sectors s
  | .badRow p bank row => badRow p bank row s
  | .badSlot p slot => badSlot p slot s
  | .setBreak b => { s with breaks := s.breaks.filter (· != b) ++ [b] }
  | .clearBreak b => { s with breaks := s.breaks.filter (· != b) }
  | .attach on => { s with kydb := true, breaksOn := on }
  | .detach => { s with kydb := false, breaksOn := false, breaks := [] }
  | .override on => { s with hub := { s.hub with override := on } }
  | .decide ds => takeDecisions ds s
  | .hubStore pa n v => agentWrite s rootWriter pa n v
  | .retireCore ctx l => retireCore ctx l s

/-- The oldest input is taken; in recovery those that need running software come to nothing. -/
def takeInput (i : Input) (rest : List Input) (s : State) : State :=
  let s := { s with inputs := rest }
  if s.hub.recovery && !(beforeBoot i) then s else applyInput i s

end Sys2Proof.Machine
end

