-- ==== Sys2Proof/Machine/Atomics.lean ====
section
/-!
DEFINITION. The reservation queue of a word and the instructions that join it: RSV, REL, FAA, SWP, CAS, with the
grant and the hold limit (spec/05 R177-R181; spec/17 R387).
-/

namespace Sys2Proof.Machine

/-- The log's operation for a word's grants, which follow the order of joining (R177, R355). -/
def grantOp : Nat := 0x10

/-- The state of a word's queue for the strand that issues: the word is on its way to it, or it waits. -/
inductive Claim where
  | mine (s : State)
  | wait (s : State)

/-- The strand that issues joins the queue of a word: an idle word is forwarded at once (R177). -/
def claimWord (s : State) (w : Nat) : Claim :=
  let k := s.cur
  let t := curStrand s
  match tget s.rsvs w with
  | none =>
    match rrAllow s t.lid grantOp (wordPlace s t.lid w) (senderWord s t.lid (curP s) (curSlot s) 0) with
    | some s' =>
      .mine { rrRecord s' grantOp (wordPlace s t.lid w) 0 0 with
                rsvs := tset s'.rsvs w { holder := some k, granted := s.cycle, forwarded := true, queue := [], writes := [] } }
    | none => .wait s
  | some r =>
    if r.holder = some k && r.forwarded then .mine s
    else if r.queue.contains k then .wait s
    else
      match rrAllow s t.lid grantOp (wordPlace s t.lid w) (senderWord s t.lid (curP s) (curSlot s) 0) with
      | some s' =>
        .wait { rrRecord s' grantOp (wordPlace s t.lid w) 0 0 with rsvs := tset s'.rsvs w { r with queue := r.queue ++ [k] } }
      | none => .wait s

/-- The word on its way to the strand that issues, or a park that keeps its place in the queue. -/
def withWord (s : State) (w : Nat) (body : State → Res State) : Res State :=
  match claimWord s w with
  | .mine s' => body s'
  | .wait s' =>
    if (tget s'.rsvs w).any (fun r => r.queue.contains s'.cur) then .error (.park (.reservation w) (some s'))
    else .error (.park (.replay (curStrand s').lid) (some s'))

/-- The frame of the reservation forms: one uniform 8-byte word, found and readable. `s0` is the state without the
reading of the sources. -/
def atomicAt (s0 : State) (accs : List Access) (ea : Nat) : Res (State × Touch) := do
  let (s1, ts) ← checkAll s0 s0 .atomic accs 8 1 [(0, ea)]
  readable s1 ts 8
  match ts with
  | t :: _ => .ok (s1, t)
  | [] => trapNow cPROTECT ea

/-- RSV (R178): a holder may not reserve another word; a fit that traps lets the word go on. -/
def execRsv (g : Guard) (d a : NameIx) (i : Imm 9) (s : State) : Out :=
  uniformOp s g false true [d] [a] (fun ds is => allInt is && ds.all fun x => sizeOk x 8) fun s' ds xs => do
    if (curStrand s').holds.isSome then illegal s
    else
      unlocked s' ds
      let ea := immAddr 8 i xs 0
      let (s1, t) ← atomicAt s [.read] ea
      let w := touchWord t
      withWord s1 w fun s2 => do
        let k := s2.cur
        let at' := (tgetD s2.rsvs w
          { holder := none, granted := s2.cycle, forwarded := true, queue := [], writes := [] }).granted
        let old := loadPhys s2 w 8
        match loadFit (nthD ds 0) 8 old with
        | .error e => .error (.trap e.1 e.2 (some (releaseWord s2 w)))
        | .ok r => do
          let (s3, _) ← readSrcs s2 [(nth xs 0).info] []
          let s4 ← writeOne s3 (nthD ds 0) (.ok r)
          let s5 := { s4 with rsvs := tmap s4.rsvs fun x q => if x = w then { q with forwarded := false } else q }
          let s6 := setCur (countTouch s5 t false) fun t => { t with holds := some (w, BitVec.ofNat 48 ea, at') }
          endAccess s (addEvent (progressCur s6) (.rsvholdTimeout k w at')) (!(isOwn ea))

/-- REL (R179): writes the reserved word and lets it go on; a release. -/
def execRel (g : Guard) (d a : NameIx) (i : Imm 9) (s : State) : Out :=
  uniformOp s g false true [] [d, a] (fun _ is => allInt (is.drop 1) && (is.take 1).all fun x => sizeOk x 8) fun s' _ xs => do
    let ea := immAddr 8 i (xs.drop 1) 0
    match (curStrand s').holds with
    | none => illegal s
    | some h => do
      let (s1, ts) ← checkAll s s' .atomic [.write] 8 1 [(0, ea)]
      match ts with
      | ⟨_, _, .mem pa leaf⟩ :: _ =>
        if pa != h.1 then illegal s
        else do
          stateGuard s1 8 ts
          match storeFit 8 (nth xs 0) 0 with
          | .error e => trapNow e.1 e.2
          | .ok (v, fl) => do
            let s2 ← release s1
            let s3 := storePhys (countTouch s2 ⟨0, ea, .mem pa leaf⟩ true) (some s2.cur) pa 8 v
            let s4 := releaseWord (setCur s3 fun t => setFlags { t with holds := none } fl) pa
            endAccess s s4 (!(isOwn ea))
      | _ => trapNow cPROTECT ea

/-- The old word fitted to ND: read as signed if ND is signed, as unsigned otherwise (R181). DEDUCED, log 40. -/
def oldFit (di : NameInfo) (old : Nat) : LaneRes :=
  if 2 ≤ di.ty then fitEither di old else loadFit di 8 old

/-- The frame of FAA, SWP and CAS: the word is held for one read-modify-write, then ND is fitted; a WIDTH trap leaves
the update standing (R181). `new` gives what the word becomes. -/
def rmw (s : State) (g : Guard) (d a b : NameIx) (readsD : Bool) (new : Nat → List Src → Nat) : Out :=
  uniformOp s g false true [d] (if readsD then [a, b, d] else [a, b])
    (fun ds is => allInt (is.take 2) && (!readsD || ds.all readDst)) fun _ ds xs => do
    unlocked s ds
    let ea := eaOf ((nth xs 0).pat 0) 0
    let (s1, t) ← atomicAt s [.read, .write] ea
    stateGuard s1 8 [t]
    match t.tgt with
    | .mem w _ =>
      withWord s1 w fun s2 => do
        let s3 ← release s2
        let old := loadPhys s3 w 8
        let s4 := releaseWord (storePhys (countTouch s3 t true) (some s3.cur) w 8 (new old xs)) w
        let di := nthD ds 0
        match oldFit di old with
        | .error _ => .error (.trap cWIDTH old (some s4))
        | .ok r => do
          let (s5, _) ← readSrcs s4 (xs.map (·.info)) []
          let s6 ← writeOne s5 di (.ok r)
          endAccess s s6 (!(isOwn ea))
    | _ => trapNow cPROTECT ea

/-- FAA: the sum mod 2^64 (R181). -/
def execFaa (g : Guard) (d a b : NameIx) (s : State) : Out :=
  rmw s g d a b false fun old xs => zpat ((old : Int) + (nth xs 1).int 0) 64

/-- SWP (R181). -/
def execSwp (g : Guard) (d a b : NameIx) (s : State) : Out :=
  rmw s g d a b false fun _ xs => zpat ((nth xs 1).int 0) 64

/-- CAS: ND is read as the expected value (R86, R181). One whose compare fails writes the old value back, and its write
fires monitors like any other (R134 does not say). DESIGN CHOICE, log 51. -/
def execCas (g : Guard) (d a b : NameIx) (s : State) : Out :=
  rmw s g d a b true fun old xs => if srcWord s (nth xs 2) = old then zpat ((nth xs 1).int 0) 64 else old

/-- RESERVATION_GRANT: the word is forwarded to the requester at the head of its queue (R177). -/
def execReservationGrant (w : Nat) (s : State) : Out :=
  match tget s.rsvs w with
  | some r =>
    if r.holder.isSome then done s s
    else
      match r.queue with
      | k :: q =>
        let r1 : Rsv := { holder := some k, granted := s.cycle, forwarded := true, queue := q, writes := [] }
        done s (wake { s with rsvs := tset s.rsvs w r1 } k)
      | [] => done s { s with rsvs := tdel s.rsvs w }
  | none => done s s

/-- RSVHOLD_TIMEOUT: a reservation held for 4,096 cycles from its grant raises RSVHOLD on its holder, which is woken
unless it is parked on a page fault (R180). -/
def execRsvholdTimeout (k w granted : Nat) (s : State) : Out :=
  if s.cycle < granted + 4096 then
    (if ((tget s.strands k).bind (·.holds)).any fun h => h.1 == w && h.2.2 == granted
     then again s (.rsvholdTimeout k w granted) else done s s)
  else
    match tget s.strands k with
    | some t =>
      match t.holds with
      | some h =>
        if h.1 = w && h.2.2 = granted then done s (oweTrap s k cRSVHOLD (BitVec.setWidth 64 h.2.1))
        else done s s
      | none => done s s
    | none => done s s

end Sys2Proof.Machine
end

