-- ==== Sys2Proof/Machine/Control.lean ====
section
/-!
DEFINITION. Branches and calls, opcodes 0x38-0x3F (spec/04 R119-R123; spec/01 R26).
-/

namespace Sys2Proof.Machine

/-- The target of a B-format instruction: the address of the instruction, or of its LIMM, plus four times the
displacement, mod 2^48 (R55, R119). -/
def branchTarget (pc : BitVec 48) (i : Imm 21) : BitVec 48 := pc + BitVec.ofInt 48 (4 * immSigned i)

/-- BR (R120). -/
def execBr (g : Guard) (i : Imm 21) (s : State) : Out :=
  gated s .uniform g true false fun _ => .ok (jump s (branchTarget (curStrand s).pc i))

/-- The strand's link name: index 63 under an ordinary map, index COUNT under a roam map, declared with
kind 6 (R26). -/
def linkName (t : Strand) : Option NameInfo :=
  let ix : Nat := if bitN t.map.header.toNat 33 then t.map.entries.length else 63
  match nameInfo t.map (BitVec.ofNat 6 ix) with
  | some i => if i.kind = 6 then some i else none
  | none => none

/-- Write the link with the address of the next instruction and go to a target (R120). -/
def linkTo (s : State) (li : NameInfo) (target : BitVec 48) : Res State := do
  let ret := nextPc s (curStrand s)
  let s' ← writeDst s li [0] fun _ => ret.toNat
  .ok (jump s' target)

/-- CALL (R120). -/
def execCall (g : Guard) (i : Imm 21) (s : State) : Out :=
  let t := curStrand s
  match linkName t with
  | some li => gated s .uniform g true false fun _ => linkTo s li (branchTarget t.pc i)
  | none => gated s .uniform g false false fun _ => illegal s

/-- A jump target may come from a uniform integer name of kind 0 or 6, or index 0 (R119). -/
def targetName (is : List NameInfo) : Bool :=
  is.all fun i => i.isInt && (i.kind == 0 || i.kind == 6 || i.kind == 8)

/-- A named target, unless it is misaligned (R51, R119, R120). -/
def namedTarget (x : Src) : Res (BitVec 48) :=
  let v := x.pat 0 % 2 ^ 48
  if v % 4 = 0 then .ok (BitVec.ofNat 48 v) else trapNow cALIGN v

/-- JR (R120). -/
def execJr (g : Guard) (a : NameIx) (s : State) : Out :=
  uniformOp s g false true [] [a] (fun _ is => targetName is) fun s' _ xs => do
    let pc ← namedTarget (nth xs 0)
    .ok (jump s' pc)

/-- CALLR reads its target before it writes the link (R120). -/
def execCallr (g : Guard) (a : NameIx) (s : State) : Out :=
  match linkName (curStrand s) with
  | some li =>
    uniformOp s g false true [] [a] (fun _ is => targetName is) fun s' _ xs => do
      let pc ← namedTarget (nth xs 0)
      linkTo s' li pc
  | none => gated s .uniform g false false fun _ => illegal s

/-- LOOP: the counter less 1 is fitted by its mode, and a counter not 0 then branches back (R121). -/
def execLoop (g : Guard) (d : NameIx) (i : Imm 9) (s : State) : Out :=
  uniformOp s g false true [d] [d] (fun ds _ => ds.all fun x => x.kind == 0 && x.isInt) fun s' ds xs => do
    let di := nthD ds 0
    let r := fitDecl di ((nth xs 0).int 0 - 1)
    let s'' ← writeOne s' di r
    match r with
    | .ok (v, _) =>
      if v = 0 then .ok (advance s'')
      else .ok (jump s'' ((curStrand s).pc - BitVec.ofNat 48 (4 * immUnsigned i)))
    | .error e => trapNow e.1 e.2

/-- BRANY and BRALL change only the PC; the lanes of E whose guard is true decide (R122). -/
def laneBranch (s : State) (g : Guard) (i : Imm 21) (taken : List Nat → List Nat → Bool) : Out :=
  let t := curStrand s
  gated s .lane g true false fun lanes =>
    if taken (presentLanes t) lanes then .ok (jump s (branchTarget t.pc i)) else .ok (advance s)

/-- BRANY: some present lane's guard is true (R122). -/
def execBrany (g : Guard) (i : Imm 21) (s : State) : Out := laneBranch s g i fun _ on => !on.isEmpty

/-- BRALL: every present lane's guard is true (R122). -/
def execBrall (g : Guard) (i : Imm 21) (s : State) : Out := laneBranch s g i fun e on => on.length == e.length

/-- IPF never traps or parks after its static checks (R123). -/
def execIpf (g : Guard) (i : Imm 21) (s : State) : Out :=
  gated s .uniform g true false fun _ =>
    .ok (advance (prefetchInto true s (branchTarget (curStrand s).pc i).toNat))

end Sys2Proof.Machine
end

