-- ==== Sys2Proof/Machine/Faults.lean ====
section
/-!
DEFINITION. The fault queues: posting, replies and the head (spec/17 R395-R401; spec/19 R427).
-/

namespace Sys2Proof.Machine

/-- FAULT_QUEUE_POST: the oldest entry that waits is written, once the queue of 256 has room (R397). -/
def execFaultQueuePost (c : Nat) (s : State) : Out :=
  let x := clusterAt s c
  match x.fqWait with
  | [] => done s s
  | e :: r =>
    if 256 ≤ x.fqCount then again s (.faultQueuePost c)
    else done s (setCluster s c { x with fq := tset x.fq x.fqTail.toNat e, fqTail := x.fqTail + 1,
                                         fqCount := x.fqCount + 1, fqWait := r })

/-- FQHEAD_WRITE: the head advances over entries that have been read (R427). -/
def execFqheadWrite (c : Nat) (v : BitVec 64) (s : State) : Out :=
  let x := clusterAt s c
  let h := BitVec.setWidth 8 v
  done s (setCluster s c { x with fqHead := h, fqCount := x.fqCount - (h - x.fqHead).toNat })

/-! ### Replies (R398) -/

/-- A strand parked on a fault rejoins rotation and reissues (R395). -/
def replyStrand (s : State) (k : Nat) : State :=
  match (strandAt s k).run with
  | .parked (.fault _ _) => wake s k
  | _ => s

/-- Footprints of a cluster's dispatcher that wait for a translation on a core go on (R349). -/
def replyDispatcher (s : State) (c lid p : Nat) : State :=
  s.tasks.foldl (fun acc e =>
    if e.2.lid = lid && e.2.home == c && e.2.fault.isSome then
      match e.2.st with
      | .fetching q _ _ => if q = p then keepOnce acc (.footprintFetchDone e.1) else acc
      | .retiring q _ _ => if q = p then keepOnce acc (.taskRetire e.1) else acc
      | _ => acc
    else acc) s

/-- Jobs of a cluster that wait for a translation go on where they stopped (R375). -/
def replyJobs (s : State) (c lid p : Nat) : State :=
  s.jobs.foldl (fun acc e =>
    if e.2.lid = lid && e.2.cluster == c && e.2.p == p && e.2.fault then
      keepOnce (setJob acc e.1 { e.2 with fault := false })
        (if e.2.task.isSome then .backfillLayerDone e.1 else .backfillJobStart c)
    else acc) s

/-- The agent that bytes 8-15 of an entry name, on its physical core (R397, R398). -/
def replyTo (s : State) (c lid p unit slot : Nat) : State :=
  match unit with
  | 0 => replyStrand s (16 * p + slot)
  | 1 => resumeEngine s p 0
  | 2 => resumeEngine s p 1
  | 3 => resumeCopies s p fun x => x.slot == slot && x.lid == lid
  | 4 => replyDispatcher s c lid p
  | 5 => replyJobs s c lid p
  | _ => s

/-- FREPLY (R398): no effect where the agent no longer waits. -/
def execFreply (c : Nat) (v : BitVec 64) (s : State) : Out :=
  let lid := fieldN v.toNat 16 16
  match corePhys s lid (fieldN v.toNat 32 16) with
  | some p => done s (replyTo s c lid p (fieldN v.toNat 52 3) (fieldN v.toNat 48 4))
  | none => done s s

end Sys2Proof.Machine
end

