-- ==== Sys2Proof/Machine/FloatArith.lean ====
section
/-!
DEFINITION. Floating point, opcodes 0x20-0x28 (spec/03 R92-R102).
-/

namespace Sys2Proof.Machine

/-- Every name is of floating-point type, or index 0 (R85). -/
def allFp (is : List NameInfo) : Bool := is.all (·.isFp)

/-- An exact result with its invalid flag, fitted to nearest even (R92, R95). -/
def fpFit (di : NameInfo) (mode : Nat) (r : FVal × Bool) : LaneRes :=
  fitFp di mode 0 r.1 (if r.2 then flagBit 3 else 0)

/-- Format A floating-point instructions of two sources. -/
def fpBinary (s : State) (g : Guard) (d a b : NameIx) (f : BitVec 3) (v : FVal → FVal → FVal × Bool) : Out :=
  computed s g (classD s d) (f.toNat < 4) d [a, b] (fun di is => allFp (di :: is)) fun di xs l =>
    fpFit di (modeOf f.toNat di) (v ((nth xs 0).fval l) ((nth xs 1).fval l))

def execFadd (g : Guard) (d a b : NameIx) (f : BitVec 3) (s : State) : Out :=
  fpBinary s g d a b f FVal.add

def execFsub (g : Guard) (d a b : NameIx) (f : BitVec 3) (s : State) : Out :=
  fpBinary s g d a b f fun x y => x.add y.neg

def execFmul (g : Guard) (d a b : NameIx) (f : BitVec 3) (s : State) : Out :=
  fpBinary s g d a b f FVal.mul

/-- FFMA rounds once (R96). -/
def execFfma (g : Guard) (d a b : NameIx) (f : BitVec 3) (s : State) : Out :=
  computed s g (classD s d) (f.toNat < 4) d [d, a, b] (fun di is => allFp (di :: is) && readDst di) fun di xs l =>
    fpFit di (modeOf f.toNat di) (FVal.fma ((nth xs 0).fval l) ((nth xs 1).fval l) ((nth xs 2).fval l))

/-- FMIN and FMAX choose without a flag, then fit by the declared mode (R97). -/
def fpPick (s : State) (g : Guard) (d a b : NameIx) (max : Bool) : Out :=
  computed s g (classD s d) true d [a, b] (fun di is => allFp (di :: is)) fun di xs l =>
    fpFit di di.mode (FVal.pick max ((nth xs 0).fval l) ((nth xs 1).fval l), false)

def execFmin (g : Guard) (d a b : NameIx) (s : State) : Out := fpPick s g d a b false

def execFmax (g : Guard) (d a b : NameIx) (s : State) : Out := fpPick s g d a b true

/-- A floating-point value converted to an integer name (R98). -/
def fpToInt (di : NameInfo) (rm : Rnd) (v : FVal) : LaneRes :=
  if di.kind = 8 then .ok (0, 0)
  else
    match v with
    | .fin s m e more =>
      let (n, changed) := roundInt rm s m e more
      match fitDecl di n with
      | .ok (p, fl) => .ok (p, fl ||| (if changed then flagBit 2 else 0))
      | .error x => .error x
    | .inf s =>
      if di.mode = 2 then .error (cWIDTH, fp32.infBits s)
      else if di.mode = 1 then
        .ok (zpat (if s then (intRange di.ty di.width).1 else (intRange di.ty di.width).2) di.width, flagBit 1)
      else .ok (0, flagBit 3)
    | .nan => if di.mode = 2 then .error (cWIDTH, fp32.nanBits) else .ok (0, flagBit 3)

/-- FCVT's operand combinations (R98, R100): not integer to integer. Index 0 stands for either family, so a
name on its other side must be of the family that makes a pair of R98. -/
def fcvtOk (di : NameInfo) (is : List NameInfo) : Bool := di.isFp || is.all (·.isFp)

/-- FCVT (R98). -/
def execFcvt (g : Guard) (d a : NameIx) (f : BitVec 3) (s : State) : Out :=
  computed s g (classD s d) (f.toNat < 4) d [a] fcvtOk fun di xs l =>
    let x := nth xs 0
    if 2 ≤ di.ty then
      fitFp di di.mode f.toNat (if 2 ≤ x.info.ty then x.fval l else ofInt (x.int l)) 0
    else fpToInt di f.toNat (x.fval l)

/-- FUN (R99, R101); 11x is reserved. -/
def execFunOp (g : Guard) (d a : NameIx) (f : BitVec 3) (s : State) : Out :=
  computed s g (classD s d) (f.toNat < 6) d [a] (fun di is => allFp (di :: is)) fun di xs l =>
    let r := funVal f.toNat ((nth xs 0).fval l)
    fitFp di di.mode 0 r.1 r.2

/-- FCMP (R102). -/
def execFcmp (g : Guard) (d : BitVec 3) (a b : NameIx) (f : BitVec 3) (s : State) : Out :=
  compared s g d.toNat [a, b] allFp fun xs l => fpCond f.toNat ((nth xs 0).fval l) ((nth xs 1).fval l)

end Sys2Proof.Machine
end

