-- ==== Sys2Proof/Machine/FullEmpty.lean ====
section
/-!
DEFINITION. Words with a full/empty state: LDT, PUT, FESET, FETEST, and the event that sends a refused take
again (spec/05 R170-R173).
-/

namespace Sys2Proof.Machine

/-- The record of replay and record mode for a take joining a word's list: takes of one word are granted in that
order (R170, R355). -/
def takeOp : Nat := 0x11

/-- The bank of a local-store word: its core and address bits [7:6] (R283). -/
def bankOf (pa : Nat) : Nat × Nat := (pa / 131072, pa / 64 % 4)

/-- The takes deferred in the bank of a word (R172). -/
def deferredIn (s : State) (pa : Nat) : Nat := (s.deferred.filter fun d => bankOf d.1 == bankOf pa).length

/-- A take is that of the instruction at the PC, for a lane and an address. -/
def TakeLane.isOf (x : TakeLane) (t : Strand) (lane ea : Nat) : Bool := x.pc == t.pc && x.lane == lane && x.ea == ea

/-- The value that a lane of the instruction at the PC was granted for its address. -/
def takenBy (t : Strand) (lane ea : Nat) : Option (BitVec 64) := (t.takes.find? fun x => x.isOf t lane ea).bind (·.got)

/-- A take as it is sent: that of the instruction at the PC, for a lane, an address and its word. -/
def takeFor (t : Strand) (x : Touch) : TakeLane := ⟨t.pc, x.lane, x.ea, touchWord x, none⟩

/-- A strand's take has been granted, or stands in the list (R170). -/
def takeStands (s : State) (k : Nat) (x : TakeLane) : Bool :=
  (takenBy (strandAt s k) x.lane x.ea).isSome || s.deferred.contains (x.word, k, x.lane)

/-- Put or replace a lane's take, with its value if it is granted. DEDUCED, log 10. -/
def noteTake (s : State) (k : Nat) (x : TakeLane) (got : Option (BitVec 64)) : State :=
  let t := strandAt s k
  setStrand s k { t with takes := (t.takes.filter fun y => !(y.pc == x.pc && y.lane == x.lane)) ++ [{ x with got := got }] }

/-- A take finds its word full with an uncorrectable error (R403). -/
def takeBad (s : State) (x : TakeLane) : Bool := wordFull s x.word && (poisoned s x.word 8).isSome

/-- A take arrives at its word's home: granted if the word is full, otherwise it joins the word's list unless the
bank's lists are full (R170, R172); a word with an error stays as it is. Under replay it first waits for its turn. -/
def sendTake (s : State) (k : Nat) (x : TakeLane) : State :=
  let t := strandAt s k
  let who := senderWord s t.lid (keyCore k) (k % 16) 0
  if takeStands s k x then s
  else if takeBad s x || (!(wordFull s x.word) && 64 ≤ deferredIn s x.word) then noteTake s k x none
  else
    match rrAllow s t.lid takeOp (wordPlace s t.lid x.word) who with
    | none => noteTake s k x none
    | some s =>
      let s := rrAppend s t.lid (rrWord takeOp (wordPlace s t.lid x.word) 0 0) who
      if wordFull s x.word then emptyWord (noteTake s k x (some (word (loadPhys s x.word 8)))) x.word
      else { noteTake s k x none with deferred := s.deferred ++ [(x.word, k, x.lane)] }

/-- All the takes of an instruction sent. -/
def sendTakes (s : State) (k : Nat) (xs : List TakeLane) : State := xs.foldl (fun acc x => sendTake acc k x) s

/-- The value that a lane was granted, by the list of the lanes with their addresses. -/
def laneTaken (t : Strand) (eas : List (Nat × Nat)) (l : Nat) : Nat :=
  (((eas.find? fun e => e.1 == l).bind fun e => takenBy t l e.2).getD 0).toNat

/-- The takes of LDT that had not been granted, as they stand once sent: all granted, or the strand waits (R170, R172). `s0` is
the state without the reading of the sources, which a parked instruction does not perform (R36). -/
def awaitTakes (s0 : State) (xs : List TakeLane) : Res State :=
  let s1 := sendTakes s0 s0.cur xs
  if xs.all fun x => (takenBy (curStrand s1) x.lane x.ea).isSome then .ok s1
  else if xs.all (takeStands s1 s1.cur) then .error (.park .take (some s1))
  else .error (.park .takeRefused (some (addEvent s1 (.takeResend s1.cur))))

/-- A take that would read an uncorrectable error traps MCHECK; an empty word is not read (R170, R403). DESIGN CHOICE,
log 44. DESIGN CHOICE, log 44. -/
def takeable (s : State) (ts : List Touch) : Res Unit := readable s (ts.filter fun t => wordFull s (touchWord t)) 8

/-- The trap of an LDT takes the strand out of the lists in which other lanes stand; what they were granted stays theirs. -/
def leaveTakes {α : Type} (s : State) (r : Res α) : Res α :=
  match r with
  | .error (.trap c v none) =>
    .error (.trap c v (some { s with deferred := s.deferred.filter fun d => d.2.1 != s.cur }))
  | r => r

/-- LDT: reads each word and sets it empty as one step; an empty word defers the take. A lane that has been granted its word is
not checked again. A fit that raises WIDTH leaves the take standing (R170). -/
def execLdt (g : Guard) (d a : NameIx) (i : Imm 9) (s : State) : Out :=
  let t := curStrand s
  let cls := classD s d
  match nameInfo t.map d, infos t [a] with
  | some di, some is =>
    gated s cls g (accessKinds cls (di.dstKind && sizeOk di 8) di is) false fun lanes => do
      let (_, xs) ← readSrcs s is []
      unlocked s [di]
      let eas := lanes.map fun l => (l, immAddr 8 i xs l)
      let (s1, ts) ← leaveTakes s (checkAll s s .take [.read, .write] 8 0 (eas.filter fun e => (takenBy t e.1 e.2).isNone))
      leaveTakes s (takeable s1 ts)
      let s2 ← awaitTakes s1 (ts.map (takeFor t))
      match collect lanes fun l => loadFit di 8 (laneTaken (curStrand s2) eas l) with
      | .error (.trap c v _) =>
        .error (.trap c v (some (setCur s2 fun t => { t with takes := t.takes.filter (·.pc != t.pc) })))
      | .error e => .error e
      | .ok (vals, fl) => do
        let (s3, _) ← readSrcs s2 is []
        let s4 ← writeDst s3 di lanes vals
        endAccess s (setCur (progressCur s4) fun t => setFlags t fl) (anyFar eas)
  | _, _ => gated s cls g false false fun _ => illegal s

/-- TAKE_RESEND: the core sends a refused take again, 64 cycles after the instruction issued (R172). One that finds an
uncorrectable error is issued again and traps (R403). -/
def execTakeResend (k : Nat) (s : State) : Out :=
  let t := strandAt s k
  if t.run != .parked .takeRefused then done s s
  else if s.cycle < t.lastIssue.getD 0 + 64 then again s (.takeResend k)
  else
    let xs := t.takes.filter fun x => x.pc == t.pc && x.got.isNone
    let s1 := sendTakes s k xs
    let t1 := strandAt s1 k
    if xs.any (takeBad s) || xs.all fun x => (takenBy t1 x.lane x.ea).isSome then done s (wake s1 k)
    else if xs.all (takeStands s1 k) then
      done s (setStrand s1 k { t1 with run := .parked .take })
    else done s (addEvent (setStrand s1 k { t1 with lastIssue := some s.cycle }) (.takeResend k))

/-- PUT's write: the word's bytes, then full, with the grant to the take at the head of its list (R171); all of it waits
at the home of a word that another strand has reserved (R177). -/
def putWrite (s : State) (t : Touch) (v : Nat) : Res State :=
  .ok (homeWrite (countTouch s t true) ⟨s.cur, touchWord t, 8, v, true, false⟩)

/-- PUT (R171): a release. -/
def execPut (g : Guard) (d a : NameIx) (i : Imm 9) (s : State) : Out :=
  storeOp s g (classD s d) true .take 8 d [a] anyKinds (immAddr 8 i) release putWrite

/-- The frame of FESET and FETEST: a uniform address, checked for one access (R173). -/
def stateOp (s : State) (g : Guard) (static : Bool) (a : NameIx) (i : Imm 9) (acc : Access) (code : Nat)
    (body : State → Nat → Res State) : Out :=
  uniformOp s g false static [] [a] intOnly fun s' _ xs => do
    let ea := immAddr 8 i xs 0
    let (s1, ts) ← checkAll s s' .take [acc] 8 code [(0, ea)]
    let s2 ← body s1 ((ts.head?.map touchWord).getD 0)
    endAccess s s2 (!(isOwn ea))

/-- FESET: the state alone; full is a release and may grant a take (R173). -/
def execFeset (g : Guard) (full : BitVec 1) (a : NameIx) (i : Imm 9) (s : State) : Out :=
  stateOp s g true a i .write 1 fun s' w =>
    if full = 1 then do
      let s'' ← release s'
      .ok (fillWord s'' w)
    else .ok (emptyWord s' w)

/-- FETEST (R173). -/
def execFetest (g : Guard) (d : BitVec 3) (a : NameIx) (i : Imm 9) (s : State) : Out :=
  stateOp s g (d != 0) a i .read 0 fun s' w => .ok (setCur s' fun t => setP t d.toNat (wordFull s' w))

end Sys2Proof.Machine
end

