-- ==== Sys2Proof/Machine/Lane.lean ====
section
/-!
DEFINITION. Lane transfer, opcodes 0x31-0x37 (spec/01 R49; spec/03 R113-R118).
-/

namespace Sys2Proof.Machine

/-- A lane source or destination name, or index 0 (R27, R63). -/
def laneName (i : NameInfo) : Bool := i.isLane || i.kind == 8

/-- The frame of the lane-class instructions that write a uniform name: `d` their destination, `srcs` their
sources, whose kinds `ok` admits. -/
def laneToUniform (s : State) (g : Guard) (static : Bool) (d : NameIx) (srcs : List NameIx)
    (ok : NameInfo → List NameInfo → Bool) (body : State → NameInfo → List Src → List Nat → Res State) : Out :=
  let t := curStrand s
  match nameInfo t.map d, infos t srcs with
  | some di, some is =>
    gated s .lane g (static && uniDst di && ok di is) false fun lanes => do
      let (s', xs) ← readSrcs s is []
      let s'' ← body s' di xs lanes
      .ok (advance s'')
  | _, _ => gated s .lane g false false fun _ => illegal s

/-- A lane's value moved to a uniform name, and the predicate of FN set; with no such lane enabled the predicate is
cleared and nothing is moved (R113, R49). -/
def moveLane (s : State) (di : NameInfo) (x : Src) (f : Nat) (lane : Option Nat) : Res State :=
  match lane with
  | none => .ok (setCur s fun t => setP t f false)
  | some l => do
    let s' ← writeOne s di (moveFit di di.mode x l)
    .ok (setCur s' fun t => setP t f true)

/-- VFIRST: the lowest enabled lane; FN = 0 names p0 and is ILLEGAL (R113). -/
def execVfirst (g : Guard) (d a : NameIx) (f : BitVec 3) (s : State) : Out :=
  laneToUniform s g (f != 0) d [a] (fun di is => is.all laneName && sameFamily (di :: is)) fun s' di xs lanes =>
    moveLane s' di (nth xs 0) f.toNat lanes.head?

/-- VLANE: the lane NB names, if it is enabled (R113). -/
def execVlane (g : Guard) (d a b : NameIx) (f : BitVec 3) (s : State) : Out :=
  laneToUniform s g (f != 0) d [a, b]
    (fun di is =>
      match is with
      | [ai, bi] => laneName ai && uniSrc bi && bi.isInt && sameFamily [di, ai]
      | _ => false)
    fun s' di xs lanes =>
      let l := (nth xs 1).int 0
      moveLane s' di (nth xs 0) f.toNat (lanes.find? fun j => (j : Int) == l)

/-! ### Reductions -/

/-- A reduction of integers (R114): add, and, or, xor, min, max. -/
def redInt (op : Nat) (a b : Int) : Int :=
  match op with
  | 0 => a + b
  | 1 => intBits (· &&& ·) a b
  | 2 => intBits (· ||| ·) a b
  | 3 => intBits (· ^^^ ·) a b
  | 4 => if a ≤ b then a else b
  | _ => if a ≤ b then b else a

/-- The identity of a reduction for an integer destination (R49). -/
def identInt (op : Nat) (di : NameInfo) : Int :=
  let (lo, hi) := intRange di.ty di.width
  match op with
  | 1 => if di.ty = 1 then -1 else hi
  | 4 => hi
  | 5 => lo
  | _ => 0

/-- The largest value of a floating-point type: the infinity, or 448 for E4M3 (R49). -/
def topValue (f : Fmt) (neg : Bool) : FVal := if f.hasInf then .inf neg else f.decode (f.maxSigned neg)

/-- The identity of a reduction for a floating-point destination (R49). -/
def identFp (op : Nat) (di : NameInfo) : FVal :=
  match op with
  | 4 => topValue (fmtOf di.ty) false
  | 5 => topValue (fmtOf di.ty) true
  | _ => .fin false 0 0 false

/-- The reduction of a source over a list of lanes, fitted to a destination by its declared mode (R114). -/
def reduceFit (op : Nat) (di : NameInfo) (x : Src) (lanes : List Nat) : LaneRes :=
  if 2 ≤ di.ty || 2 ≤ x.info.ty then
    match lanes.map x.fval with
    | [] => fpFit di di.mode (identFp op di, false)
    | v :: r =>
      if op = 0 then fpFit di di.mode (sumAll (v :: r))
      else fpFit di di.mode (r.foldl (FVal.pick (op == 5)) v, false)
  else
    match lanes.map x.int with
    | [] => fitDecl di (identInt op di)
    | v :: r => fitDecl di (r.foldl (redInt op) v)

/-- The operand types of VRED and VSCAN: and, or and xor are integer only (R85). -/
def redTypes (op : Nat) (is : List NameInfo) : Bool :=
  if op = 1 || op = 2 || op = 3 then allInt is else sameFamily is

/-- VRED (R114). -/
def execVred (g : Guard) (d a : NameIx) (f : BitVec 3) (s : State) : Out :=
  laneToUniform s g (f.toNat < 6) d [a] (fun di is => is.all laneName && redTypes f.toNat (di :: is))
    fun s' di xs lanes => writeOne s' di (reduceFit f.toNat di (nth xs 0) lanes)

/-- The lanes of a list whose q source, negated by bit 3, is 1 (R115). -/
def qLanes (t : Strand) (a : BitVec 4) (lanes : List Nat) : List Nat :=
  lanes.filter fun l => predQ t l (a.toNat % 8) != bitN a.toNat 3

/-- VPRED any and all write a p predicate; p0 is ILLEGAL (R16, R115). -/
def vpredTo (s : State) (g : Guard) (d : BitVec 3) (v : List Nat → Bool) : Out :=
  gated s .lane g (d != 0) false fun lanes => .ok (advance (setCur s fun t => setP t d.toNat (v lanes)))

/-- VPRED any: false with no enabled lane (R49). -/
def execVpredAny (g : Guard) (d : BitVec 3) (a : BitVec 4) (s : State) : Out :=
  vpredTo s g d fun lanes => !(qLanes (curStrand s) a lanes).isEmpty

/-- VPRED all: true with no enabled lane (R49). -/
def execVpredAll (g : Guard) (d : BitVec 3) (a : BitVec 4) (s : State) : Out :=
  vpredTo s g d fun lanes => (qLanes (curStrand s) a lanes).length == lanes.length

/-- VPRED count (R115). -/
def execVpredCount (g : Guard) (d : NameIx) (a : BitVec 4) (s : State) : Out :=
  laneToUniform s g true d [] (fun di _ => di.isInt) fun s' di _ lanes =>
    writeOne s' di (fitDecl di ((qLanes (curStrand s) a lanes).length : Nat))

/-- VIDX (R116). -/
def execVidx (g : Guard) (d : NameIx) (f : BitVec 3) (s : State) : Out :=
  computed s g .lane (f.toNat < 4) d [] (fun di _ => di.isInt) fun di _ l =>
    fitInt di (modeOf f.toNat di) (l : Nat)

/-- VSHUF reads every lane before it writes one (R117). -/
def execVshuf (g : Guard) (d a b : NameIx) (f : BitVec 3) (s : State) : Out :=
  computed s g .lane (f.toNat < 4) d [a, b]
    (fun di is =>
      match is with
      | [ai, bi] => laneName ai && bi.isInt && sameFamily [di, ai]
      | _ => false)
    fun di xs l => moveFit di (modeOf f.toNat di) (nth xs 0) ((nth xs 1).int l % 16).toNat

/-- VSCAN: the prefixes into ND, the total into NB; nothing is written if any of them would trap (R118). -/
def execVscan (g : Guard) (d a b : NameIx) (f : BitVec 3) (s : State) : Out :=
  let t := curStrand s
  match nameInfo t.map d, nameInfo t.map a, nameInfo t.map b with
  | some di, some ai, some bi =>
    gated s .lane g (f.toNat < 6 && laneName di && laneName ai && uniDst bi && redTypes f.toNat [di, ai, bi]) false
      fun lanes => do
        let (s', xs) ← readSrcs s [ai] []
        let x := nth xs 0
        let (vals, fl) ← collect lanes fun l => reduceFit f.toNat di x (lanes.filter (· ≤ l))
        let (total, fl') ← collect [0] fun _ => reduceFit f.toNat bi x lanes
        let s'' ← writeDst s' di lanes vals
        let s3 ← writeDst s'' bi [0] total
        .ok (advance (setCur s3 fun t => setFlags t (fl ||| fl')))
  | _, _, _ => gated s .lane g false false fun _ => illegal s

end Sys2Proof.Machine
end

