-- ==== Sys2Proof/Machine/Pred.lean ====
section
/-!
DEFINITION. PLOG and PMOV (spec/01 R16, R18-R22).
-/

namespace Sys2Proof.Machine

/-- The functions of PLOG (R21). -/
def plogFun (f : Nat) (x y : Bool) : Bool :=
  match f with
  | 0 => x && y
  | 1 => x || y
  | 2 => x != y
  | _ => x

/-- PLOG in the file that ND's bit 3 names: p in the uniform path, q in each enabled lane (R21). -/
def plogRun (s : State) (g : Guard) (d a b : BitVec 4) (static : Bool) (f : Nat) : Out :=
  let t := curStrand s
  let di := d.toNat % 8
  if bitN d.toNat 3 then
    gated s .lane g (static && di != 0) false fun lanes =>
      let v (l : Nat) : Bool :=
        plogFun f (predQ t l (a.toNat % 8) != bitN a.toNat 3) (predQ t l (b.toNat % 8) != bitN b.toNat 3)
      .ok (advance (writePred s .lane lanes di v))
  else
    gated s .uniform g (static && di != 0) false fun _ =>
      let v := plogFun f (predP t (a.toNat % 8) != bitN a.toNat 3) (predP t (b.toNat % 8) != bitN b.toNat 3)
      .ok (advance (writePred s .uniform [0] di fun _ => v))

/-- PLOG and, or, xor; the function mov with NB not 0 is ILLEGAL (R21). -/
def execPlog (g : Guard) (d a b : BitVec 4) (f : BitVec 2) (s : State) : Out :=
  plogRun s g d a b (f != 3) f.toNat

/-- PLOG mov (R21). -/
def execPlogMov (g : Guard) (d a : BitVec 4) (s : State) : Out := plogRun s g d a 0 true 3

/-- PMOV.r: the predicate word, fitted to ND (R22). -/
def execPmovR (g : Guard) (d : NameIx) (s : State) : Out :=
  uniformOp s g false true [d] [] intOnly fun s' ds _ => do
    let s'' ← writeOne s' (nthD ds 0) (fitDecl (nthD ds 0) (curStrand s').pword.toNat)
    .ok (advance s'')

/-- The predicate word with p1-p7 (bit 0 of `f`) and f0-f7 (bit 1) taken from a value (R22). -/
def pmovWord (w : BitVec 16) (f v : Nat) : BitVec 16 :=
  let w := if bitN f 0 then setFieldN w.toNat 1 7 (v / 2) else w.toNat
  BitVec.ofNat 16 (if bitN f 1 then setFieldN w 8 8 (v / 2 ^ 8) else w)

/-- PMOV.w (R22). -/
def execPmovW (g : Guard) (a : NameIx) (f : BitVec 2) (s : State) : Out :=
  uniformOp s g false true [] [a] intOnly fun s' _ xs =>
    .ok (advance (setCur s' fun t => { t with pword := pmovWord t.pword f.toNat (zpat ((nth xs 0).int 0) 64) }))

/-- PMOV.fc clears the flags f0-f6 its bits name (R22). -/
def execPmovFc (g : Guard) (f : BitVec 7) (s : State) : Out :=
  uniformOp s g false true [] [] intOnly fun s' _ _ =>
    .ok (advance (setCur s' fun t => { t with pword := t.pword &&& ~~~(BitVec.ofNat 16 (f.toNat * 2 ^ 8)) }))

end Sys2Proof.Machine
end

