-- ==== Sys2Proof/Machine/Inner.lean ====
section
/-!
DEFINITION. The instruction words by themselves: the table that LIMM and a patch's substitute run them through, and the
two of them (spec/02 R56, R57, R69; spec/18 R418, R419).
-/

namespace Sys2Proof.Machine

/-- An instruction word with the immediate that a LIMM widened (R56). -/
def widened (x : BitVec 25) (i : Instr) : Instr :=
  match i with
  | .addi g d a i => .addi g d a { i with ext := some x }
  | .muli g d a i => .muli g d a { i with ext := some x }
  | .andi g d a i => .andi g d a { i with ext := some x }
  | .ori g d a i => .ori g d a { i with ext := some x }
  | .xori g d a i => .xori g d a { i with ext := some x }
  | .shli g d a i => .shli g d a { i with ext := some x }
  | .shri g d a i => .shri g d a { i with ext := some x }
  | .shai g d a i => .shai g d a { i with ext := some x }
  | .roti g d a i => .roti g d a { i with ext := some x }
  | .mini g d a i => .mini g d a { i with ext := some x }
  | .maxi g d a i => .maxi g d a { i with ext := some x }
  | .li g d i => .li g d { i with ext := some x }
  | .lih g d i => .lih g d { i with ext := some x }
  | .cmpi g c d a i => .cmpi g c d a { i with ext := some x }
  | .br g i => .br g { i with ext := some x }
  | .call g i => .call g { i with ext := some x }
  | .loop g d i => .loop g d { i with ext := some x }
  | .brany g i => .brany g { i with ext := some x }
  | .brall g i => .brall g { i with ext := some x }
  | .ipf g i => .ipf g { i with ext := some x }
  | .ldb g d a i => .ldb g d a { i with ext := some x }
  | .ldh g d a i => .ldh g d a { i with ext := some x }
  | .ldw g d a i => .ldw g d a { i with ext := some x }
  | .ldd g d a i => .ldd g d a { i with ext := some x }
  | .ldt g d a i => .ldt g d a { i with ext := some x }
  | .ldk g d a i => .ldk g d a { i with ext := some x }
  | .pref g a i => .pref g a { i with ext := some x }
  | .stb g d a i => .stb g d a { i with ext := some x }
  | .sth g d a i => .sth g d a { i with ext := some x }
  | .stw g d a i => .stw g d a { i with ext := some x }
  | .std g d a i => .std g d a { i with ext := some x }
  | .put g d a i => .put g d a { i with ext := some x }
  | .rsv g d a i => .rsv g d a { i with ext := some x }
  | .rel g d a i => .rel g d a { i with ext := some x }
  | .feset g st a i => .feset g st a { i with ext := some x }
  | .fetest g d a i => .fetest g d a { i with ext := some x }
  | .trap g i => .trap g { i with ext := some x }
  | .mapld g a i => .mapld g a { i with ext := some x }
  | j => j

/-- The meaning of an instruction word. -/
def runWord (w : Instr) (s : State) : Out :=
  match w with
  | .add g d a b f => execAdd g d a b f s
  | .sub g d a b f => execSub g d a b f s
  | .mul g d a b f => execMul g d a b f s
  | .mulh g d a b f => execMulh g d a b f s
  | .div g d a b f => execDiv g d a b f s
  | .rem g d a b f => execRem g d a b f s
  | .and g d a b f => execAnd g d a b f s
  | .or g d a b f => execOr g d a b f s
  | .xor g d a b f => execXor g d a b f s
  | .andn g d a b f => execAndn g d a b f s
  | .shl g d a b f => execShl g d a b f s
  | .shr g d a b f => execShr g d a b f s
  | .sha g d a b f => execSha g d a b f s
  | .rot g d a b f => execRot g d a b f s
  | .min g d a b f => execMin g d a b f s
  | .max g d a b f => execMax g d a b f s
  | .addi g d a i => execAddi g d a i s
  | .muli g d a i => execMuli g d a i s
  | .andi g d a i => execAndi g d a i s
  | .ori g d a i => execOri g d a i s
  | .xori g d a i => execXori g d a i s
  | .shli g d a i => execShli g d a i s
  | .shri g d a i => execShri g d a i s
  | .shai g d a i => execShai g d a i s
  | .roti g d a i => execRoti g d a i s
  | .mini g d a i => execMini g d a i s
  | .maxi g d a i => execMaxi g d a i s
  | .li g d i => execLi g d i s
  | .lih g d i => execLih g d i s
  | .sel g d a b f => execSel g d a b f s
  | .absd g d a b f => execAbsd g d a b f s
  | .mac g d a b f => execMac g d a b f s
  | .fadd g d a b f => execFadd g d a b f s
  | .fsub g d a b f => execFsub g d a b f s
  | .fmul g d a b f => execFmul g d a b f s
  | .ffma g d a b f => execFfma g d a b f s
  | .fmin g d a b => execFmin g d a b s
  | .fmax g d a b => execFmax g d a b s
  | .fcvt g d a f => execFcvt g d a f s
  | .funOp g d a f => execFunOp g d a f s
  | .fcmp g d a b f => execFcmp g d a b f s
  | .rsz g d m w i => execRsz g d m w i s
  | .widq g d w i => execWidq g d w i s
  | .ext g d a st => execExt g d a st s
  | .ins g d a st => execIns g d a st s
  | .bitc g d a f => execBitc g d a f s
  | .cmp g d a b f => execCmp g d a b f s
  | .cmpi g c d a i => execCmpi g c d a i s
  | .mov g d a f => execMov g d a f s
  | .vfirst g d a f => execVfirst g d a f s
  | .vlane g d a b f => execVlane g d a b f s
  | .vred g d a f => execVred g d a f s
  | .vpredAny g d a => execVpredAny g d a s
  | .vpredAll g d a => execVpredAll g d a s
  | .vpredCount g d a => execVpredCount g d a s
  | .vidx g d f => execVidx g d f s
  | .vshuf g d a b f => execVshuf g d a b f s
  | .vscan g d a b f => execVscan g d a b f s
  | .br g i => execBr g i s
  | .call g i => execCall g i s
  | .jr g a => execJr g a s
  | .callr g a => execCallr g a s
  | .loop g d i => execLoop g d i s
  | .brany g i => execBrany g i s
  | .brall g i => execBrall g i s
  | .ipf g i => execIpf g i s
  | .ldb g d a i => execLdb g d a i s
  | .ldh g d a i => execLdh g d a i s
  | .ldw g d a i => execLdw g d a i s
  | .ldd g d a i => execLdd g d a i s
  | .ldx g d a b st => execLdx g d a b st s
  | .ldg g d a b st => execLdg g d a b st s
  | .ldo g d a st o z => execLdo g d a st o z s
  | .ldt g d a i => execLdt g d a i s
  | .ldk g d a i => execLdk g d a i s
  | .pref g a i => execPref g a i s
  | .plog g d a b f => execPlog g d a b f s
  | .plogMov g d a => execPlogMov g d a s
  | .pmovR g d => execPmovR g d s
  | .pmovW g a f => execPmovW g a f s
  | .pmovFc g f => execPmovFc g f s
  | .stb g d a i => execStb g d a i s
  | .sth g d a i => execSth g d a i s
  | .stw g d a i => execStw g d a i s
  | .std g d a i => execStd g d a i s
  | .stx g d a b st => execStx g d a b st s
  | .sts g d a b st => execSts g d a b st s
  | .sto g d a st o z => execSto g d a st o z s
  | .put g d a i => execPut g d a i s
  | .rsv g d a i => execRsv g d a i s
  | .rel g d a i => execRel g d a i s
  | .faa g d a b => execFaa g d a b s
  | .swp g d a b => execSwp g d a b s
  | .cas g d a b => execCas g d a b s
  | .feset g st a i => execFeset g st a i s
  | .fetest g d a i => execFetest g d a i s
  | .enq g a e => execEnq g a e s
  | .pop g d e => execPop g d e s
  | .epeek g d e => execEpeek g d e s
  | .cxset g a r => execCxset g a r s
  | .cxgo g d => execCxgo g d s
  | .send g a b c => execSend g a b c s
  | .mrecv g d a c => execMrecv g d a c s
  | .qctl g d a st => execQctl g d a st s
  | .fnew g d a => execFnew g d a s
  | .fset g a b => execFset g a b s
  | .fget g d a st => execFget g d a st s
  | .fexp g a b => execFexp g a b s
  | .fdec g a => execFdec g a s
  | .post g d a r => execPost g d a r s
  | .roam g a => execRoam g a s
  | .pubsh g a b => execPubsh g a b s
  | .stopref g a => execStopref g a s
  | .settle g a => execSettle g a s
  | .fcancel g a b => execFcancel g a b s
  | .mon g a m => execMon g a m s
  | .monx g d a m => execMonx g d a m s
  | .waita g d a => execWaita g d a s
  | .bara g k => execBara g k s
  | .barw g k => execBarw g k s
  | .fence g d a st => execFence g d a st s
  | .start g d a b => execStart g d a b s
  | .join g a => execJoin g a s
  | .exit g => execExit g s
  | .yield g => execYield g s
  | .waitmsg g => execWaitmsg g s
  | .trap g i => execTrap g i s
  | .ctlr g d r => execCtlr g d r s
  | .ctlw g a r => execCtlw g a r s
  | .ctlx g d a r => execCtlx g d a r s
  | .mapld g a i => execMapld g a i s
  | .rtt g => execRtt g s
  | .conf g d a b => execConf g d a b s
  | .confExit g d a b => execConfExit g d a b s
  | .nop g => execNop g s
  | .iflush g a => execIflush g a s
  | .iflushAll g => execIflushAll g s
  | .tlbinvPage g a => execTlbinvPage g a s
  | .tlbinvAsid g a => execTlbinvAsid g a s
  | .tlbinvAll g => execTlbinvAll g s
  | .dbrk g c => execDbrk g c s
  | .getid g d f => execGetid g d f s
  | .bind g a c => execBind g a c s
  | .unbind g a c => execUnbind g a c s
  | .grey g a => execGrey g a s
  | .eres g e => execEres g e s
  | _ => finish s (illegal s)

/-- The names that an instruction which a substitute may hold before its last one names (R417, R419). -/
def namesOf (i : Instr) : List NameIx :=
  match i with
  | .add _ d a b _ => [d, a, b]
  | .sub _ d a b _ => [d, a, b]
  | .mul _ d a b _ => [d, a, b]
  | .mulh _ d a b _ => [d, a, b]
  | .div _ d a b _ => [d, a, b]
  | .rem _ d a b _ => [d, a, b]
  | .and _ d a b _ => [d, a, b]
  | .or _ d a b _ => [d, a, b]
  | .xor _ d a b _ => [d, a, b]
  | .andn _ d a b _ => [d, a, b]
  | .shl _ d a b _ => [d, a, b]
  | .shr _ d a b _ => [d, a, b]
  | .sha _ d a b _ => [d, a, b]
  | .rot _ d a b _ => [d, a, b]
  | .min _ d a b _ => [d, a, b]
  | .max _ d a b _ => [d, a, b]
  | .addi _ d a _ => [d, a]
  | .muli _ d a _ => [d, a]
  | .andi _ d a _ => [d, a]
  | .ori _ d a _ => [d, a]
  | .xori _ d a _ => [d, a]
  | .shli _ d a _ => [d, a]
  | .shri _ d a _ => [d, a]
  | .shai _ d a _ => [d, a]
  | .roti _ d a _ => [d, a]
  | .mini _ d a _ => [d, a]
  | .maxi _ d a _ => [d, a]
  | .li _ d _ => [d]
  | .lih _ d _ => [d]
  | .sel _ d a b _ => [d, a, b]
  | .absd _ d a b _ => [d, a, b]
  | .mac _ d a b _ => [d, a, b]
  | .fadd _ d a b _ => [d, a, b]
  | .fsub _ d a b _ => [d, a, b]
  | .fmul _ d a b _ => [d, a, b]
  | .ffma _ d a b _ => [d, a, b]
  | .fmin _ d a b => [d, a, b]
  | .fmax _ d a b => [d, a, b]
  | .fcvt _ d a _ => [d, a]
  | .funOp _ d a _ => [d, a]
  | .fcmp _ _ a b _ => [a, b]
  | .rsz _ d _ _ _ => [d]
  | .widq _ d _ _ => [d]
  | .ext _ d a _ => [d, a]
  | .ins _ d a _ => [d, a]
  | .bitc _ d a _ => [d, a]
  | .cmp _ _ a b _ => [a, b]
  | .cmpi _ _ _ a _ => [a]
  | .mov _ d a _ => [d, a]
  | .vfirst _ d a _ => [d, a]
  | .vlane _ d a b _ => [d, a, b]
  | .vred _ d a _ => [d, a]
  | .vpredCount _ d _ => [d]
  | .vidx _ d _ => [d]
  | .vshuf _ d a b _ => [d, a, b]
  | .vscan _ d a b _ => [d, a, b]
  | .pmovR _ d => [d]
  | .pmovW _ a _ => [a]
  | _ => []

/-- UNASSIGNED_OPCODE: ILLEGAL at step 1 of R58, whatever the guard (R69). -/
def execUnassignedOpcode (w : BitVec 32) (s : State) : Out :=
  finish s (trapNow cILLEGAL w.toNat)

/-- A pair whose instruction is `len` bytes long. -/
def runPair (x : BitVec 25) (w : BitVec 32) (len : Nat) (s : State) : Out :=
  let s := { s with ir := ⟨w, len⟩ }
  if opTakesExt (opOf w) then
    match decodeWord w with
    | .ok i => runWord (widened x i) s
    | .error _ => finish s (illegal s)
  else finish s (illegal s)

/-- LIMM: the pair issues as one instruction of 8 bytes (R56). -/
def execLimm (ext : BitVec 25) (w : BitVec 32) (s : State) : Out := runPair ext w 8 s

/-! ### Substitutes (R419) -/

/-- An instruction of a substitute: a word, perhaps with a LIMM before it. -/
structure SubInstr where
  ext  : Option (BitVec 25)
  word : BitVec 32

/-- The instructions of a substitute; a LIMM with nothing after it stands alone, a word of no meaning. -/
def subInstrs : List (BitVec 32) → List SubInstr
  | [] => []
  | [w] => [⟨none, w⟩]
  | w :: v :: r =>
    if opOf w = 0x7F then ⟨some (fld 25 0 w), v⟩ :: subInstrs r else ⟨none, w⟩ :: subInstrs (v :: r)

/-- One of them executed at the PC of the pattern, as if it were as long as the pattern. -/
def runSub (x : SubInstr) (len : Nat) (s : State) : Out :=
  match x.ext with
  | some e => runPair e x.word len s
  | none =>
    let s := { s with ir := ⟨x.word, len⟩ }
    match decodeWord x.word with
    | .ok i => runWord i s
    | .error _ => finish s (illegal s)

/-- An instruction before the last one names a name of kind 2 to 5 (R419). DEDUCED, log 33. -/
def subKindBad (t : Strand) (x : SubInstr) : Bool :=
  match decodeWord x.word with
  | .ok i => (namesOf i).any fun n => match nameInfo t.map n with
      | some y => decide (2 ≤ y.kind) && decide (y.kind ≤ 5)
      | none => false
  | .error _ => false

/-- How an instruction of a substitute has ended. -/
inductive SubEnd where
  | completed
  | trapped
  | parked
deriving DecidableEq, Repr

/-- The end of an instruction that strand `t` executed: the trap state has become live, or the strand stopped; it is
parked where it was; or it completed. An RSZ whose repack has begun has completed but for the unlock, which moves the PC.
DEDUCED, log 33. -/
def subEnd (t : Strand) (s : State) : SubEnd :=
  match tget s.strands s.cur with
  | none => .completed
  | some u =>
    if u.run = .stopped || (u.tsl && !t.tsl) then .trapped
    else
      match u.run with
      | .parked .repack =>
        if (coreAt s (keyCore s.cur)).repack.any fun r => r.key == s.cur then .completed else .parked
      | .parked _ => if u.pc = t.pc then .parked else .completed
      | _ => .completed

/-- A park of a substitute: whatever it waits for, the strand reissues at the pattern. -/
def subPark (x : Run) : Run :=
  match x with
  | .parked (.waitA nd na deadline _) => .parked (.waitA nd na deadline 0)
  | .parked (.barrier r w _) => .parked (.barrier r w 0)
  | y => y

/-- The shadow discarded: names, predicates and flags are those of before the substitute. -/
def discardShadow (s0 s : State) : State :=
  let t0 := curStrand s0
  let c0 := coreAt s0 (curP s0)
  let s1 := modCore s (curP s0) fun c => { c with ubank := c0.ubank, lbank := c0.lbank }
  setStrand s1 s0.cur { strandAt s1 s0.cur with pword := t0.pword, q := t0.q, run := subPark (strandAt s1 s0.cur).run }

/-- The instructions in turn, `s0` being the state at the pattern (R419). DEDUCED, log 33. -/
def runSubs (s0 : State) (len : Nat) : List SubInstr → State → State
  | [], s => setCur s fun t => { t with pc := (curStrand s0).pc + BitVec.ofNat 48 len, skipBrk := false }
  | x :: r, s =>
    if !r.isEmpty && subKindBad (curStrand s0) x then
      takeTrap s0 s0.cur cILLEGAL x.word.toNat
    else
      match runSub x len s with
      | .next s1 =>
        match subEnd (curStrand s0) s1 with
        | .completed =>
          if r.isEmpty then s1 else runSubs s0 len r (setCur s1 fun t => { t with pc := (curStrand s0).pc })
        | _ => discardShadow s0 s1
      | _ => s0

/-- PATCH_SUBSTITUTE: entry `e` of the patch table in place of the pattern at the PC (R419). Its instructions, which
take an issue turn each, are one step here: none but the last acts outside the strand. DEDUCED, log 33. -/
def execPatchSubstitute (e : Nat) (s : State) : Out :=
  match s.hub.patch[e]? with
  | none => finish s (illegal s)
  | some p => done s (runSubs s (4 * p.mask.length) (subInstrs p.subst) s)

end Sys2Proof.Machine
end

