-- ==== Sys2Proof/Machine/Vx.lean ====
section
/-!
DEFINITION. The commands of the VX engine (spec/06 R236-R246; spec/07 R268-R271, R441; spec/14 R371-R373).
-/

namespace Sys2Proof.Machine

/-! ### What the commands share (R236) -/

/-- The DTYPEs that VX reads and writes (R236). -/
def vxDt (dt : Nat) : Bool := dt ≤ 5

/-- What a command's own rules say: its FLG and SEL, its types, its domains, the record fields it uses, whether D2 is an
operand. -/
structure VxForm where
  fieldOk : Bool
  typesOk : Bool
  domOk   : Bool
  use     : RecUse := {}
  hasB    : Bool := false

/-- What a command computes: its writes, flags and AUX. -/
structure VxOut where
  writes : List Write
  flags  : BitVec 8
  aux    : Nat := 0

/-- The record of a VX command lies behind its command word (R216). -/
def vxRecord (cmd : EngineCmd) : Option Nat := if bitN cmd.flg 5 then some (cmd.off + 32) else none

/-- FLG[4:2] of a VX command. -/
def vxFlags (cmd : EngineCmd) : Nat := fieldN cmd.flg 2 3

/-- A VX command other than VTKV: the checks of R221 in order, its operands, its effect. -/
def vxRun (s : State) (p : Nat) (cmd : EngineCmd) (f : VxForm) (body : Rec → List Operand → VxOut) :
    Eng (State × Result) := do
  let d := descOf (cmd.d 3)
  let srcs := descOf (cmd.d 1) :: (if f.hasB then [descOf (cmd.d 2)] else [])
  let rows (x : Desc) : List Span := x.rows 32 (rowBytes x.dtype)
  let prm := vxRecord cmd
  need (f.fieldOk && factOk cmd true && d.fieldOk && srcs.all (·.fieldOk) && (f.hasB || cmd.d 2 == 0)) 2
  need (vxDt d.dtype && srcs.all (fun x => vxDt x.dtype) && f.typesOk) 3
  need (d.domOk && srcs.all (·.domOk) && f.domOk) 4
  let r ← recordOf s p cmd prm d.dtype f.use
  need ((d :: srcs).all (fun x => tileAddrOk s p cmd x (rows x)) && recordAddrOk s p cmd prm) 6
  need (strideOk d (rowBytes d.dtype)) 7
  kvCheck s p cmd (srcs.flatMap fun x => x.header ++ rows x) (d.header ++ rows d)
  let s1 ← pinReads s p cmd (kvSpan cmd ++ recordSpan prm ++ srcs.flatMap fun x => x.header ++ rows x)
  let s2 ← pinWrites s1 p cmd (d.header ++ rows d)
  let s2 ← cleanReads s2 p cmd (kvSpan cmd ++ recordSpan prm ++ srcs.flatMap fun x => operandSpans s2 p cmd x (rows x))
  let os ← srcs.mapM fun x => readOperand s2 p cmd x 32 (rows x)
  let out := body r os
  cleanWrites s2 p cmd (out.writes.map fun w => (w.1, w.2.1))
  let shade := os.foldl (fun acc o => Nat.min acc o.shade) 15
  .ok (engWrite s2 p cmd d.header out.writes,
       { shade := shade, aux := out.aux, flags := out.flags })

/-- The `n`th operand read. -/
def opAt (os : List Operand) (n : Nat) : Operand := os.getD n ⟨[], 15, 0, 0⟩

/-- An operand reconstructed if it is in the Haar domain (R236). -/
def plainOf (cmd : EngineCmd) (i : Nat) (os : List Operand) : List (List FVal) × BitVec 8 :=
  reconstruct (descOf (cmd.d (i + 1))) (opAt os i)

/-- A function of each element, with its flags. -/
def mapElems (f : FVal → FVal × BitVec 8) (m : List (List FVal)) : List (List FVal) × BitVec 8 :=
  let out := m.map fun r => r.map f
  (out.map fun r => r.map (·.1), orFlags (out.map fun r => orFlags (r.map (·.2))))

/-- A function of each row, with its flags. -/
def mapRows (f : Nat → List FVal → List FVal × BitVec 8) (m : List (List FVal)) : List (List FVal) × BitVec 8 :=
  let out := m.zipIdx.map fun r => f r.2 r.1
  (out.map (·.1), orFlags (out.map (·.2)))

/-- Rows written to the plain destination of a command, with the flags met so far. -/
def writeRowsTo (cmd : EngineCmd) (r : Rec) (x : List (List FVal) × BitVec 8) (fl : BitVec 8) : VxOut :=
  let w := plainWrites (descOf (cmd.d 3)) r x.1
  ⟨w.1, w.2 ||| x.2 ||| fl, 0⟩

/-- A command on one operand whose result is plain (R236). -/
def vxPlain (s : State) (p : Nat) (cmd : EngineCmd) (fieldOk : Bool) (use : RecUse)
    (f : Rec → List (List FVal) → List (List FVal) × BitVec 8) : Eng (State × Result) :=
  vxRun s p cmd ⟨fieldOk, true, (descOf (cmd.d 3)).dom == 0, use, false⟩ fun r os =>
    let a := plainOf cmd 0 os
    writeRowsTo cmd r (f r a.1) a.2

/-- A VX command's operation. DEDUCED, log 36. -/
def vxCommand (s : State) (p : Nat) (f : EngineCmd → Eng (State × Result)) : Out :=
  runCommand s p 1 fun cmd => concluded s p 1 cmd (f cmd)

/-! ### VTMAP (R237) -/

/-- e^(-x) in fixed point for x in fixed point, as a mantissa over 2^n. -/
def expNegFx (x : Nat) : Nat × Nat :=
  let n := x / ln2Fx + 1
  (expFx (n * ln2Fx - x), n)

/-- A magnitude in fixed point. -/
def magFx (m : Nat) (e : Int) : Nat := m * 2 ^ (e + fxBits).toNat

/-- A magnitude of 1024 or more. -/
def isHuge (m : Nat) (e : Int) : Bool := m != 0 && (10 : Int) ≤ (Nat.log2 m : Int) + e

/-- k times the logistic function of a value, as a magnitude; the third part says that it lies strictly above it. -/
def logistic (neg : Bool) (m : Nat) (e : Int) (k : Nat) : Nat × Int × Bool :=
  if m = 0 then (k, -1, false)
  else if isHuge m e then (if neg then (k, -8192, true) else (k * 2 ^ 200 - 1, -200, true))
  else
    let (x, n) := expNegFx (magFx m e)
    let one := 2 ^ (fxBits + n)
    let sc := 200 + n
    (k * (if neg then x else one) * 2 ^ sc / (one + x), -(sc : Int), true)

/-- The hyperbolic tangent of a magnitude. -/
def tanhMag (m : Nat) (e : Int) : Nat × Int × Bool :=
  if m = 0 then (0, 0, false)
  else if isHuge m e then (2 ^ 200 - 1, -200, true)
  else
    let (x, n) := expNegFx (2 * magFx m e)
    let one := 2 ^ (fxBits + n)
    ((one - x) * 2 ^ 200 / (one + x), -200, true)

/-- A magnitude with a sign. -/
def ofMag (neg : Bool) (x : Nat × Int × Bool) (shift : Int) : FVal := .fin neg x.1 (x.2.1 + shift) x.2.2

/-- f of VTMAP, exact, with the flags of its special cases. DEDUCED, log 41. -/
def vtmapVal (sel : Nat) (t : FVal) : FVal × BitVec 8 :=
  match sel, t with
  | _, .nan => (.nan, 0)
  | 0, t => (t, 0)
  | 1, t => (if t.isNeg || t.isZero then fzero else t, 0)
  | 2, t => (t.abs, 0)
  | 3, t => (t.neg, 0)
  | 8, .inf s => (if s then fzero else .fin false 1 0 false, 0)
  | 8, .fin s m e _ => (ofMag false (logistic s m e 1) 0, 0)
  | 9, .inf s => (.fin s 1 0 false, 0)
  | 9, .fin s m e _ => (ofMag s (tanhMag m e) 0, 0)
  | 10, .inf s => (if s then .fin true 0 0 false else .inf false, 0)
  | 10, .fin s m e _ => (ofMag s (logistic s m e m) e, 0)
  | 11, t => ((t.mul t).1, 0)
  | sel, t => funVal (sel - 4) t

/-- One element of VTMAP: SCALE, the function, one rounding to FP32. -/
def vtmapElem (r : Rec) (sel : Nat) (a : FVal) : FVal × BitVec 8 :=
  let t := if r.unitScale then (a, 0) else r32of (r.scale.mul a)
  let y := vtmapVal sel t.1
  let z := r32 y.1
  (z.1, t.2 ||| y.2 ||| z.2)

/-- VTMAP (R237). -/
def execVtmap (p : Nat) (s : State) : Out :=
  vxCommand s p fun cmd => vxPlain s p cmd (vxFlags cmd == 0 && cmd.sel ≤ 11) {} fun r a =>
    mapElems (vtmapElem r cmd.sel) a

/-! ### VTBIN (R236, R238) -/

/-- One element of VTBIN, exact. -/
def vtbinElem (r : Rec) (sel : Nat) (a b : FVal) : FVal × BitVec 8 :=
  let of (x : FVal × Bool) : FVal × BitVec 8 := (x.1, invalidIf x.2)
  match sel with
  | 0 => of (a.add b)
  | 1 => of (a.add b.neg)
  | 2 => of (a.mul b)
  | 3 => (FVal.pick true a b, 0)
  | 4 => (FVal.pick false a b, 0)
  | _ =>
    let x := r.scale.mul a
    let y := x.1.add b
    (y.1, invalidIf (x.2 || y.2))

/-- The operands element by element. -/
def zipElems (f : FVal → FVal → FVal × BitVec 8) (a b : List (List FVal)) : List (List FVal) × BitVec 8 :=
  let out := (a.zip b).map fun r => (r.1.zip r.2).map fun x => f x.1 x.2
  (out.map fun r => r.map (·.1), orFlags (out.map fun r => orFlags (r.map (·.2))))

/-- VTBIN acts on coefficients (R236). -/
def vtbinCoeff (cmd : EngineCmd) : Bool :=
  let a := descOf (cmd.d 1)
  let b := descOf (cmd.d 2)
  (cmd.sel == 0 || cmd.sel == 1 || cmd.sel == 5) && a.dom != 0 && a.dom == b.dom && a.lvl == b.lvl

/-- A destination of the same domain as a source. -/
def sameDomain (a d : Desc) : Bool := a.dom == d.dom && a.lvl == d.lvl

/-- VTBIN. -/
def execVtbin (p : Nat) (s : State) : Out :=
  vxCommand s p fun cmd =>
    let a := descOf (cmd.d 1)
    let d := descOf (cmd.d 3)
    let coeff := vtbinCoeff cmd
    vxRun s p cmd
      ⟨vxFlags cmd == 0 && cmd.sel ≤ 5, true, if coeff then sameDomain a d else d.dom == 0, {}, true⟩ fun r os =>
      if coeff then
        let x := zipElems (vtbinElem r cmd.sel) (opAt os 0).vals (opAt os 1).vals
        let shade := Nat.min (opAt os 0).shade (opAt os 1).shade
        let w := haarWrites d r .nan (shadeRows d.lvl shade) shade (opAt os 0).tauix x.1
        ⟨w.1, w.2 ||| x.2, 0⟩
      else
        let x := plainOf cmd 0 os
        let y := plainOf cmd 1 os
        writeRowsTo cmd r (zipElems (vtbinElem r cmd.sel) x.1 y.1) (x.2 ||| y.2)

/-! ### VTRED (R239) -/

/-- The extreme of a list. The spec states no result where an element is a NaN, nor which zero an extreme of zeros of
both signs is: free values stand there. DESIGN CHOICE, log 37. -/
def extreme (max : Bool) (free : Nat) (l : List FVal) : FVal :=
  if l.any (·.isNan) then fp32.decode ((Config.freeWord free).toNat % 2 ^ 32)
  else
    let x := l.foldl (FVal.pick max) (l.headD fzero)
    if x.isZero && l.any (fun y => y.isZero && y.isNeg != x.isNeg) then .fin (Config.freeBit free) 0 0 false else x

/-- One reduction. -/
def vtredVal (op free : Nat) (l : List FVal) : FVal × BitVec 8 :=
  match op with
  | 1 => (extreme true free l, 0)
  | 2 => (extreme false free l, 0)
  | _ =>
    let x := sumAll (if op = 3 then l.map fun y => (y.mul y).1 else l)
    (x.1, invalidIf x.2)

/-- VTRED. -/
def execVtred (p : Nat) (s : State) : Out :=
  vxCommand s p fun cmd =>
    let d := descOf (cmd.d 3)
    vxRun s p cmd ⟨vxFlags cmd == 0 && cmd.sel ≤ 7, true, d.dom == 0, {}, false⟩ fun r os =>
      let a := plainOf cmd 0 os
      let ls := if bitN cmd.sel 2 then transpose32 a.1 else a.1
      let vs := ls.zipIdx.map fun l => vtredVal (cmd.sel % 4) (Config.draw (Config.draw s.tick 5) l.2) l.1
      let w := plainWrites d r [vs.map (·.1)]
      ⟨w.1, w.2 ||| a.2 ||| orFlags (vs.map (·.2)), 0⟩

/-! ### VTSMAX (R240) -/

/-- A quotient, exact but for what lies strictly above its digits. -/
def fdiv (a b : FVal) : FVal × Bool :=
  match a, b with
  | .nan, _ => (.nan, false)
  | _, .nan => (.nan, false)
  | .inf _, .inf _ => (.nan, true)
  | .inf x, .fin y _ _ _ => (.inf (x != y), false)
  | .fin x _ _ _, .inf y => (.fin (x != y) 0 0 false, false)
  | .fin x ma ea _, .fin y mb eb _ =>
    if mb = 0 then (if ma = 0 then (.nan, true) else (.inf (x != y), false))
    else
      let k := Nat.log2 mb + 100
      (.fin (x != y) (ma * 2 ^ k / mb) (ea - eb - k) (ma * 2 ^ k % mb != 0), false)

/-- A row of VTSMAX; `incl` are the columns that are not excluded. DESIGN CHOICE, log 37. -/
def smaxRow (r : Rec) (incl : Nat → Bool) (row : List FVal) : List FVal × BitVec 8 :=
  let xs := row.zipIdx
  let inn := (xs.filter fun x => incl x.2).map (·.1)
  let tops := (inn.filter (· == .inf false)).length
  if row.any (·.isNan) then (row.map fun _ => .nan, flagBit 3)
  else if tops != 0 then
    (xs.map fun x => if incl x.2 && x.1 == .inf false then (fdiv (.fin false 1 0 false) (ofInt tops)).1 else fzero, 0)
  else if inn.all (· == .inf true) then (row.map fun _ => fzero, 0)
  else
    let m := inn.foldl (FVal.pick true) (.inf true)
    let es := xs.map fun x =>
      if incl x.2 then
        let y := x.1.add m.neg
        let z := r.scale.mul y.1
        let dj := r32of (z.1, y.2 || z.2)
        let ej := r32 (funVal 2 dj.1).1
        (ej.1, dj.2 ||| ej.2)
      else (fzero, 0)
    let t := sumAll (es.map (·.1))
    let sum := r32of t
    let ys := es.map fun e => fdiv e.1 sum.1
    (ys.map (·.1), orFlags (es.map (·.2)) ||| sum.2 ||| invalidIf (ys.any (·.2)))

/-- VTSMAX. -/
def execVtsmax (p : Nat) (s : State) : Out :=
  vxCommand s p fun cmd =>
    vxPlain s p cmd (vxFlags cmd ≤ 1 && cmd.sel == 0) { auxi := true } fun r a =>
      mapRows (fun i row => smaxRow r (fun j => !(bitN cmd.flg 2) || (j : Int) ≤ i + r.auxi) row) a

/-! ### VTNORM (R241) -/

/-- 1/32 of a value, exact. -/
def over32 : FVal → FVal
  | .fin s m e x => .fin s m (e - 5) x
  | v => v

/-- A row of VTNORM with the gains of its columns. -/
def normRow (r : Rec) (sel : Nat) (gain row : List FVal) : List FVal × BitVec 8 :=
  let mean := sumAll row
  let mu := if sel = 0 then (fzero, 0) else r32of (over32 mean.1, mean.2)
  let ds := row.map fun x => r32of (x.add mu.1.neg)
  let sq := sumAll (ds.map fun d => (d.1.mul d.1).1)
  let v := r32of (over32 sq.1, sq.2)
  let w := r32of (v.1.add r.auxf)
  let f := funVal 1 w.1
  let q := r32 f.1
  let ys := (ds.zip gain).map fun d =>
    let t := r32of (d.1.1.mul q.1)
    let y := t.1.mul d.2
    (y.1, t.2 ||| invalidIf y.2)
  (ys.map (·.1), mu.2 ||| orFlags (ds.map (·.2)) ||| v.2 ||| w.2 ||| f.2 ||| q.2 ||| orFlags (ys.map (·.2)))

/-- VTNORM: with D2 = 0 every gain is 1. -/
def execVtnorm (p : Nat) (s : State) : Out :=
  vxCommand s p fun cmd =>
    vxRun s p cmd ⟨vxFlags cmd == 0 && cmd.sel ≤ 1, true, (descOf (cmd.d 3)).dom == 0, { auxf := true }, cmd.d 2 != 0⟩
      fun r os =>
        let a := plainOf cmd 0 os
        let b := if cmd.d 2 = 0 then ([List.replicate 32 (FVal.fin false 1 0 false)], 0) else plainOf cmd 1 os
        writeRowsTo cmd r (mapRows (fun _ row => normRow r cmd.sel (b.1.headD []) row) a.1) (a.2 ||| b.2)

/-! ### VTCVT, VTHAAR, VTIHAAR (R242-R244) -/

/-- VTCVT: a Haar source keeps its domain, shade and TAUIX. -/
def execVtcvt (p : Nat) (s : State) : Out :=
  vxCommand s p fun cmd =>
    let a := descOf (cmd.d 1)
    let d := descOf (cmd.d 3)
    vxRun s p cmd ⟨vxFlags cmd == 0 && cmd.sel == 0, true, sameDomain a d, {}, false⟩ fun r os =>
      let o := opAt os 0
      let w := if a.dom = 0 then plainWrites d r o.vals
        else haarWrites d r .nan (shadeRows d.lvl o.shade) o.shade o.tauix o.vals
      ⟨w.1, w.2, 0⟩

/-- VTHAAR: SEL[3:0] is the shade limit. -/
def execVthaar (p : Nat) (s : State) : Out :=
  vxCommand s p fun cmd =>
    let d := descOf (cmd.d 3)
    vxRun s p cmd ⟨vxFlags cmd == 0 && (cmd.sel < d.lvl || cmd.sel == 15), true, d.dom != 0, {}, false⟩ fun r os =>
      let a := plainOf cmd 0 os
      let x := alongVectors d.dom (haarFwd d.lvl) a.1
      let w := haarWrites d r (tauOf cmd r.tauix) (shadeRows d.lvl cmd.sel) cmd.sel r.tauix x.1
      ⟨w.1, w.2 ||| a.2 ||| x.2, 0⟩

/-- VTIHAAR. -/
def execVtihaar (p : Nat) (s : State) : Out :=
  vxCommand s p fun cmd =>
    vxRun s p cmd ⟨vxFlags cmd == 0 && cmd.sel == 0, true,
        (descOf (cmd.d 1)).dom != 0 && (descOf (cmd.d 3)).dom == 0, {}, false⟩ fun r os =>
      let a := plainOf cmd 0 os
      writeRowsTo cmd r (a.1, 0) a.2

/-! ### VTCONF (R245) -/

/-- The place of the largest value of a list of values with their columns, the lowest column on equal values. -/
def bestOf (l : List (FVal × Nat)) : Option (FVal × Nat) :=
  l.foldl (fun (best : Option (FVal × Nat)) x =>
    match best with
    | none => some x
    | some b => if b.1.lt x.1 then some x else some b) none

/-- A finite value. -/
def FVal.isFin : FVal → Bool
  | .fin _ _ _ _ => true
  | _ => false

/-- The patterns of a row's four columns, flags, and whether the margin is finite. What R245 itself calls −∞ is written as
such; every other value by R226. -/
def confRow (r : Rec) (row : List FVal) : List Nat × BitVec 8 × Bool :=
  let put (v : FVal) : Nat × BitVec 8 := storeFp 1 r v
  let xs := row.zipIdx.filter fun x => !x.1.isNan
  match bestOf xs with
  | none => ([fp32.nanBits, fp32.nanBits, fp32.nanBits, fp32.nanBits], 0, false)
  | some b =>
    let next := (bestOf (xs.filter fun x => x.2 != b.2)).map (·.1)
    let m := r32of (b.1.add (next.getD (.inf true)).neg)
    let c1 : Nat × BitVec 8 := match next with
      | some v => put v
      | none => (fp32.infBits true, 0)
    let cs := [put b.1, c1, put (ofInt b.2), put m.1]
    (cs.map (·.1), m.2 ||| orFlags (cs.map (·.2)), m.1.isFin)

/-- VTCONF writes columns 0 to 3. -/
def execVtconf (p : Nat) (s : State) : Out :=
  vxCommand s p fun cmd =>
    let d := descOf (cmd.d 3)
    vxRun s p cmd ⟨vxFlags cmd == 0 && cmd.sel == 0, d.dtype == 1, d.dom == 0, {}, false⟩ fun r os =>
      let a := plainOf cmd 0 os
      let rows := a.1.map (confRow r)
      ⟨rows.zipIdx.map fun x => (d.addr + 32 * d.stride * x.2, 16, packList 32 x.1.1),
       a.2 ||| orFlags (rows.map (·.2.1)), (rows.filter (·.2.2)).length⟩

/-! ### VTKV (R246, R371-R373) -/

/-- The tile DTYPE of a region's ETYPE. -/
def kvDt (etype : Nat) : Nat := if etype = 4 then 5 else etype

/-- The fields of KVSEL. -/
structure KvSel where
  cb    : Nat
  kv    : Nat
  layer : Nat
  tok   : Nat
  ok    : Bool

/-- KVSEL as a number. -/
def kvSelOf (w : Nat) : KvSel := ⟨fieldN w 49 7, fieldN w 48 1, fieldN w 32 16, fieldN w 0 32, fieldN w 56 8 == 0⟩

/-- The bytes of a row: 32 elements of the entry of a token and layer (R372). -/
def KvDesc.rowSpan (d : KvDesc) (k : KvSel) (layer tok : Nat) : Span :=
  ((d.base + ((layer - 1) * d.tokens + tok) * 2 * d.entryBytes + k.kv * d.entryBytes + 32 * k.cb * d.elem) % 2 ^ 48,
   32 * d.elem)

/-- The fields of a VTKV that R246 admits for a region (R221 KV). -/
def kvFieldsOk (cmd : EngineCmd) (d : KvDesc) (r : Rec) : Bool :=
  let k := kvSelOf r.kvsel
  r.auxa == cmd.kvdesc.toNat && k.ok && 1 ≤ k.layer && k.layer ≤ d.layers && k.tok + 32 ≤ d.tokens && k.cb < d.dim / 32

/-- The rows of the entries that a selection names, in its own layer. -/
def kvRows (d : KvDesc) (k : KvSel) : List Span := (List.range 32).map fun i => d.rowSpan k k.layer (k.tok + i)

/-- A state byte that can be read holds a reserved state (R373, R246). -/
def reservedState (s : State) (p : Nat) (cmd : EngineCmd) (d : KvDesc) (layer tok : Nat) : Bool :=
  match engParts p cmd .read s [(d.stateAt layer tok, 1)] with
  | .ok (s1, ps) => !(partsPoisoned s1 ps) && 2 < partsRead s1 ps
  | .error _ => false

/-- The checks of VTKV up to the translation of its tile, in the order of R221: the state with what the walks have set, the
record, its selection and the descriptor. A descriptor or record that cannot be read is found by the checks of PROTECT
and MCHECK, behind what KV finds in the record alone. -/
def kvChecks (s : State) (p : Nat) (cmd : EngineCmd) (isStore : Bool) : Eng (State × Rec × KvSel × KvDesc) := do
  let t := descOf (cmd.d (if isStore then 1 else 3))
  let rows := t.rows 32 (rowBytes t.dtype)
  let dests := if isStore then [] else rows
  let prm := vxRecord cmd
  need ((if isStore then vxFlags cmd ≤ 1 else vxFlags cmd == 0) && factOk cmd (!isStore) && t.fieldOk && cmd.d 2 == 0 &&
    cmd.d (if isStore then 3 else 1) == 0) 2
  let region : Option KvDesc := match engKv s p cmd with
    | .ok d => d
    | .error _ => none
  need ((t.dtype ≤ 3 || t.dtype == 5) && region.all fun d => kvDt d.etype == t.dtype) 3
  need (t.domOk && (isStore || t.dom == 0)) 4
  let r ← recordOf s p cmd prm t.dtype { auxa := true, kvsel := true }
  need (tileAddrOk s p cmd t rows && recordAddrOk s p cmd prm) 6
  need (isStore || strideOk t (rowBytes t.dtype)) 7
  need (prm.isSome && cmd.kvdesc != 0) 10
  let kv ← engKv s p cmd
  let seen ← recordBytes s p cmd (prm.getD 1)
  let k := kvSelOf r.kvsel
  match kv, seen with
  | some d, some _ => do
    need (kvFieldsOk cmd d r) 10
    need (!(engMeetsState s p cmd d (if isStore then kvRows d k else dests))) 10
    need (isStore || (List.range 32).all fun i => !(reservedState s p cmd d k.layer (k.tok + i))) 10
    let s1 ← pinReads s p cmd (kvSpan cmd ++ recordSpan prm ++ (if isStore then t.header ++ rows else []))
    let s2 ← pinWrites s1 p cmd dests
    .ok (s2, r, k, d)
  | _, _ => do
    need (seen.isNone || (r.auxa == cmd.kvdesc.toNat && k.ok && 1 ≤ k.layer)) 10
    let s1 ← pinReads s p cmd (kvSpan cmd ++ recordSpan prm ++ (if isStore then t.header ++ rows else []))
    let _ ← pinWrites s1 p cmd dests
    .error (.status 12)

/-- A state byte: the state, its physical address and its value (R372). -/
def stateByte (s : State) (p : Nat) (cmd : EngineCmd) (d : KvDesc) (layer tok : Nat) : Eng (State × Nat × Nat) := do
  let (s1, ps) ← engParts p cmd .read s [(d.stateAt layer tok, 1)]
  need (!(partsPoisoned s1 ps)) 12
  let pa := (ps.head?.map (·.pa)).getD 0
  .ok (s1, pa, loadPhys s1 pa 1)

/-- The highest VALID layer of a token among layers 1 to `n`, 0 if there is none; none of them where a state byte on the way
cannot be read, which is MCHECK only after PROTECT (R221). -/
def engLowerValid (p : Nat) (cmd : EngineCmd) (d : KvDesc) (tok : Nat) : Nat → State → Eng (State × Option Nat)
  | 0, s => .ok (s, some 0)
  | n + 1, s => do
    let (s1, ps) ← engParts p cmd .read s [(d.stateAt (n + 1) tok, 1)]
    if partsPoisoned s1 ps then .ok (s1, none)
    else if partsRead s1 ps = 1 then .ok (s1, some (n + 1))
    else engLowerValid p cmd d tok n s1

/-- The layer that a row is read from: its own if the entry is ABSENT or VALID, a lower one as a stand-in, otherwise
the command stalls; a reserved state gives KV (R246, R373). None where a lower state byte cannot be read. -/
def kvLayer (s : State) (p : Nat) (cmd : EngineCmd) (d : KvDesc) (k : KvSel) (i : Nat) : Eng (State × Option Nat) := do
  let (s1, pa, v) ← stateByte s p cmd d k.layer (k.tok + i)
  if v ≤ 1 then .ok (s1, some k.layer)
  else if v != 2 then .error (.status 10)
  else if !d.standin then .error (.stall pa)
  else do
    let (s2, l) ← engLowerValid p cmd d (k.tok + i) (k.layer - 1) s1
    if l = some 0 then .error (.stall pa) else .ok (s2, l)

/-- The rows of a load, each with the layer it comes from, and whether the states of all of them could be read. -/
def kvLayers (p : Nat) (cmd : EngineCmd) (d : KvDesc) (k : KvSel) :
    List Nat → State → Eng (State × List (Nat × Nat) × Bool)
  | [], s => .ok (s, [], true)
  | i :: r, s => do
    let (s1, l) ← kvLayer s p cmd d k i
    let (s2, ls, ok) ← kvLayers p cmd d k r s1
    match l with
    | some l => .ok (s2, (i, l) :: ls, ok)
    | none => .ok (s2, ls, false)

/-- The backfill future of the first stand-in row (R366); a BFFUT word that may not be read gives PROTECT, and one with an
error MCHECK. DESIGN CHOICE, log 50. -/
def kvHandle (s : State) (p : Nat) (cmd : EngineCmd) (d : KvDesc) (k : KvSel) (ls : List (Nat × Nat)) :
    Eng (State × BitVec 32) :=
  match ls.find? fun x => x.2 != k.layer with
  | none => .ok (s, 0)
  | some x => do
    let span : Span := ((d.bffut + 4 * (k.tok + x.1)) % 2 ^ 48, 4)
    let s1 ← pinReads s p cmd [span]
    let s1 ← cleanReads s1 p cmd [span]
    .ok (s1, BitVec.ofNat 32 (engReadNow s1 p cmd span))

/-- The state bytes of a VTKV's entries. -/
def stateSpans (d : KvDesc) (k : KvSel) : List Span := (List.range 32).map fun i => (d.stateAt k.layer (k.tok + i), 1)

/-- The rows of a load whose state bytes can be read. -/
def cleanStates (s : State) (p : Nat) (cmd : EngineCmd) (d : KvDesc) (k : KvSel) : List Nat :=
  (List.range 32).filter fun i => !(partsPoisoned s (partsOf s p cmd .read [(d.stateAt k.layer (k.tok + i), 1)]))

/-- VTKV load (R246): the rows move as they are, byte for byte; R226 is not applied to them. The state of an entry is read
with acquire, so that no word of its row is older than what the state vouches for (R313, R322, R323). The stall of a PENDING
entry comes before the checks of the rows' pages. DESIGN CHOICE, log 50. -/
def engKvLoad (s : State) (p : Nat) (cmd : EngineCmd) : Eng (State × Result) := do
  let t := descOf (cmd.d 3)
  let (s1, _, k, d) ← kvChecks s p cmd false
  let s2 ← pinReads s1 p cmd (stateSpans d k)
  let good := cleanStates s2 p cmd d k
  let (s3, ls, readable) ← kvLayers p cmd d k good s2
  let spans := ls.map fun x => d.rowSpan k x.2 (k.tok + x.1)
  let s4 ← pinReads s3 p cmd spans
  need readable 12
  let s5 ← cleanReads s4 p cmd (kvSpan cmd ++ recordSpan (vxRecord cmd) ++ stateSpans d k ++ spans)
  let (s6, h) ← kvHandle s5 p cmd d k ls
  let ws := spans.zipIdx.map fun x => (t.addr + 32 * t.stride * x.2, x.1.2, engReadNow s6 p cmd x.1)
  cleanWrites s6 p cmd (ws.map fun w => (w.1, w.2.1))
  let n := (ls.filter fun x => x.2 != k.layer).length
  .ok (engWrite s6 p cmd [] ws, { shade := 15, aux := n, standin := n != 0, handle := h })

/-- The rows that a VTKV store moves, with flags and the tile's shade: a plain tile's as they are, a Haar tile's
reconstructed and written by R226 (R236). DESIGN CHOICE, log 50. -/
def kvStoreRows (s : State) (p : Nat) (cmd : EngineCmd) (t : Desc) (r : Rec) (rows : List Span) :
    Eng (List Nat × BitVec 8 × Nat) := do
  if t.dom = 0 then .ok (rows.map (engRead s p cmd), 0, 15)
  else do
    let o ← readOperand s p cmd t 32 rows
    let x := reconstruct t o
    let out := x.1.map fun vs => storeRow t.dtype r .nan (fun _ => false) vs
    .ok (out.map (·.1), x.2 ||| orFlags (out.map (·.2.1)), o.shade)

/-- VTKV store: the rows, then, with FLG[2], each entry's state VALID, as a release of them (R246, R373). -/
def engKvStore (s : State) (p : Nat) (cmd : EngineCmd) : Eng (State × Result) := do
  let t := descOf (cmd.d 1)
  let rows := t.rows 32 (rowBytes t.dtype)
  let (s1, r, k, d) ← kvChecks s p cmd true
  let spans := kvRows d k
  let states : List Span := if bitN cmd.flg 2 then stateSpans d k else []
  let s2 ← pinWrites s1 p cmd (spans ++ states)
  let s3 ← cleanReads s2 p cmd (kvSpan cmd ++ recordSpan (vxRecord cmd) ++ operandSpans s2 p cmd t rows)
  cleanWrites s3 p cmd (spans ++ states)
  let (vs, fl, shade) ← kvStoreRows s3 p cmd t r rows
  let ws := (vs.zip spans).map fun x => (x.2.1, x.2.2, x.1)
  .ok (engWrite s3 p cmd states (ws ++ states.map fun x => (x.1, 1, 1)), { shade := shade, flags := fl })

/-- VTKV load. -/
def execVtkvLoad (p : Nat) (s : State) : Out := vxCommand s p fun cmd => engKvLoad s p cmd

/-- VTKV store. -/
def execVtkvStore (p : Nat) (s : State) : Out := vxCommand s p fun cmd => engKvStore s p cmd

/-- VTKV_ENTRY_WAKE: a stalled VTKV looks at the entries again (R246). -/
def execVtkvEntryWake (p : Nat) (s : State) : Out :=
  let n := (coreAt s p).vx
  done s <|
    match n.stalled, n.executing with
    | some _, some cmd => addEvent (setEngine s p 1 { n with stalled := none }) (commandEvent p 1 cmd)
    | _, _ => s

end Sys2Proof.Machine
end

