-- ==== Sys2Proof/Machine/Dispatch.lean ====
section
/-!
DEFINITION. What each constructor of `Instr` does: one meaning each.
-/

namespace Sys2Proof.Machine

def exec (i : Instr) (s : State) : Host.Outcome State Fault Refusal :=
  match i with
  | .add g d a b f => Sys2Proof.Machine.execAdd g d a b f s
  | .sub g d a b f => Sys2Proof.Machine.execSub g d a b f s
  | .mul g d a b f => Sys2Proof.Machine.execMul g d a b f s
  | .mulh g d a b f => Sys2Proof.Machine.execMulh g d a b f s
  | .div g d a b f => Sys2Proof.Machine.execDiv g d a b f s
  | .rem g d a b f => Sys2Proof.Machine.execRem g d a b f s
  | .and g d a b f => Sys2Proof.Machine.execAnd g d a b f s
  | .or g d a b f => Sys2Proof.Machine.execOr g d a b f s
  | .xor g d a b f => Sys2Proof.Machine.execXor g d a b f s
  | .andn g d a b f => Sys2Proof.Machine.execAndn g d a b f s
  | .shl g d a b f => Sys2Proof.Machine.execShl g d a b f s
  | .shr g d a b f => Sys2Proof.Machine.execShr g d a b f s
  | .sha g d a b f => Sys2Proof.Machine.execSha g d a b f s
  | .rot g d a b f => Sys2Proof.Machine.execRot g d a b f s
  | .min g d a b f => Sys2Proof.Machine.execMin g d a b f s
  | .max g d a b f => Sys2Proof.Machine.execMax g d a b f s
  | .addi g d a im => Sys2Proof.Machine.execAddi g d a im s
  | .muli g d a im => Sys2Proof.Machine.execMuli g d a im s
  | .andi g d a im => Sys2Proof.Machine.execAndi g d a im s
  | .ori g d a im => Sys2Proof.Machine.execOri g d a im s
  | .xori g d a im => Sys2Proof.Machine.execXori g d a im s
  | .shli g d a im => Sys2Proof.Machine.execShli g d a im s
  | .shri g d a im => Sys2Proof.Machine.execShri g d a im s
  | .shai g d a im => Sys2Proof.Machine.execShai g d a im s
  | .roti g d a im => Sys2Proof.Machine.execRoti g d a im s
  | .mini g d a im => Sys2Proof.Machine.execMini g d a im s
  | .maxi g d a im => Sys2Proof.Machine.execMaxi g d a im s
  | .li g d im => Sys2Proof.Machine.execLi g d im s
  | .lih g d im => Sys2Proof.Machine.execLih g d im s
  | .sel g d a b f => Sys2Proof.Machine.execSel g d a b f s
  | .absd g d a b f => Sys2Proof.Machine.execAbsd g d a b f s
  | .mac g d a b f => Sys2Proof.Machine.execMac g d a b f s
  | .fadd g d a b f => Sys2Proof.Machine.execFadd g d a b f s
  | .fsub g d a b f => Sys2Proof.Machine.execFsub g d a b f s
  | .fmul g d a b f => Sys2Proof.Machine.execFmul g d a b f s
  | .ffma g d a b f => Sys2Proof.Machine.execFfma g d a b f s
  | .fmin g d a b => Sys2Proof.Machine.execFmin g d a b s
  | .fmax g d a b => Sys2Proof.Machine.execFmax g d a b s
  | .fcvt g d a f => Sys2Proof.Machine.execFcvt g d a f s
  | .funOp g d a f => Sys2Proof.Machine.execFunOp g d a f s
  | .fcmp g d a b f => Sys2Proof.Machine.execFcmp g d a b f s
  | .rsz g d m w im => Sys2Proof.Machine.execRsz g d m w im s
  | .widq g d w im => Sys2Proof.Machine.execWidq g d w im s
  | .ext g d a st => Sys2Proof.Machine.execExt g d a st s
  | .ins g d a st => Sys2Proof.Machine.execIns g d a st s
  | .bitc g d a f => Sys2Proof.Machine.execBitc g d a f s
  | .cmp g d a b f => Sys2Proof.Machine.execCmp g d a b f s
  | .cmpi g c d a im => Sys2Proof.Machine.execCmpi g c d a im s
  | .mov g d a f => Sys2Proof.Machine.execMov g d a f s
  | .vfirst g d a f => Sys2Proof.Machine.execVfirst g d a f s
  | .vlane g d a b f => Sys2Proof.Machine.execVlane g d a b f s
  | .vred g d a f => Sys2Proof.Machine.execVred g d a f s
  | .vpredAny g d a => Sys2Proof.Machine.execVpredAny g d a s
  | .vpredAll g d a => Sys2Proof.Machine.execVpredAll g d a s
  | .vpredCount g d a => Sys2Proof.Machine.execVpredCount g d a s
  | .vidx g d f => Sys2Proof.Machine.execVidx g d f s
  | .vshuf g d a b f => Sys2Proof.Machine.execVshuf g d a b f s
  | .vscan g d a b f => Sys2Proof.Machine.execVscan g d a b f s
  | .br g im => Sys2Proof.Machine.execBr g im s
  | .call g im => Sys2Proof.Machine.execCall g im s
  | .jr g a => Sys2Proof.Machine.execJr g a s
  | .callr g a => Sys2Proof.Machine.execCallr g a s
  | .loop g d im => Sys2Proof.Machine.execLoop g d im s
  | .brany g im => Sys2Proof.Machine.execBrany g im s
  | .brall g im => Sys2Proof.Machine.execBrall g im s
  | .ipf g im => Sys2Proof.Machine.execIpf g im s
  | .ldb g d a im => Sys2Proof.Machine.execLdb g d a im s
  | .ldh g d a im => Sys2Proof.Machine.execLdh g d a im s
  | .ldw g d a im => Sys2Proof.Machine.execLdw g d a im s
  | .ldd g d a im => Sys2Proof.Machine.execLdd g d a im s
  | .ldx g d a b st => Sys2Proof.Machine.execLdx g d a b st s
  | .ldg g d a b st => Sys2Proof.Machine.execLdg g d a b st s
  | .ldo g d a st o z => Sys2Proof.Machine.execLdo g d a st o z s
  | .ldt g d a im => Sys2Proof.Machine.execLdt g d a im s
  | .ldk g d a im => Sys2Proof.Machine.execLdk g d a im s
  | .pref g a im => Sys2Proof.Machine.execPref g a im s
  | .plog g d a b f => Sys2Proof.Machine.execPlog g d a b f s
  | .plogMov g d a => Sys2Proof.Machine.execPlogMov g d a s
  | .pmovR g d => Sys2Proof.Machine.execPmovR g d s
  | .pmovW g a f => Sys2Proof.Machine.execPmovW g a f s
  | .pmovFc g f => Sys2Proof.Machine.execPmovFc g f s
  | .stb g d a im => Sys2Proof.Machine.execStb g d a im s
  | .sth g d a im => Sys2Proof.Machine.execSth g d a im s
  | .stw g d a im => Sys2Proof.Machine.execStw g d a im s
  | .std g d a im => Sys2Proof.Machine.execStd g d a im s
  | .stx g d a b st => Sys2Proof.Machine.execStx g d a b st s
  | .sts g d a b st => Sys2Proof.Machine.execSts g d a b st s
  | .sto g d a st o z => Sys2Proof.Machine.execSto g d a st o z s
  | .put g d a im => Sys2Proof.Machine.execPut g d a im s
  | .rsv g d a im => Sys2Proof.Machine.execRsv g d a im s
  | .rel g d a im => Sys2Proof.Machine.execRel g d a im s
  | .faa g d a b => Sys2Proof.Machine.execFaa g d a b s
  | .swp g d a b => Sys2Proof.Machine.execSwp g d a b s
  | .cas g d a b => Sys2Proof.Machine.execCas g d a b s
  | .feset g st a im => Sys2Proof.Machine.execFeset g st a im s
  | .fetest g d a im => Sys2Proof.Machine.execFetest g d a im s
  | .enq g a e => Sys2Proof.Machine.execEnq g a e s
  | .pop g d e => Sys2Proof.Machine.execPop g d e s
  | .epeek g d e => Sys2Proof.Machine.execEpeek g d e s
  | .cxset g a r => Sys2Proof.Machine.execCxset g a r s
  | .cxgo g d => Sys2Proof.Machine.execCxgo g d s
  | .send g a b c => Sys2Proof.Machine.execSend g a b c s
  | .mrecv g d a c => Sys2Proof.Machine.execMrecv g d a c s
  | .qctl g d a st => Sys2Proof.Machine.execQctl g d a st s
  | .fnew g d a => Sys2Proof.Machine.execFnew g d a s
  | .fset g a b => Sys2Proof.Machine.execFset g a b s
  | .fget g d a st => Sys2Proof.Machine.execFget g d a st s
  | .fexp g a b => Sys2Proof.Machine.execFexp g a b s
  | .fdec g a => Sys2Proof.Machine.execFdec g a s
  | .post g d a r => Sys2Proof.Machine.execPost g d a r s
  | .roam g a => Sys2Proof.Machine.execRoam g a s
  | .pubsh g a b => Sys2Proof.Machine.execPubsh g a b s
  | .stopref g a => Sys2Proof.Machine.execStopref g a s
  | .settle g a => Sys2Proof.Machine.execSettle g a s
  | .fcancel g a b => Sys2Proof.Machine.execFcancel g a b s
  | .mon g a m => Sys2Proof.Machine.execMon g a m s
  | .monx g d a m => Sys2Proof.Machine.execMonx g d a m s
  | .waita g d a => Sys2Proof.Machine.execWaita g d a s
  | .bara g k => Sys2Proof.Machine.execBara g k s
  | .barw g k => Sys2Proof.Machine.execBarw g k s
  | .fence g d a st => Sys2Proof.Machine.execFence g d a st s
  | .start g d a b => Sys2Proof.Machine.execStart g d a b s
  | .join g a => Sys2Proof.Machine.execJoin g a s
  | .exit g => Sys2Proof.Machine.execExit g s
  | .yield g => Sys2Proof.Machine.execYield g s
  | .waitmsg g => Sys2Proof.Machine.execWaitmsg g s
  | .trap g im => Sys2Proof.Machine.execTrap g im s
  | .ctlr g d r => Sys2Proof.Machine.execCtlr g d r s
  | .ctlw g a r => Sys2Proof.Machine.execCtlw g a r s
  | .ctlx g d a r => Sys2Proof.Machine.execCtlx g d a r s
  | .mapld g a im => Sys2Proof.Machine.execMapld g a im s
  | .rtt g => Sys2Proof.Machine.execRtt g s
  | .conf g d a b => Sys2Proof.Machine.execConf g d a b s
  | .confExit g d a b => Sys2Proof.Machine.execConfExit g d a b s
  | .nop g => Sys2Proof.Machine.execNop g s
  | .iflush g a => Sys2Proof.Machine.execIflush g a s
  | .iflushAll g => Sys2Proof.Machine.execIflushAll g s
  | .tlbinvPage g a => Sys2Proof.Machine.execTlbinvPage g a s
  | .tlbinvAsid g a => Sys2Proof.Machine.execTlbinvAsid g a s
  | .tlbinvAll g => Sys2Proof.Machine.execTlbinvAll g s
  | .dbrk g c => Sys2Proof.Machine.execDbrk g c s
  | .getid g d f => Sys2Proof.Machine.execGetid g d f s
  | .bind g a c => Sys2Proof.Machine.execBind g a c s
  | .unbind g a c => Sys2Proof.Machine.execUnbind g a c s
  | .grey g a => Sys2Proof.Machine.execGrey g a s
  | .eres g e => Sys2Proof.Machine.execEres g e s
  | .limm ext w => Sys2Proof.Machine.execLimm ext w s
  | .unassignedOpcode w => Sys2Proof.Machine.execUnassignedOpcode w s
  | .patchSubstitute e => Sys2Proof.Machine.execPatchSubstitute e s
  | .accessReply k => Sys2Proof.Machine.execAccessReply k s
  | .strandRejoin k => Sys2Proof.Machine.execStrandRejoin k s
  | .repackRowWrite p => Sys2Proof.Machine.execRepackRowWrite p s
  | .repackUnlock p => Sys2Proof.Machine.execRepackUnlock p s
  | .monitorNotice k m => Sys2Proof.Machine.execMonitorNotice k m s
  | .waitaTimeout k deadline => Sys2Proof.Machine.execWaitaTimeout k deadline s
  | .barrierArrival p r rect src => Sys2Proof.Machine.execBarrierArrival p r rect src s
  | .barrierRelease lid r rect => Sys2Proof.Machine.execBarrierRelease lid r rect s
  | .takeResend k => Sys2Proof.Machine.execTakeResend k s
  | .reservationGrant w => Sys2Proof.Machine.execReservationGrant w s
  | .rsvholdTimeout k w granted => Sys2Proof.Machine.execRsvholdTimeout k w granted s
  | .mma p => Sys2Proof.Machine.execMma p s
  | .mmas p => Sys2Proof.Machine.execMmas p s
  | .mmaq p => Sys2Proof.Machine.execMmaq p s
  | .mmat p => Sys2Proof.Machine.execMmat p s
  | .accz p => Sys2Proof.Machine.execAccz p s
  | .accld p => Sys2Proof.Machine.execAccld p s
  | .accst p => Sys2Proof.Machine.execAccst p s
  | .accadd p => Sys2Proof.Machine.execAccadd p s
  | .vtmap p => Sys2Proof.Machine.execVtmap p s
  | .vtbin p => Sys2Proof.Machine.execVtbin p s
  | .vtred p => Sys2Proof.Machine.execVtred p s
  | .vtsmax p => Sys2Proof.Machine.execVtsmax p s
  | .vtnorm p => Sys2Proof.Machine.execVtnorm p s
  | .vtcvt p => Sys2Proof.Machine.execVtcvt p s
  | .vthaar p => Sys2Proof.Machine.execVthaar p s
  | .vtihaar p => Sys2Proof.Machine.execVtihaar p s
  | .vtconf p => Sys2Proof.Machine.execVtconf p s
  | .vtkvLoad p => Sys2Proof.Machine.execVtkvLoad p s
  | .vtkvStore p => Sys2Proof.Machine.execVtkvStore p s
  | .mmaqSlotTake p => Sys2Proof.Machine.execMmaqSlotTake p s
  | .vtkvEntryWake p => Sys2Proof.Machine.execVtkvEntryWake p s
  | .engineFaultTrap k val => Sys2Proof.Machine.execEngineFaultTrap k val s
  | .copy2 p id => Sys2Proof.Machine.execCopy2 p id s
  | .copy3 p id => Sys2Proof.Machine.execCopy3 p id s
  | .slab p id => Sys2Proof.Machine.execSlab p id s
  | .gather p id => Sys2Proof.Machine.execGather p id s
  | .scatter p id => Sys2Proof.Machine.execScatter p id s
  | .bcast p id => Sys2Proof.Machine.execBcast p id s
  | .reduce p id => Sys2Proof.Machine.execReduce p id s
  | .table p id => Sys2Proof.Machine.execTable p id s
  | .tableSlotWrite p id => Sys2Proof.Machine.execTableSlotWrite p id s
  | .copyChunk p id => Sys2Proof.Machine.execCopyChunk p id s
  | .copyComplete p id => Sys2Proof.Machine.execCopyComplete p id s
  | .inboxDelivery p slot val => Sys2Proof.Machine.execInboxDelivery p slot val s
  | .mailboxDelivery p cls lo hi => Sys2Proof.Machine.execMailboxDelivery p cls lo hi s
  | .queueTransfer p q => Sys2Proof.Machine.execQueueTransfer p q s
  | .roamPacketArrival id => Sys2Proof.Machine.execRoamPacketArrival id s
  | .guestAdmit p => Sys2Proof.Machine.execGuestAdmit p s
  | .taskDispatch c => Sys2Proof.Machine.execTaskDispatch c s
  | .footprintFetchDone t => Sys2Proof.Machine.execFootprintFetchDone t s
  | .recordUrgent t => Sys2Proof.Machine.execRecordUrgent t s
  | .taskRetire t => Sys2Proof.Machine.execTaskRetire t s
  | .groupMemberUpdate g code => Sys2Proof.Machine.execGroupMemberUpdate g code s
  | .confExitJobPost k => Sys2Proof.Machine.execConfExitJobPost k s
  | .backfillJobStart c => Sys2Proof.Machine.execBackfillJobStart c s
  | .backfillLayerDone j => Sys2Proof.Machine.execBackfillLayerDone j s
  | .backfillPlacementTimeout t => Sys2Proof.Machine.execBackfillPlacementTimeout t s
  | .lqpush q v => Sys2Proof.Machine.execLqpush q v s
  | .launchAdmit => Sys2Proof.Machine.execLaunchAdmit s
  | .launchStartBroadcast lid => Sys2Proof.Machine.execLaunchStartBroadcast lid s
  | .launchEnd lid => Sys2Proof.Machine.execLaunchEnd lid s
  | .watchdogExpiry lid => Sys2Proof.Machine.execWatchdogExpiry lid s
  | .greyOut lid => Sys2Proof.Machine.execGreyOut lid s
  | .restore lid => Sys2Proof.Machine.execRestore lid s
  | .faultQueuePost c => Sys2Proof.Machine.execFaultQueuePost c s
  | .freply c v => Sys2Proof.Machine.execFreply c v s
  | .fqheadWrite c v => Sys2Proof.Machine.execFqheadWrite c v s
  | .lrheadWrite v => Sys2Proof.Machine.execLrheadWrite v s
  | .futnew => Sys2Proof.Machine.execFutnew s
  | .futfree v => Sys2Proof.Machine.execFutfree v s
  | .pooldecWrite j v => Sys2Proof.Machine.execPooldecWrite j v s
  | .pcapWrite v => Sys2Proof.Machine.execPcapWrite v s
  | .attreq v => Sys2Proof.Machine.execAttreq v s
  | .attestationDone => Sys2Proof.Machine.execAttestationDone s
  | .ckptSramImage v => Sys2Proof.Machine.execCkptSramImage v s
  | .ckptWholeDeviceImage v => Sys2Proof.Machine.execCkptWholeDeviceImage v s
  | .ckptRestore v => Sys2Proof.Machine.execCkptRestore v s
  | .ckptDone result => Sys2Proof.Machine.execCkptDone result s
  | .deviceRegisterWrite off v => Sys2Proof.Machine.execDeviceRegisterWrite off v s
  | .migrationWindow => Sys2Proof.Machine.execMigrationWindow s
  | .pageMigration asid page frame => Sys2Proof.Machine.execPageMigration asid page frame s
  | .vaultRowRetire vault row => Sys2Proof.Machine.execVaultRowRetire vault row s
  | .linkFlitReceive dir flit => Sys2Proof.Machine.execLinkFlitReceive dir flit s
  | .patchTableLoad image => Sys2Proof.Machine.execPatchTableLoad image s
  | .powerOnReset origin => Sys2Proof.Machine.execPowerOnReset origin s
  | .thermalThrottle watts celsius => Sys2Proof.Machine.execThermalThrottle watts celsius s
  | .thermalShutdown => Sys2Proof.Machine.execThermalShutdown s
  | .kydbHalt p => Sys2Proof.Machine.execKydbHalt p s
  | .kydbResume p => Sys2Proof.Machine.execKydbResume p s
  | .fetchLineArrival k => Sys2Proof.Machine.execFetchLineArrival k s
  | .iflushComplete k => Sys2Proof.Machine.execIflushComplete k s
  | .tlbinvComplete k => Sys2Proof.Machine.execTlbinvComplete k s
  | .replicaRemovalDone asid page => Sys2Proof.Machine.execReplicaRemovalDone asid page s
  | .liftTheFreeze lid => Sys2Proof.Machine.execLiftTheFreeze lid s
  | .endLaunchAsHung lid => Sys2Proof.Machine.execEndLaunchAsHung lid s
  | .reservedCommand p e => Sys2Proof.Machine.execReservedCommand p e s

end Sys2Proof.Machine
end

