-- ==== Sys2Proof/Machine/Issue.lean ====
section
/-!
DEFINITION. The issue turn of a strand: a trap it owes, a breakpoint, the fetch, a patch that matches, the instruction, and
the packet of two instructions (spec/02 R58, R59, R69; spec/08 R275; spec/13 R342, R343; spec/18 R418).
-/

namespace Sys2Proof.Machine

/-! ### Packets of two (R343) -/

/-- An opcode that an instruction of a packet of two may have: 0x00-0x37 other than RSZ and WIDQ, or PLOG. -/
def packetOp (op : Nat) : Bool := (op ≤ 0x37 && op != 0x29 && op != 0x2A) || op == 0x4E

/-- ND, NA and NB of a word, which field an opcode's names stand in (R62, R63). -/
def wordNd (w : BitVec 32) : NameIx := fld 6 15 w
def wordNa (w : BitVec 32) : NameIx := fld 6 9 w
def wordNb (w : BitVec 32) : NameIx := fld 6 3 w

/-- The name that an instruction of a packet writes in ND, if it has one. -/
def wordDest (w : BitVec 32) : List NameIx :=
  let op := opOf w
  if op = 0x28 || op = 0x2E || op = 0x2F || op = 0x4E || (op = 0x34 && fieldN w.toNat 0 3 != 2) then [] else [wordNd w]

/-- The names that it has in NA and NB. -/
def wordSources (w : BitVec 32) : List NameIx :=
  let op := opOf w
  if op ≤ 0x0F || (0x1D ≤ op && op ≤ 0x25) || op = 0x28 || op = 0x2E || op = 0x32 || op = 0x36 || op = 0x37 then
    [wordNa w, wordNb w]
  else if op = 0x1B || op = 0x1C || op = 0x34 || op = 0x35 || op = 0x4E then []
  else [wordNa w]

/-- The names that it reads: those of NA and NB, other than the total of VSCAN, and ND where that is read as well. -/
def wordReads (w : BitVec 32) : List NameIx :=
  let op := opOf w
  (if op = 0x37 then [wordNa w] else wordSources w) ++
    (if op = 0x1C || op = 0x1F || op = 0x23 || op = 0x2C then [wordNd w] else [])

/-- An instruction of a packet is lane-class (R54). -/
def wordLane (m : MapCopy) (w : BitVec 32) : Bool :=
  let op := opOf w
  let lane (n : NameIx) : Bool := (nameInfo m n).any (·.isLane)
  if op = 0x4E then bitN w.toNat 18
  else if 0x31 ≤ op then true
  else if op = 0x28 || op = 0x2E || op = 0x2F then lane (wordNa w)
  else lane (wordNd w)

/-- Every name of an instruction is held in the row store: none is of kind 2 to 5. -/
def wordPlain (m : MapCopy) (w : BitVec 32) : Bool :=
  (wordDest w ++ wordSources w).all fun n => (nameInfo m n).all fun i => i.kind < 2 || 5 < i.kind

/-- The two words make one packet (R343). What a uniform-class instruction writes of the predicates is in file p, which no
lane-class one reads. -/
def packetWords (m : MapCopy) (w v : BitVec 32) : Bool :=
  packetOp (opOf w) && packetOp (opOf v) && !(wordLane m w) && wordLane m v && wordPlain m w && wordPlain m v &&
    !((wordReads v).any (wordDest w).contains)

/-- The strand that issues issues a packet of two, of which `w` is the first word: the next word stands in the same line,
without a breakpoint or a patch at it. -/
def packetOfTwo (s : State) (w : BitVec 32) : Bool :=
  let t := curStrand s
  match t.lineBuf with
  | none => false
  | some (_, _, line) =>
    let after := setCur s fun t => { t with pc := t.pc + 4, skipBrk := false }
    t.pc.toNat % 64 + 8 ≤ 64 && packetWords t.map w (lineWord line (t.pc.toNat + 4)) &&
      !(atBreak after s.cur (curStrand after)) && (patchMatch after).isNone

/-- After the first instruction of a packet of two, the strand's second one is next, unless the first trapped (R343). -/
def keepPacket (s : State) (two : Bool) (r : Out) : Out :=
  match r with
  | .next s1 =>
    let t := strandAt s1 s.cur
    if two && t.pc == (curStrand s).pc + 4 && t.tsl == (curStrand s).tsl && t.sv == (curStrand s).sv then
      .next { s1 with paired := some s.cur }
    else .next s1
  | x => x

/-! ### The issue turn -/

/-- The strand executes what it has fetched: the pair or word at its PC, or ILLEGAL for a reserved encoding (R58,
R59, R69). -/
def runFetched (s : State) (w : BitVec 32) (w2 : Option (BitVec 32)) : Out :=
  let s := { s with ir := latchOf w w2 }
  match decodeFetched w w2 with
  | .ok i => exec i s
  | .error _ => finish s (illegal s)

/-- The issue turn of the strand that issues, `second` if it is for the second instruction of its packet: a trap it owes
first, then fetch, a patch that matches, and the instruction. -/
def issueTurn (second : Bool) (s : State) : Out :=
  let t := curStrand s
  match t.pend with
  | (c, v) :: r => finish s (owedTrap s c v r)
  | [] =>
    match fetchWord s t.pc.toNat true with
    | .error e => finish s (.error e)
    | .ok (s', w) =>
      match patchMatch s' with
      | some e => exec (.patchSubstitute e) { s' with ir := ⟨w, 4⟩ }
      | none =>
        match fetchSecond s' w with
        | .error e => finish s' (.error e)
        | .ok (s'', w2) => keepPacket s'' (!second && packetOfTwo s'' w) (runFetched s'' w w2)

/-- A strand halts at a breakpoint, and with it the strands of its core (R275, R278, R328). -/
def haltAtBreak (s : State) (k : Nat) : Out :=
  exec (.kydbHalt (keyCore k))
    { setStrand s k { haltStrand s (keyCore k) (strandAt s k) with skipBrk := true } with cur := k, paired := none }

/-- A strand takes its issue turn, unless a breakpoint halts it before (R275). -/
def issue (s : State) (k : Nat) : Out :=
  if (strandAt s k).pend.isEmpty && atBreak s k (strandAt s k) then haltAtBreak s k
  else issueTurn (s.paired == some k) (beginIssue s k)

/-- A pending event happens. -/
def happen (s : State) (e : Instr) (rest : List Instr) : Out := exec e { s with agenda := rest }

end Sys2Proof.Machine
end

