-- ==== Sys2Proof/Machine/Step.lean ====
section
/-!
DEFINITION. One step of the module: an input is taken, or the oldest pending event happens, or a strand issues, or a cycle
passes. Which of those that are possible is a free value of Config (spec/13 R342; spec/19 R432, R438).
-/

namespace Sys2Proof.Machine

/-- A cycle passes, and the links send what they can (R431). -/
def passCycle (s : State) : Out := .next (pumpLinks (passTime s))

/-- An event that happens while the compute dies are powered down (R438): the hub's own. -/
def hubEvent (e : Instr) : Bool :=
  match e with
  | .powerOnReset _ | .thermalThrottle _ _ | .thermalShutdown | .deviceRegisterWrite _ _ | .pooldecWrite _ _ | .pcapWrite _
  | .attreq _ | .attestationDone | .ckptSramImage _ | .ckptWholeDeviceImage _ | .ckptRestore _ | .ckptDone _
  | .lrheadWrite _ | .lqpush _ _ | .linkFlitReceive _ _ | .patchTableLoad _ | .fqheadWrite _ _ => true
  | _ => false

/-- An event that happens in recovery (R432): a reset, and what a write through BAR0 gives rise to (R430). -/
def recoveryEvent (e : Instr) : Bool :=
  match e with
  | .powerOnReset _ | .pcapWrite _ | .attreq _ | .attestationDone | .ckptSramImage _ | .ckptWholeDeviceImage _
  | .ckptRestore _ | .ckptDone _ => true
  | _ => false

/-- One step without the compute dies: the events of the hub happen, the others come to nothing. DEDUCED, log 31. -/
def hubStep (s : State) : Out :=
  match s.agenda with
  | [] => passCycle s
  | e :: rest =>
    if (if s.hub.recovery then recoveryEvent e else hubEvent e) then happen s e rest
    else .next { s with agenda := rest }

/-- One step of the working module: the oldest event, or a strand, or the end of the cycle once no core has a strand to
issue. A woken strand rejoins rotation before anything else happens (R344). DESIGN CHOICE, log 1. -/
def workStep (s : State) : Out :=
  match s.agenda, nextIssuer s with
  | .strandRejoin k :: rest, _ => happen s (.strandRejoin k) rest
  | [], none => passCycle s
  | [], some k => issue s k
  | e :: rest, none => if Config.agendaFirst s.tick then happen s e rest else passCycle s
  | e :: rest, some k => if Config.agendaFirst s.tick then happen s e rest else issue s k

/-- One step. DESIGN CHOICE, log 1. -/
def step (s0 : State) : Host.Outcome State Fault Refusal :=
  let s := { s0 with tick := s0.tick + 1 }
  let down := !s.hub.powered || s.hub.recovery
  match s.inputs with
  | i :: rest =>
    if Config.inputNow s.tick then .next (takeInput i rest s) else if down then hubStep s else workStep s
  | [] => if down then hubStep s else workStep s

/-- The address a program placed by `withFetchWord` stands at: the spec's examples start theirs there. -/
def probePc : BitVec 48 := 0x4000_0000

/-- The line that holds an instruction's two words at its start. -/
def probeLine (nbits w : Nat) : BitVec 512 :=
  let p := tableWords nbits w
  BitVec.ofNat 512 (p.1.toNat + p.2.toNat * 2 ^ 32)

/-- A live control strand of launch 1 on core 0, about to issue from its line buffer (R290). DESIGN CHOICE, log 3. -/
def probeStrand (nbits w : Nat) : Strand :=
  { Strand.blank with pc := probePc, lid := 1, lineBuf := some (probePc.toNat / 64, 0, probeLine nbits w) }

/-- Launch 1 on logical core 0 alone, started. DESIGN CHOICE, log 3. -/
def probeLaunch : Launch :=
  { hdr := 0, hdrAddr := 0, queue := 0, asid := 0, ctx := 0, coreMap := [(0, 0)], ranges := [], fe := none,
    started := true, greying := false, frozen := false, frozenIn := [], hung := false,
    wdogLeft := 2 ^ 30, rrPos := 0, rrFull := false, rrDone := [], rrWait := [] }

/-- `s` with an instruction where the next step fetches it. A program reaches a core only by a launch (R332-R338):
this sets what a started launch would have set, one control strand with the instruction in its line buffer,
nothing pending and no patch or breakpoint in its way. DESIGN CHOICE, log 3. -/
def State.withFetchWord (s : State) (nbits w : Nat) : State :=
  { s with strands := [(0, probeStrand nbits w)], launches := [(1, probeLaunch)],
           cores := tset s.cores 0 { coreAt s 0 with lid := 1, logical := 0, issued := none }, agenda := [], breaks := [],
           inputs := [], paired := none, rsvs := [],
           hub := { s.hub with patch := [], powered := true, recovery := false } }

end Sys2Proof.Machine
end

