-- ==== Sys2Proof/Safety.lean ====
section
/-!
DEFINITION. The terms in which claims are stated: what lets an instruction run (R58), what an instruction that completes
leaves alone, and the invariant of the hub's registers (spec/18 R417; spec/19 R427, R429, R438).
-/

namespace Sys2Proof.Machine

/-- The state an instruction or event leaves, with the hub's registers as they were: only the hub's own events change
them. -/
def keepHub (s t : State) : State := { t with hub := s.hub }

/-! ### What lets an instruction of a strand run (R58) -/

/-- The guard lets an instruction's body run in these lanes: the uniform path has one copy, which a p guard enables;
a lane-class one runs in the lanes that q0 and its guard enable, whatever their number, but not in a roaming strand (R15,
R17, R53). -/
structure Enabled (s : State) (cls : Cls) (g : Guard) (lanes : List Nat) : Prop where
  notNever : neverGuard g = false
  uniform  : cls = .uniform → guardP (curStrand s) g = true ∧ lanes = [0]
  lane     : cls = .lane → roaming (curStrand s) = false ∧ lanes = enabledLanes (curStrand s) g

/-- A uniform-class instruction may run: its names are declared with kinds it admits, its guard is true, and its sources
have been read (R48, R53, R67); `s1` is the state after the reading and `xs` what was read. -/
structure UniformReady (s : State) (g : Guard) (ds srcs : List NameIx) (di is : List NameInfo) (s1 : State)
    (xs : List Src) : Prop where
  notNever : neverGuard g = false
  guard    : guardP (curStrand s) g = true
  dsts     : infos (curStrand s) ds = some di
  sources  : infos (curStrand s) srcs = some is
  dstKinds : di.all uniDst = true
  srcKinds : is.all uniSrc = true
  read     : readSrcs s is [] = .ok (s1, xs)

/-- The classes of a destination and its sources go with the instruction's class (R48, R67): none is a lane name in the
uniform path; in the lanes the destination is a lane name or index 0. -/
def classesOk (cls : Cls) (di : NameInfo) (is : List NameInfo) : Bool :=
  match cls with
  | .uniform => !di.isLane && is.all (fun i => !i.isLane)
  | .lane => di.isLane || di.kind == 8

/-- An instruction that computes one destination lane by lane may run in `lanes` (R48, R54, R67). -/
structure ComputeReady (s : State) (g : Guard) (cls : Cls) (d : NameIx) (srcs : List NameIx) (di : NameInfo)
    (is : List NameInfo) (lanes : List Nat) (s1 : State) (xs : List Src) : Prop where
  enabled : Enabled s cls g lanes
  dst     : nameInfo (curStrand s).map d = some di
  sources : infos (curStrand s) srcs = some is
  dstKind : di.dstKind = true
  srcKinds : is.all (·.srcKind) = true
  classes : classesOk cls di is = true
  read    : readSrcs s is [] = .ok (s1, xs)

/-- An instruction completes with a result in one destination: the lanes' results together, written to the destination,
the flags they set, the PC on (R36, R56, R84). -/
def Writes (i : Instr) (s s1 : State) (di : NameInfo) (lanes : List Nat) (f : Nat → LaneRes) : Prop :=
  ∀ vals flags s2, collect lanes f = .ok (vals, flags) → writeDst s1 di lanes vals = .ok s2 →
    exec i s = .next (keepHub s (advance (setCur s2 fun t => setFlags t flags)))

/-- A uniform-class instruction completes with a result in one destination (`s1` is the state before the write). -/
def WritesOne (i : Instr) (s s1 : State) (di : NameInfo) (r : LaneRes) (fin : State → State) : Prop :=
  ∀ s2, writeOne s1 di r = .ok s2 → exec i s = .next (keepHub s (fin s2))

/-- What a trap of the strand that issues leaves, its instruction having left `t`: the trap is taken, words on their way to
the strand go back, and the hub's registers are as they were (R177, R392, R393). -/
def trapped (s t : State) (cause val : Nat) : State := keepHub s (takeTrap (letGo t s.cur) s.cur cause val)

/-- A trap that leaves nothing of its instruction (R392, R393). -/
def TrapsWith (i : Instr) (s : State) (cause val : Nat) : Prop := exec i s = .next (trapped s s cause val)

/-- The instruction's strand leaves rotation and the instruction will issue again (R163). -/
def Parks (i : Instr) (s : State) (why : Park) : Prop :=
  exec i s = .next (keepHub s (parkStrand s s.cur why))

/-! ### What an instruction on names alone leaves alone -/

/-- A name held in the row store, or index 0: not an inbox, queue or stream (R26). -/
def rowName (i : NameInfo) : Bool := i.kind == 0 || i.kind == 1 || i.kind == 6 || i.kind == 8

/-- Bit `j` of the uniform bank belongs to a destination name. -/
def inUniform (t : Strand) (i : NameInfo) (j : Nat) : Prop :=
  (i.kind = 0 ∨ i.kind = 6) ∧ nameBit t i ≤ j ∧ j < nameBit t i + i.width

/-- Bit `j` of the lane banks belongs to a destination name in one of the lanes. -/
def inLanes (t : Strand) (i : NameInfo) (lanes : List Nat) (j : Nat) : Prop :=
  i.kind = 1 ∧ ∃ l ∈ lanes, 8192 * l + nameBit t i ≤ j ∧ j < 8192 * l + nameBit t i + i.width

/-- A row, by its bank (0 uniform, 1 + l lane bank l) and number, lies whole in a destination name. -/
def rowInside (t : Strand) (i : NameInfo) (lanes : List Nat) (r : Nat × Nat) : Prop :=
  ∀ j, j < 64 → (r.1 = 0 → inUniform t i (64 * r.2 + j)) ∧ (r.1 ≠ 0 → inLanes t i lanes (8192 * (r.1 - 1) + 64 * r.2 + j))

/-- Everything outside the issuing strand and the row banks of its core is as it was: memory, every other strand and
core, the rest of the core, futures, launches, the hub; no row of the banks has become bad. -/
structure OnlyStrandAndRows (s t : State) : Prop where
  memory  : ∀ a, memGet t.mem a = memGet s.mem a
  strands : ∀ k, k ≠ s.cur → tget t.strands k = tget s.strands k
  cores   : ∀ p, p ≠ curP s → coreAt t p = coreAt s p
  core    : ∃ u l b, coreAt t (curP s) = { coreAt s (curP s) with ubank := u, lbank := l, badRows := b }
  bad     : ∀ r, r ∈ (coreAt t (curP s)).badRows → r ∈ (coreAt s (curP s)).badRows
  rest    : { t with cores := s.cores, strands := s.strands } = s

/-- The issuing strand changes in nothing but its PC, the sticky flags, which are only set, its predicates where
`preds` says so, and what it held of takes, of an answer and of a breakpoint passed (R18, R56, R170, R275). -/
structure StrandKept (x y : Strand) (pc : BitVec 48) (preds : Bool) : Prop where
  pc    : y.pc = pc
  flags : ∀ i, 8 ≤ i → i < 16 → bitN x.pword.toNat i = true → bitN y.pword.toNat i = true
  p     : preds = false → ∀ i, i < 8 → bitN y.pword.toNat i = bitN x.pword.toNat i
  q     : preds = false → y.q = x.q
  rest  : { y with pc := x.pc, pword := x.pword, q := x.q, takes := x.takes, answer := x.answer,
                   skipBrk := x.skipBrk } = x

/-! ### The hub's invariant -/

/-- A value that R429 lets a pool-decoder register hold. -/
def poolDecOk (v : BitVec 64) : Bool := !(poolDecReserved v.toNat)

/-- What the hub's registers keep to at every step (R417, R427, R429, R438): the power cap lies in its range, no pool
decoder holds a reserved value, PATCHHASH is the hash of the table in force, and the throttle step is one of 0 to 15. -/
structure HubOk (h : Hub) : Prop where
  cap      : 1000 ≤ (tgetD h.dev 0x4010 0).toNat ∧ (tgetD h.dev 0x4010 0).toNat ≤ 7500
  decoders : ∀ j, j < 64 → poolDecOk (tgetD h.dev (0x3000 + 8 * j) 0) = true
  patch    : ∃ image, patchTable image = some h.patch ∧ h.patchHash = patchHashOf image
  throttle : h.throttle < 16

end Sys2Proof.Machine
end

