-- ==== Sys2Proof/Certificates/Slice0/Obligations.lean ====
section
/-!
DEFINITION. The statements about the machine: what each instruction and event does, what it leaves alone, the invariant of
the hub, and the agreement of decoder and encoder.
-/

namespace Sys2Proof.Claims
end Sys2Proof.Claims

open Sys2Proof Sys2Proof.Machine Sys2Proof.Claims

/-! ### Integer and floating-point arithmetic (spec/03) -/

namespace Sys2Proof.Claims

open Sys2Proof.Machine

/-- The format A integer instructions whose result is one exact integer of two sources (R87, R91). -/
inductive IntOp where
  | add | sub | mul | mulh | and | or | xor | andn | shl | shr | sha | min | max | absd

/-- The instruction of an operation. -/
def IntOp.instr (o : IntOp) (g : Guard) (d a b : NameIx) (f : BitVec 3) : Instr :=
  match o with
  | .add => .add g d a b f
  | .sub => .sub g d a b f
  | .mul => .mul g d a b f
  | .mulh => .mulh g d a b f
  | .and => .and g d a b f
  | .or => .or g d a b f
  | .xor => .xor g d a b f
  | .andn => .andn g d a b f
  | .shl => .shl g d a b f
  | .shr => .shr g d a b f
  | .sha => .sha g d a b f
  | .min => .min g d a b f
  | .max => .max g d a b f
  | .absd => .absd g d a b f

/-- The exact result: `x` and `y` are the sources' integers, `px` the bit pattern of NA, `w` the width of ND. -/
def IntOp.exact (o : IntOp) (w : Nat) (x y : Int) (px : Nat) : Int :=
  match o with
  | .add => x + y
  | .sub => x - y
  | .mul => x * y
  | .mulh => Int.fdiv (x * y) (2 ^ w)
  | .and => intBits (· &&& ·) x y
  | .or => intBits (· ||| ·) x y
  | .xor => intBits (· ^^^ ·) x y
  | .andn => intBits (· &&& ·) x (-y - 1)
  | .shl => x * 2 ^ (y % 64).toNat
  | .shr => (px / 2 ^ (y % 64).toNat : Nat)
  | .sha => Int.fdiv x (2 ^ (y % 64).toNat)
  | .min => Min.min x y
  | .max => Max.max x y
  | .absd => (x - y).natAbs

/-- The immediate integer instructions (R88). -/
inductive ImmOp where
  | addi | muli | andi | ori | xori | shli | shri | shai | mini | maxi

/-- The instruction of an immediate operation. -/
def ImmOp.instr (o : ImmOp) (g : Guard) (d a : NameIx) (i : Imm 9) : Instr :=
  match o with
  | .addi => .addi g d a i
  | .muli => .muli g d a i
  | .andi => .andi g d a i
  | .ori => .ori g d a i
  | .xori => .xori g d a i
  | .shli => .shli g d a i
  | .shri => .shri g d a i
  | .shai => .shai g d a i
  | .mini => .mini g d a i
  | .maxi => .maxi g d a i

/-- Whether the immediate is a shift count, which may be at most 63. -/
def ImmOp.isShift (o : ImmOp) : Bool :=
  match o with
  | .shli | .shri | .shai => true
  | _ => false

/-- The exact result of an immediate operation: `si` the immediate read as signed, `ui` as unsigned. -/
def ImmOp.exact (o : ImmOp) (x : Int) (px : Nat) (si : Int) (ui : Nat) : Int :=
  match o with
  | .addi => x + si
  | .muli => x * si
  | .andi => intBits (· &&& ·) x ui
  | .ori => intBits (· ||| ·) x ui
  | .xori => intBits (· ^^^ ·) x ui
  | .shli => x * 2 ^ ui
  | .shri => (px / 2 ^ ui : Nat)
  | .shai => Int.fdiv x (2 ^ ui)
  | .mini => Min.min x si
  | .maxi => Max.max x si

/-- The bits `p` stand for `v` in an integer name. -/
def fitted (di : NameInfo) (p : Nat) (v : Int) : Prop :=
  p < 2 ^ di.width ∧ (if di.ty = 1 then toSigned di.width p else (p : Int)) = v

/-- The class a destination name decides (code D of R54). -/
abbrev clsD (s : State) (d : NameIx) : Cls := clsOf (curStrand s) d

end Sys2Proof.Claims


/-- R83: fitting an integer to a name keeps a value of its range, traps WIDTH, saturates with f1 or wraps with f0, and
discards it at index 0. R87, R91: the exact result of every two-source integer instruction is fitted to ND by FN's mode,
in every enabled lane or in the uniform path. -/
def Obligations.IntegerResultsAreExactThenFitted : Prop :=
  (∀ (di : NameInfo) (v lo hi : Int), di.ty < 2 → 1 ≤ di.width →
      lo = (if di.ty = 1 then -2 ^ (di.width - 1) else 0) →
      hi = (if di.ty = 1 then 2 ^ (di.width - 1) - 1 else 2 ^ di.width - 1) →
      (∀ m, di.kind = 8 → fitInt di m v = .ok (0, 0)) ∧
      (∀ m, di.kind ≠ 8 → lo ≤ v → v ≤ hi → ∃ p, fitInt di m v = .ok (p, 0) ∧ fitted di p v) ∧
      (di.kind ≠ 8 → v < lo ∨ hi < v →
        fitInt di 2 v = .error (2, zpat v 64) ∧
        (∃ p, fitInt di 1 v = .ok (p, 0b10) ∧ fitted di p (if v < lo then lo else hi)) ∧
        ∃ p, fitInt di 0 v = .ok (p, 0b01) ∧ fitted di p (lo + (v - lo) % 2 ^ di.width))) ∧
  (∀ (o : IntOp) (s : State) (g : Guard) (d a b : NameIx) (f : BitVec 3) (di : NameInfo) (is : List NameInfo)
      (lanes : List Nat) (s1 : State) (xs : List Src),
      ComputeReady s g (clsD s d) d [a, b] di is lanes s1 xs → f.toNat < 4 → allInt (di :: is) = true →
      Writes (o.instr g d a b f) s s1 di lanes fun l =>
        fitInt di (modeOf f.toNat di) (o.exact di.width ((nth xs 0).int l) ((nth xs 1).int l) ((nth xs 0).pat l)))

/-- R87, R91: MAC adds the exact product to ND and fits once; ROT writes the rotated pattern with no flag; DIV truncates
toward zero and REM has the sign of the dividend, where no enabled lane has a zero divisor (there DIVZERO is the lane's
result). -/
def Obligations.MacRotateAndDivideResults : Prop :=
  ∀ (s : State) (g : Guard) (d a b : NameIx) (f : BitVec 3) (di : NameInfo) (is : List NameInfo) (lanes : List Nat)
    (s1 : State) (xs : List Src), f.toNat < 4 → allInt (di :: is) = true →
    (ComputeReady s g (clsD s d) d [d, a, b] di is lanes s1 xs → readDst di = true →
      Writes (.mac g d a b f) s s1 di lanes fun l =>
        fitInt di (modeOf f.toNat di) ((nth xs 0).int l + (nth xs 1).int l * (nth xs 2).int l)) ∧
    (ComputeReady s g (clsD s d) d [a, b] di is lanes s1 xs →
      Writes (.rot g d a b f) s s1 di lanes (fun l =>
        .ok (rotBits di.width (zpat ((nth xs 0).int l) di.width) ((nth xs 1).int l % 64).toNat, 0)) ∧
      Writes (.div g d a b f) s s1 di lanes (fun l =>
        if (nth xs 1).int l = 0 then .error (4, zpat ((nth xs 0).int l) 64)
        else fitInt di (modeOf f.toNat di) (Int.tdiv ((nth xs 0).int l) ((nth xs 1).int l))) ∧
      Writes (.rem g d a b f) s s1 di lanes fun l =>
        if (nth xs 1).int l = 0 then .error (4, zpat ((nth xs 0).int l) 64)
        else fitInt di (modeOf f.toNat di) (Int.tmod ((nth xs 0).int l) ((nth xs 1).int l)))

/-- R84, R87, R394: a zero divisor in the lowest enabled lane traps DIVZERO with the low 64 bits of the dividend, and
nothing of the instruction stands. -/
def Obligations.ZeroDivisorTrapsDivzero : Prop :=
  ∀ (s : State) (g : Guard) (d a b : NameIx) (f : BitVec 3) (di : NameInfo) (is : List NameInfo) (l : Nat)
    (lanes : List Nat) (s1 : State) (xs : List Src),
    ComputeReady s g (clsD s d) d [a, b] di is (l :: lanes) s1 xs → f.toNat < 4 → allInt (di :: is) = true →
    (nth xs 1).int l = 0 →
    TrapsWith (.div g d a b f) s 4 (zpat ((nth xs 0).int l) 64) ∧
    TrapsWith (.rem g d a b f) s 4 (zpat ((nth xs 0).int l) 64)

/-- R88: the immediate forms fit their exact result by the declared mode; ROTI writes a pattern; a shift or rotate count
above 63 traps ILLEGAL with the instruction word. -/
def Obligations.ImmediateFormsResults : Prop :=
  ∀ (s : State) (g : Guard) (d a : NameIx) (i : Imm 9) (di : NameInfo) (is : List NameInfo) (lanes : List Nat)
    (s1 : State) (xs : List Src),
    ComputeReady s g (clsD s d) d [a] di is lanes s1 xs → allInt (di :: is) = true →
    (∀ o : ImmOp, (o.isShift = true → immUnsigned i ≤ 63) →
      Writes (o.instr g d a i) s s1 di lanes fun l =>
        fitInt di di.mode (o.exact ((nth xs 0).int l) ((nth xs 0).pat l) (immSigned i) (immUnsigned i))) ∧
    (immUnsigned i ≤ 63 → Writes (.roti g d a i) s s1 di lanes fun l =>
      .ok (rotBits di.width (zpat ((nth xs 0).int l) di.width) (immUnsigned i), 0)) ∧
    (63 < immUnsigned i → TrapsWith (.roti g d a i) s 1 s.ir.word.toNat ∧
      ∀ o : ImmOp, o.isShift = true → TrapsWith (o.instr g d a i) s 1 s.ir.word.toNat)

/-- R89, R90, R109, R110, R112: constants, selection, moves, bit fields and counts. -/
def Obligations.MovesFieldsAndCountsResults : Prop :=
  ∀ (s : State) (g : Guard) (d a b : NameIx) (i : Imm 15) (f : BitVec 3) (p : BitVec 6) (di : NameInfo)
    (is : List NameInfo) (lanes : List Nat) (s1 : State) (xs : List Src),
    (ComputeReady s g (clsD s d) d [] di is lanes s1 xs → di.isInt = true →
      Writes (.li g d i) s s1 di lanes fun _ => fitInt di di.mode (immSigned i)) ∧
    (ComputeReady s g (clsD s d) d [d] di is lanes s1 xs → di.isInt = true → readDst di = true →
      immUnsigned i < 2 ^ 24 →
      Writes (.lih g d i) s s1 di lanes fun l =>
        let z := immUnsigned i * 2 ^ 40 + (nth xs 0).pat l % 2 ^ 40
        fitInt di di.mode (if di.ty = 1 then toSigned 64 z else (z : Int))) ∧
    (ComputeReady s g (clsD s d) d [a, b] di is lanes s1 xs → sameFamily (di :: is) = true →
      Writes (.sel g d a b f) s s1 di lanes fun l =>
        moveFit di di.mode (if f = 0 ∨ predOf (curStrand s) (clsD s d) l f.toNat = true then nth xs 0 else nth xs 1) l) ∧
    (ComputeReady s g (clsD s d) d [a] di is lanes s1 xs → f.toNat < 4 →
      (sameFamily (di :: is) = true →
        Writes (.mov g d a f) s s1 di lanes fun l => moveFit di (modeOf f.toNat di) (nth xs 0) l) ∧
      (allInt (di :: is) = true →
        Writes (.ext g d a p) s s1 di lanes (fun l =>
          .ok (zpat (Int.fdiv ((nth xs 0).int l) (2 ^ p.toNat)) di.width, 0)) ∧
        Writes (.bitc g d a f) s s1 di lanes fun l =>
          fitInt di di.mode (bitCount f.toNat (nth xs 0).info.width ((nth xs 0).pat l) : Nat))) ∧
    (ComputeReady s g (clsD s d) d [d, a] di is lanes s1 xs → allInt (di :: is) = true → readDst di = true →
      Writes (.ins g d a p) s s1 di lanes fun l =>
        insBits di ((nth xs 0).pat l) (nth xs 1).info ((nth xs 1).pat l) p.toNat)

/-- R92, R96-R99: floating-point results are exact, then rounded once to nearest even and fitted by the mode; FUN
writes the value of its function; FCVT rounds by FN. How FUN evaluates exp2 and log2 is the model's reading (log 41). -/
def Obligations.FloatingPointResultsRoundOnce : Prop :=
  ∀ (s : State) (g : Guard) (d a b : NameIx) (f : BitVec 3) (di : NameInfo) (is : List NameInfo) (lanes : List Nat)
    (s1 : State) (xs : List Src),
    (ComputeReady s g (clsD s d) d [a, b] di is lanes s1 xs → allFp (di :: is) = true →
      (f.toNat < 4 →
        Writes (.fadd g d a b f) s s1 di lanes (fun l =>
          fpFit di (modeOf f.toNat di) (((nth xs 0).fval l).add ((nth xs 1).fval l))) ∧
        Writes (.fsub g d a b f) s s1 di lanes (fun l =>
          fpFit di (modeOf f.toNat di) (((nth xs 0).fval l).add ((nth xs 1).fval l).neg)) ∧
        Writes (.fmul g d a b f) s s1 di lanes fun l =>
          fpFit di (modeOf f.toNat di) (((nth xs 0).fval l).mul ((nth xs 1).fval l))) ∧
      Writes (.fmin g d a b) s s1 di lanes (fun l =>
        fpFit di di.mode (FVal.pick false ((nth xs 0).fval l) ((nth xs 1).fval l), false)) ∧
      Writes (.fmax g d a b) s s1 di lanes fun l =>
        fpFit di di.mode (FVal.pick true ((nth xs 0).fval l) ((nth xs 1).fval l), false)) ∧
    (ComputeReady s g (clsD s d) d [d, a, b] di is lanes s1 xs → allFp (di :: is) = true → readDst di = true →
      f.toNat < 4 →
      Writes (.ffma g d a b f) s s1 di lanes fun l =>
        fpFit di (modeOf f.toNat di) (FVal.fma ((nth xs 0).fval l) ((nth xs 1).fval l) ((nth xs 2).fval l))) ∧
    (ComputeReady s g (clsD s d) d [a] di is lanes s1 xs →
      (allFp (di :: is) = true → f.toNat < 6 →
        Writes (.funOp g d a f) s s1 di lanes fun l =>
          fitFp di di.mode 0 (funVal f.toNat ((nth xs 0).fval l)).1 (funVal f.toNat ((nth xs 0).fval l)).2) ∧
      (fcvtOk di is = true → f.toNat < 4 →
        Writes (.fcvt g d a f) s s1 di lanes fun l =>
          if 2 ≤ di.ty then
            fitFp di di.mode f.toNat
              (if 2 ≤ (nth xs 0).info.ty then (nth xs 0).fval l else ofInt ((nth xs 0).int l)) 0
          else fpToInt di f.toNat ((nth xs 0).fval l)))

/-- R102, R111: a compare writes p in the uniform path, or q in the enabled lanes, and changes nothing else. -/
def Obligations.ComparesWritePredicates : Prop :=
  ∀ (s : State) (g : Guard) (c d f : BitVec 3) (a b : NameIx) (i : Imm 9) (cls : Cls) (ai : NameInfo)
    (is : List NameInfo) (lanes : List Nat) (s1 : State) (xs : List Src) (srcs : List NameIx),
    infos (curStrand s) srcs = some (ai :: is) → (ai :: is).all (·.srcKind) = true → d ≠ 0 →
    cls = (if ai.isLane then .lane else .uniform) → (cls = .uniform → is.all (fun x => !x.isLane) = true) →
    Enabled s cls g lanes → readSrcs s (ai :: is) [] = .ok (s1, xs) →
    (srcs = [a, b] → allInt (ai :: is) = true →
      exec (.cmp g d a b f) s = .next (keepHub s (advance (writePred s1 cls lanes d.toNat fun l =>
        intCond f.toNat ((nth xs 0).int l) ((nth xs 1).int l) ((nth xs 0).pat l) ((nth xs 1).pat l))))) ∧
    (srcs = [a, b] → allFp (ai :: is) = true →
      exec (.fcmp g d a b f) s = .next (keepHub s (advance (writePred s1 cls lanes d.toNat fun l =>
        fpCond f.toNat ((nth xs 0).fval l) ((nth xs 1).fval l))))) ∧
    (srcs = [a] → allInt (ai :: is) = true →
      exec (.cmpi g c d a i) s = .next (keepHub s (advance (writePred s1 cls lanes d.toNat fun l =>
        intCond c.toNat ((nth xs 0).int l) (immSigned i) ((nth xs 0).pat l) (immUnsigned i)))))

/-! ### Lane transfer, predicates, widths and branches (spec/01, spec/03, spec/04) -/

namespace Sys2Proof.Claims

open Sys2Proof.Machine

/-- A lane-class instruction that writes a uniform name may run. -/
structure LaneToUniformReady (s : State) (g : Guard) (d : NameIx) (srcs : List NameIx) (di : NameInfo)
    (is : List NameInfo) (lanes : List Nat) (s1 : State) (xs : List Src) : Prop where
  enabled : Enabled s .lane g lanes
  dst     : nameInfo (curStrand s).map d = some di
  sources : infos (curStrand s) srcs = some is
  dstKind : uniDst di = true
  read    : readSrcs s is [] = .ok (s1, xs)

end Sys2Proof.Claims

/-- R49, R113, R114, R115: VFIRST takes the lowest enabled lane and VLANE the lane NB names, setting the predicate;
with no such lane the predicate is cleared and nothing is moved; VRED fits the reduction of the enabled lanes;
VPRED.count counts. R49, R114: VRED.add with destination index 0 apart, the reduction of no lane is the identity: 0 for
add, or and xor, the destination's largest value for min and its smallest for max, all ones for and. -/
def Obligations.LaneTransfersToUniformNames : Prop :=
  (∀ (s : State) (g : Guard) (d a b : NameIx) (f : BitVec 3) (pa : BitVec 4) (di ai bi : NameInfo) (lanes : List Nat)
      (s1 : State) (xs : List Src), f ≠ 0 →
      (LaneToUniformReady s g d [a] di [ai] lanes s1 xs → laneName ai = true →
        (sameFamily [di, ai] = true →
          (∀ l r s2, lanes.head? = some l → writeOne s1 di (moveFit di di.mode (nth xs 0) l) = .ok s2 →
            r = advance (setCur s2 fun t => setP t f.toNat true) →
            exec (.vfirst g d a f) s = .next (keepHub s r)) ∧
          (lanes = [] → exec (.vfirst g d a f) s =
            .next (keepHub s (advance (setCur s1 fun t => setP t f.toNat false))))) ∧
        (f.toNat < 6 → redTypes f.toNat [di, ai] = true →
          WritesOne (.vred g d a f) s s1 di (reduceFit f.toNat di (nth xs 0) lanes) advance)) ∧
      (LaneToUniformReady s g d [a, b] di [ai, bi] lanes s1 xs → laneName ai = true → uniSrc bi = true → bi.isInt = true →
        sameFamily [di, ai] = true →
        (∀ l r s2, l ∈ lanes → (l : Int) = (nth xs 1).int 0 →
          writeOne s1 di (moveFit di di.mode (nth xs 0) l) = .ok s2 →
          r = advance (setCur s2 fun t => setP t f.toNat true) → exec (.vlane g d a b f) s = .next (keepHub s r)) ∧
        ((∀ l ∈ lanes, (l : Int) ≠ (nth xs 1).int 0) → exec (.vlane g d a b f) s =
          .next (keepHub s (advance (setCur s1 fun t => setP t f.toNat false))))) ∧
      (LaneToUniformReady s g d [] di [] lanes s1 xs → di.isInt = true →
        WritesOne (.vpredCount g d pa) s s1 di
          (fitInt di di.mode ((lanes.filter fun l => predQ (curStrand s1) l (pa.toNat % 8) != bitN pa.toNat 3).length : Nat))
          advance)) ∧
  (∀ (op : Nat) (di : NameInfo) (x : Src), di.ty < 2 → x.info.ty < 2 → 1 ≤ di.width → di.kind ≠ 8 → op < 6 →
      ∃ p, reduceFit op di x [] = .ok (p, 0) ∧
        p = zpat (match op with
          | 1 => if di.ty = 1 then -1 else 2 ^ di.width - 1
          | 4 => (intRange di.ty di.width).2
          | 5 => (intRange di.ty di.width).1
          | _ => 0) di.width)

/-- R15, R115-R118: VPRED any and all over the enabled lanes; VIDX gives each lane its number; VSHUF takes the lane that
NB names mod 16; VSCAN writes the running reductions and their total, or nothing. -/
def Obligations.LaneWideResults : Prop :=
  ∀ (s : State) (g : Guard) (d a b : NameIx) (dp f : BitVec 3) (pa : BitVec 4) (di ai bi : NameInfo)
    (lanes : List Nat) (s1 : State) (xs : List Src),
    (Enabled s .lane g lanes → dp ≠ 0 →
      exec (.vpredAny g dp pa) s = .next (keepHub s (advance (setCur s fun t => setP t dp.toNat
        (lanes.any fun l => predQ (curStrand s) l (pa.toNat % 8) != bitN pa.toNat 3)))) ∧
      exec (.vpredAll g dp pa) s = .next (keepHub s (advance (setCur s fun t => setP t dp.toNat
        (lanes.all fun l => predQ (curStrand s) l (pa.toNat % 8) != bitN pa.toNat 3))))) ∧
    (ComputeReady s g .lane d [] di [] lanes s1 xs → di.isInt = true → f.toNat < 4 →
      Writes (.vidx g d f) s s1 di lanes fun l => fitInt di (modeOf f.toNat di) (l : Int)) ∧
    decodeWord 0x6A42_0000 = .ok (.vidx ⟨false, 2⟩ 4 0) ∧
    (ComputeReady s g .lane d [a, b] di [ai, bi] lanes s1 xs → laneName ai = true → bi.isInt = true →
      sameFamily [di, ai] = true → f.toNat < 4 →
      Writes (.vshuf g d a b f) s s1 di lanes fun l =>
        moveFit di (modeOf f.toNat di) (nth xs 0) ((nth xs 1).int l % 16).toNat) ∧
    (Enabled s .lane g lanes → nameInfo (curStrand s).map d = some di → nameInfo (curStrand s).map a = some ai →
      nameInfo (curStrand s).map b = some bi → laneName di = true → laneName ai = true → uniDst bi = true →
      f.toNat < 6 → redTypes f.toNat [di, ai, bi] = true → readSrcs s [ai] [] = .ok (s1, xs) →
      ∀ vals total fl fl' s2 s3,
        collect lanes (fun l => reduceFit f.toNat di (nth xs 0) (lanes.filter (· ≤ l))) = .ok (vals, fl) →
        reduceFit f.toNat bi (nth xs 0) lanes = .ok (total, fl') →
        writeDst s1 di lanes vals = .ok s2 → writeDst s2 bi [0] (fun _ => total) = .ok s3 →
        exec (.vscan g d a b f) s = .next (keepHub s (advance (setCur s3 fun t => setFlags t (fl ||| fl')))))

/-- R21, R22: PLOG writes p in the uniform path and q in every enabled lane; PMOV.r gives the predicate word, PMOV.w
writes p1-p7 and the flags that FN selects and never p0, PMOV.fc clears the flags it names. -/
def Obligations.PredicateInstructionsResults : Prop :=
  ∀ (s : State) (g : Guard) (d a b : BitVec 4) (f : BitVec 2) (m : BitVec 7) (n : NameIx) (di : NameInfo)
    (is : List NameInfo) (lanes : List Nat) (s1 : State) (xs : List Src),
    (Enabled s .uniform g [0] → d.toNat < 8 → d ≠ 0 →
      let p (x : BitVec 4) : Bool := predP (curStrand s) (x.toNat % 8) != bitN x.toNat 3
      (f ≠ 3 → exec (.plog g d a b f) s = .next (keepHub s (advance (setCur s fun t => setP t d.toNat
        (if f = 0 then p a && p b else if f = 1 then p a || p b else p a != p b))))) ∧
      exec (.plogMov g d a) s = .next (keepHub s (advance (setCur s fun t => setP t d.toNat (p a))))) ∧
    (Enabled s .lane g lanes → 8 < d.toNat →
      let q (l : Nat) (x : BitVec 4) : Bool := predQ (curStrand s) l (x.toNat % 8) != bitN x.toNat 3
      (f ≠ 3 → exec (.plog g d a b f) s = .next (keepHub s (advance (setCur s fun t =>
        lanes.foldl (fun t l => setQ t l (d.toNat - 8)
          (if f = 0 then q l a && q l b else if f = 1 then q l a || q l b else q l a != q l b)) t)))) ∧
      exec (.plogMov g d a) s = .next (keepHub s (advance (setCur s fun t =>
        lanes.foldl (fun t l => setQ t l (d.toNat - 8) (q l a)) t)))) ∧
    (UniformReady s g [n] [] [di] [] s1 xs → di.isInt = true →
      WritesOne (.pmovR g n) s s1 di (fitInt di di.mode ((curStrand s1).pword.toNat : Int)) advance) ∧
    (UniformReady s g [] [n] [] is s1 xs → allInt is = true →
      exec (.pmovW g n f) s = .next (keepHub s (advance (setCur s1 fun t =>
        { t with pword := pmovWord t.pword f.toNat (zpat ((nth xs 0).int 0) 64) })))) ∧
    (Enabled s .uniform g [0] →
      exec (.pmovFc g m) s = .next (keepHub s (advance (setCur s fun t =>
        { t with pword := t.pword &&& ~~~((0 : BitVec 1) ++ m ++ (0 : BitVec 8)) }))))

/-- R22: PMOV.w never changes p0, changes p1-p7 only with bit 0 of FN and the flags only with bit 1. -/
def Obligations.PmovWritesOnlyTheSelectedHalves : Prop :=
  ∀ (w : BitVec 16) (f v i : Nat), i < 16 →
    bitN (pmovWord w f v).toNat i =
      if i = 0 then bitN w.toNat 0
      else if i < 8 then (if bitN f 0 then bitN v i else bitN w.toNat i)
      else if bitN f 1 then bitN v i else bitN w.toNat i

/-- R119-R123: branches and calls go to their targets mod 2^48; CALL writes the address of the next instruction to the
link; LOOP counts down and branches back while the counter is not 0; BRANY and BRALL decide over the present lanes.
R121: LOOP fits the counter less 1; a counter that becomes 0 goes on, any other goes back by the unsigned immediate's
words. -/
def Obligations.BranchesCallsAndLoops : Prop :=
  (∀ (s : State) (g : Guard) (a : NameIx) (i : Imm 21) (li ai : NameInfo) (lanes : List Nat) (s1 s2 : State)
      (xs : List Src),
      let pc := (curStrand s).pc
      (Enabled s .uniform g [0] →
        exec (.br g i) s = .next (keepHub s (jump s (pc + BitVec.ofInt 48 (4 * immSigned i)))) ∧
        (linkName (curStrand s) = some li →
          writeDst s li [0] (fun _ => (nextPc s (curStrand s)).toNat) = .ok s2 →
          exec (.call g i) s = .next (keepHub s (jump s2 (pc + BitVec.ofInt 48 (4 * immSigned i))))) ∧
        (∃ u, exec (.ipf g i) s = .next (keepHub s (advance u)) ∧ u.mem = s.mem ∧
          (∀ k, { strandAt u k with lineBuf := none } = { strandAt s k with lineBuf := none }) ∧
          ∀ p, { coreAt u p with l1 := [] } = { coreAt s p with l1 := [] })) ∧
      (UniformReady s g [] [a] [] [ai] s1 xs → targetName [ai] = true →
        let v := (nth xs 0).pat 0 % 2 ^ 48
        (v % 4 = 0 →
          exec (.jr g a) s = .next (keepHub s (jump s1 (BitVec.ofNat 48 v))) ∧
          (linkName (curStrand s) = some li →
            writeDst s1 li [0] (fun _ => (nextPc s1 (curStrand s1)).toNat) = .ok s2 →
            exec (.callr g a) s = .next (keepHub s (jump s2 (BitVec.ofNat 48 v))))) ∧
        (v % 4 ≠ 0 → TrapsWith (.jr g a) s 5 v)) ∧
      (Enabled s .lane g lanes →
        exec (.brany g i) s = .next (keepHub s
          (if lanes ≠ [] then jump s (pc + BitVec.ofInt 48 (4 * immSigned i)) else advance s)) ∧
        exec (.brall g i) s = .next (keepHub s
          (if lanes.length = (presentLanes (curStrand s)).length then jump s (pc + BitVec.ofInt 48 (4 * immSigned i))
           else advance s)))) ∧
  (∀ (s : State) (g : Guard) (d : NameIx) (i : Imm 9) (di : NameInfo) (s1 s2 : State) (xs : List Src) (v : Nat)
      (fl : BitVec 8), UniformReady s g [d] [d] [di] [di] s1 xs → di.kind = 0 → di.isInt = true →
      fitInt di di.mode ((nth xs 0).int 0 - 1) = .ok (v, fl) → writeOne s1 di (.ok (v, fl)) = .ok s2 →
      exec (.loop g d i) s = .next (keepHub s
        (if v = 0 then advance s2 else jump s2 ((curStrand s).pc - BitVec.ofNat 48 (4 * immUnsigned i)))))

/-- R103-R108: RSZ that keeps the width changes the map at once; one that changes it locks the rows it moves and starts the
repack, with the strand parked; each row write takes its row of the new content, the last one is followed by the unlock,
which installs the map and wakes the strand; WIDQ reads the strand's own map. -/
def Obligations.ResizeAndRepackProceed : Prop :=
  ∀ (s : State) (g : Guard) (d : NameIx) (m : BitVec 1) (w : BitVec 2) (b q : BitVec 6) (di qi : NameInfo)
    (lanes : List Nat) (p : Nat) (r : Repack) (t : Strand),
    (nameInfo (curStrand s).map d = some di → Enabled s (clsD s d) g lanes → rszStatic di g m w b = true →
      (rszWidth b = di.width → exec (.rsz g d m w b) s = .next (keepHub s (advance (setCur s fun t =>
        { t with map := rszMap t.map di.ix (rszWidth b) (rszMode di m w) })))) ∧
      (rszWidth b ≠ di.width → (coreAt s (curP s)).repack = none →
        badRowIn (coreAt s (curP s)) (di.kind == 1) (rszSpan (curStrand s) di (rszWidth b)).1
          (rszSpan (curStrand s) di (rszWidth b)).2 = none →
        ∀ vals flags, collect (if di.kind == 1 then List.range 16 else [0]) (fun l =>
            rszFit di (rszWidth b) (rszMode di m w) (rowRead (coreAt s (curP s)) (curStrand s) di l)) = .ok (vals, flags) →
          rszWidth b ≤ di.width + headroom (curStrand s) (di.kind == 1) →
          ∃ u, exec (.rsz g d m w b) s = .next (keepHub s (parkStrand u s.cur .repack)) ∧
            u.strands = s.strands ∧ u.mem = s.mem ∧ u.agenda = s.agenda ++ [.repackRowWrite (curP s)] ∧
            ∃ r, (coreAt u (curP s)).repack = some r ∧ r.flags = flags ∧ r.done = 0 ∧
              r.map = rszMap (curStrand s).map di.ix (rszWidth b) (rszMode di m w) ∧
              (r.lo, r.n) = rszSpan (curStrand s) di (rszWidth b))) ∧
    ((coreAt s p).repack = some r →
      exec (.repackRowWrite p) s = .next (keepHub s (addEvent
        (setCore s p { repackRow (coreAt s p) r with repack := some { r with done := r.done + 1 } })
        (if r.done + 1 < r.n then .repackRowWrite p else .repackUnlock p))) ∧
      (tget s.strands r.key = some t →
        exec (.repackUnlock p) s = .next (keepHub s (wakeWhere
          (setStrand (setCore s p { coreAt s p with repack := none }) r.key
            (setFlags { t with map := r.map, pc := r.next, skipBrk := false } r.flags))
          fun k _ why => keyCore k == p && why == .repack)))) ∧
    (nameInfo (curStrand s).map q = some qi → (w.toNat < 2 ∨ q = 0) → di.isInt = true →
      ∀ s1 xs, UniformReady s g [d] [] [di] [] s1 xs →
        WritesOne (.widq g d w q) s s1 di (fitInt di di.mode (widqValue (curStrand s) w.toNat q.toNat qi : Nat))
          advance)

/-! ### Loads, stores, atomics and full/empty words (spec/05) -/

namespace Sys2Proof.Claims

open Sys2Proof.Machine

/-- The state after an instruction whose accesses are done: it goes on, or, where one of them left the core's own near
windows, its strand is out of rotation until the reply with the PC already advanced (R163). Its writes to device registers
are made one after the other: the first is an event, and the strand keeps the rest (R316, R427). -/
def accessEnd (s0 s : State) (far : Bool) : State :=
  if far then
    match (s.agenda.drop s0.agenda.length).filter isDeviceWrite with
    | [] => parkStrand (addEvent (advance s) (.accessReply s.cur)) s0.cur .reply
    | w :: ws =>
      let first := s0.agenda ++ (s.agenda.drop s0.agenda.length).filter (fun e => !(isDeviceWrite e)) ++ [w]
      parkStrand (addEvent (advance { s with agenda := first }) (.accessReply s.cur)) s0.cur (.device (w :: ws))
  else advance s

/-- A load or store form: its instruction is `.. d a (b)`; what it needs to be told apart. -/
inductive MemForm where
  | imm (i : Imm 9) (z : BitVec 2)
  | indexed (b : NameIx) (z : BitVec 2)
  | gather (b : NameIx) (z : BitVec 2)
  | ordered (sc : BitVec 3) (o z : BitVec 2)

/-- The load of a form. -/
def MemForm.load (x : MemForm) (g : Guard) (d a : NameIx) : Instr :=
  match x with
  | .imm i z => if z = 0 then .ldb g d a i else if z = 1 then .ldh g d a i else if z = 2 then .ldw g d a i else .ldd g d a i
  | .indexed b z => .ldx g d a b z
  | .gather b z => .ldg g d a b z
  | .ordered sc o z => .ldo g d a sc o z

/-- The store of a form. -/
def MemForm.store (x : MemForm) (g : Guard) (d a : NameIx) : Instr :=
  match x with
  | .imm i z => if z = 0 then .stb g d a i else if z = 1 then .sth g d a i else if z = 2 then .stw g d a i else .std g d a i
  | .indexed b z => .stx g d a b z
  | .gather b z => .sts g d a b z
  | .ordered sc o z => .sto g d a sc o z

/-- The size of an access in bytes (R64). -/
def MemForm.size (x : MemForm) : Nat :=
  match x with
  | .imm _ z | .indexed _ z | .gather _ z | .ordered _ _ z => 2 ^ z.toNat

/-- The address sources. -/
def MemForm.srcs (x : MemForm) (a : NameIx) : List NameIx :=
  match x with
  | .indexed b _ | .gather b _ => [a, b]
  | _ => [a]

/-- The effective address of a lane, from the address sources (R160): the base plus the scaled immediate or index, mod
2^48. -/
def MemForm.address (x : MemForm) (xs : List Src) (l : Nat) : Nat :=
  let base := ((nth xs 0).pat l : Int)
  ((match x with
    | .imm i z => base + immSigned i * 2 ^ z.toNat
    | .indexed _ z | .gather _ z => base + (nth xs 1).int l * 2 ^ z.toNat
    | .ordered _ _ _ => base) % 2 ^ 48).toNat

/-- The class of a form: gathers and scatters are lane-class, the others follow ND (R54, R168). -/
def MemForm.cls (x : MemForm) (s : State) (d : NameIx) : Cls :=
  match x with
  | .gather _ _ => .lane
  | _ => clsD s d

/-- Ordered accesses reach fewer windows (R162). -/
def MemForm.group (x : MemForm) : Grp :=
  match x with
  | .ordered _ _ _ => .ordered
  | _ => .plain

/-- What the form asks of its fields and sources: scopes up to 5 and no order 3; a uniform base (R168, R169). -/
def MemForm.legal (x : MemForm) (is : List NameInfo) : Bool :=
  match x with
  | .ordered sc o _ => sc.toNat ≤ 5 && o != 3
  | .gather _ _ => uniformBase is
  | _ => true

/-- An access instruction may run, and its lanes' accesses have passed both passes of R167: `eas` are the lanes with
their addresses, `s2` the state after the checks, `ts` where the accesses go. -/
structure AccessReady (s : State) (g : Guard) (x : MemForm) (write : Bool) (d a : NameIx) (di : NameInfo)
    (is : List NameInfo) (lanes : List Nat) (s1 s2 : State) (xs : List Src) (eas : List (Nat × Nat))
    (ts : List Touch) : Prop where
  enabled : Enabled s (x.cls s d) g lanes
  dst     : nameInfo (curStrand s).map d = some di
  sources : infos (curStrand s) (x.srcs a) = some is
  kind    : (if write then di.srcKind else di.dstKind) = true
  size    : sizeOk di x.size = true
  legal   : x.legal is = true
  classes : accessKinds (x.cls s d) true di is = true
  read    : readSrcs s (if write then di :: is else is) [] = .ok (s1, xs)
  places  : eas = lanes.map fun l => (l, x.address (if write then xs.drop 1 else xs) l)
  checks  : checkAll s s1 x.group [if write then .write else .read] x.size (if write then 1 else 0) eas = .ok (s2, ts)

end Sys2Proof.Claims

/-- R160, R164, R167-R169, R106: where no repack has locked ND's rows, a load reads each enabled lane's bytes and fits
them to ND, and with locked rows it parks before any of its accesses is checked; order 2 above strand scope first waits
for the strand's earlier stores; an access that leaves the core's own near windows takes its strand out of rotation
until the reply. R176: PREF never traps or parks once its static checks have passed, whatever its name holds, and
changes no memory, no strand but its own PC, and nothing of a core but the translations its D-TLB holds. That a remote
access moves its value at issue is the model's reading (logs 8, 9). -/
def Obligations.LoadsFitWhatTheyReadAndPrefOnlyAdvances : Prop :=
  (∀ (s : State) (g : Guard) (x : MemForm) (d a : NameIx) (di : NameInfo) (is : List NameInfo) (lanes : List Nat)
      (s1 s2 s2' s3 s4 : State) (xs : List Src) (eas : List (Nat × Nat)) (ts : List Touch) (vs : List (Nat × Nat))
      (vals : Nat → Nat) (fl : BitVec 8),
      nameLocked (coreAt s (curP s)) (curStrand s) di = false →
      AccessReady s g x false d a di is lanes s1 s2 xs eas ts → readable s2 ts x.size = .ok () →
      (match x with
        | .ordered sc o _ => if o = 2 ∧ sc ≠ 0 then settleStores s2 else .ok s2
        | _ => .ok s2) = .ok s2' →
      readTouches x.size s2' ts = .ok (s3, vs) →
      collect lanes (fun l => loadFit di x.size (laneVal vs l)) = .ok (vals, fl) → writeDst s3 di lanes vals = .ok s4 →
      exec (x.load g d a) s = .next (keepHub s (accessEnd s
        (setCur (match x with
          | .ordered _ o _ => if o = 0 then s4 else progressCur s4
          | _ => s4) fun t => setFlags t fl) (anyFar eas)))) ∧
  (∀ (s : State) (g : Guard) (x : MemForm) (d a : NameIx) (di : NameInfo) (is : List NameInfo) (lanes : List Nat)
      (s1 : State) (xs : List Src),
      Enabled s (x.cls s d) g lanes → nameInfo (curStrand s).map d = some di →
      infos (curStrand s) (x.srcs a) = some is → di.dstKind = true → sizeOk di x.size = true → x.legal is = true →
      accessKinds (x.cls s d) true di is = true → readSrcs s is [] = .ok (s1, xs) →
      nameLocked (coreAt s (curP s)) (curStrand s) di = true → Parks (x.load g d a) s .repack) ∧
  (∀ (s : State) (g : Guard) (a : NameIx) (i : Imm 9) (ai : NameInfo), Enabled s .uniform g [0] →
      infos (curStrand s) [a] = some [ai] → uniSrc ai = true → ai.isInt = true →
      (∀ s1 xs, readSrcs s [ai] [] = .ok (s1, xs) →
        ∃ u, exec (.pref g a i) s = .next (keepHub s (advance u)) ∧ u.mem = s1.mem ∧ u.strands = s1.strands ∧
          ∀ p, { coreAt u p with dtlb := [] } = { coreAt s1 p with dtlb := [] }) ∧
      (∀ e, readSrcs s [ai] [] = .error e → exec (.pref g a i) s = .next (keepHub s (advance s))))

/-- R160, R165, R167-R169, R286: a store fits ND to the access size and writes each enabled lane's bytes in order of
lane; a release above strand scope first waits for the strand's earlier stores, the write-merge buffer drained, and so
does a push of a launch header (R427). That a store reaches memory at its issue is the model's reading (logs 8, 9). -/
def Obligations.StoresWriteWhatTheyFit : Prop :=
  ∀ (s : State) (g : Guard) (x : MemForm) (d a : NameIx) (di : NameInfo) (is : List NameInfo) (lanes : List Nat)
    (s1 s2 s3 s4 : State) (xs : List Src) (eas : List (Nat × Nat)) (ts : List Touch) (vals : Nat → Nat)
    (fl : BitVec 8),
    AccessReady s g x true d a di is lanes s1 s2 xs eas ts → stateGuard s2 x.size ts = .ok () →
    overwritable s2 ts x.size = .ok () →
    collect lanes (fun l => storeFit x.size (nth xs 0) l) = .ok (vals, fl) →
    (if ts.any isPush then release s2 else
      match x with
      | .ordered sc o _ => orderedPre sc o s2
      | _ => relaxed s2) = .ok s3 →
    writeTouches (plainWrite x.size) vals s3 ts = .ok s4 →
    exec (x.store g d a) s = .next (keepHub s (accessEnd s (setCur s4 fun t => setFlags t fl) (anyFar eas)))

/-- R170-R173, R106: where no repack has locked its rows, LDT takes words that are full and sets them empty, a lane
that was granted its word before keeping its value unchecked, and with locked rows parks before it asks for one; PUT
writes and fills; FESET sets a word's state and nothing else; FETEST reads it into a predicate. That a remote access
acts at issue is the model's reading (log 9). -/
def Obligations.FullEmptyInstructionsResults : Prop :=
  ∀ (s : State) (g : Guard) (d a : NameIx) (dp : BitVec 3) (i : Imm 9) (di ai : NameInfo) (lanes : List Nat)
    (s1 s2 s3 s4 s5 : State) (xs : List Src) (ts : List Touch) (vals : Nat → Nat) (fl : BitVec 8) (ea w : Nat)
    (leaf : Option Nat),
    (Enabled s (clsD s d) g lanes → nameInfo (curStrand s).map d = some di → infos (curStrand s) [a] = some [ai] →
      sizeOk di 8 = true → accessKinds (clsD s d) true di [ai] = true →
      let eas := lanes.map fun l => (l, immAddr 8 i (xs.drop 1) l)
      let eas' := lanes.map fun l => (l, immAddr 8 i xs l)
      (di.dstKind = true → readSrcs s [ai] [] = .ok (s1, xs) →
        (nameLocked (coreAt s (curP s)) (curStrand s) di = true → Parks (.ldt g d a i) s .repack) ∧
        (nameLocked (coreAt s (curP s)) (curStrand s) di = false →
        checkAll s s .take [.read, .write] 8 0 (eas'.filter fun e => (takenBy (curStrand s) e.1 e.2).isNone) =
          .ok (s2, ts) → takeable s2 ts = .ok () → awaitTakes s2 (ts.map (takeFor (curStrand s))) = .ok s3 →
        collect lanes (fun l => loadFit di 8 (laneTaken (curStrand s3) eas' l)) = .ok (vals, fl) →
        readSrcs s3 [ai] [] = .ok (s4, xs) → writeDst s4 di lanes vals = .ok s5 →
        exec (.ldt g d a i) s = .next (keepHub s (accessEnd s (setCur (progressCur s5) fun t => setFlags t fl)
          (anyFar eas'))))) ∧
      (di.srcKind = true → readSrcs s [di, ai] [] = .ok (s1, xs) →
        checkAll s s1 .take [.write] 8 1 eas = .ok (s2, ts) → stateGuard s2 8 ts = .ok () →
        overwritable s2 ts 8 = .ok () → collect lanes (fun l => storeFit 8 (nth xs 0) l) = .ok (vals, fl) →
        release s2 = .ok s3 → writeTouches putWrite vals s3 ts = .ok s4 →
        exec (.put g d a i) s = .next (keepHub s (accessEnd s (setCur s4 fun t => setFlags t fl) (anyFar eas))))) ∧
    (UniformReady s g [] [a] [] [ai] s1 xs → ai.isInt = true → ea = immAddr 8 i xs 0 →
      (checkAll s s1 .take [.write] 8 1 [(0, ea)] = .ok (s2, [⟨0, ea, .mem w leaf⟩]) →
        exec (.feset g 0 a i) s = .next (keepHub s (accessEnd s (emptyWord s2 w) (!(isOwn ea)))) ∧
        (release s2 = .ok s3 →
          exec (.feset g 1 a i) s = .next (keepHub s (accessEnd s (fillWord s3 w) (!(isOwn ea)))))) ∧
      (dp ≠ 0 → checkAll s s1 .take [.read] 8 0 [(0, ea)] = .ok (s2, [⟨0, ea, .mem w leaf⟩]) →
        exec (.fetest g dp a i) s = .next (keepHub s (accessEnd s
          (setCur s2 fun t => setP t dp.toNat (wordFull s2 w)) (!(isOwn ea))))))

/-- R173, R46: setting a word empty leaves every byte of memory as it is, makes that word read empty and leaves the state
of every other word alone; filling a word on which no take is deferred makes it read full, likewise. -/
def Obligations.WordStateChangesOnlyThatWord : Prop :=
  ∀ (s : State) (pa w : Nat),
    (wordFull (emptyWord s pa) w = if w / 8 = pa / 8 then false else wordFull s w) ∧
    (∀ a, memGet (emptyWord s pa).mem a = memGet s.mem a) ∧
    ((∀ d ∈ s.deferred, d.1 ≠ pa / 8 * 8) →
      (wordFull (fillWord s pa) w = if w / 8 = pa / 8 then true else wordFull s w) ∧
      ∀ a, memGet (fillWord s pa).mem a = memGet s.mem a)

/-- R177-R181, R106: on a word forwarded to its strand, RSV reads and holds it, REL writes it and lets it go on, and
FAA, SWP and CAS read and write it as one step and let it go on; where a repack has locked the rows of their
destination, RSV, FAA, SWP and CAS, which reads it, park before they ask for the word. That a remote access acts at
issue is the model's reading (log 9), and so is what EVAL of a WIDTH trap holds (log 40); that a CAS whose compare
fails writes the old value back is its choice (log 51). -/
def Obligations.ReservationFormsResults : Prop :=
  ∀ (s : State) (g : Guard) (d a b : NameIx) (i : Imm 9) (di ai bi : NameInfo) (s1 s2 s3 s4 s5 s6 : State)
    (xs : List Src) (w ea granted : Nat) (leaf : Option Nat) (r : Nat × BitVec 8) (q : Rsv),
    (UniformReady s g [d] [a] [di] [ai] s1 xs → ai.isInt = true → sizeOk di 8 = true →
      (curStrand s1).holds = none → ea = immAddr 8 i xs 0 →
      (nameLocked (coreAt s1 (curP s1)) (curStrand s1) di = true → Parks (.rsv g d a i) s .repack) ∧
      (nameLocked (coreAt s1 (curP s1)) (curStrand s1) di = false →
      atomicAt s [.read] ea = .ok (s2, ⟨0, ea, .mem w leaf⟩) → claimWord s2 w = .mine s3 →
      tget s3.rsvs w = some q → granted = q.granted → loadFit di 8 (loadPhys s3 w 8) = .ok r →
      readSrcs s3 [(nth xs 0).info] [] = .ok (s4, xs) → writeOne s4 di (.ok r) = .ok s5 →
      s6 = setCur (countTouch { s5 with rsvs := tmap s5.rsvs fun x y => if x = w then { y with forwarded := false } else y }
        ⟨0, ea, .mem w leaf⟩ false) (fun t => { t with holds := some (w, BitVec.ofNat 48 ea, granted) }) →
      exec (.rsv g d a i) s = .next (keepHub s (accessEnd s
        (addEvent (progressCur s6) (.rsvholdTimeout s3.cur w granted)) (!(isOwn ea)))))) ∧
    (UniformReady s g [] [d, a] [] [di, ai] s1 xs → ai.isInt = true → sizeOk di 8 = true →
      ea = immAddr 8 i (xs.drop 1) 0 → (curStrand s1).holds = some (w, BitVec.ofNat 48 ea, granted) →
      checkAll s s1 .atomic [.write] 8 1 [(0, ea)] = .ok (s2, [⟨0, ea, .mem w leaf⟩]) →
      stateGuard s2 8 [⟨0, ea, .mem w leaf⟩] = .ok () → storeFit 8 (nth xs 0) 0 = .ok r → release s2 = .ok s3 →
      exec (.rel g d a i) s = .next (keepHub s (accessEnd s
        (releaseWord (setCur (storePhys (countTouch s3 ⟨0, ea, .mem w leaf⟩ true) (some s3.cur) w 8 r.1) fun t =>
          setFlags { t with holds := none } r.2) w) (!(isOwn ea))))) ∧
    (ai.isInt = true → bi.isInt = true → UniformReady s g [d] [a, b] [di] [ai, bi] s1 xs →
      (nameLocked (coreAt s (curP s)) (curStrand s) di = true →
        Parks (.faa g d a b) s .repack ∧ Parks (.swp g d a b) s .repack) ∧
      (readDst di = true → infos (curStrand s) [a, b, d] = some [ai, bi, di] →
        readSrcs s [ai, bi, di] [] = .error (.park .repack none) → Parks (.cas g d a b) s .repack)) ∧
    (ea = ((nth xs 0).pat 0 % 2 ^ 48 : Nat) → ai.isInt = true → bi.isInt = true →
      nameLocked (coreAt s (curP s)) (curStrand s) di = false →
      atomicAt s [.read, .write] ea = .ok (s2, ⟨0, ea, .mem w leaf⟩) →
      stateGuard s2 8 [⟨0, ea, .mem w leaf⟩] = .ok () →
      claimWord s2 w = .mine s3 → release s3 = .ok s4 →
      let old := loadPhys s4 w 8
      let after (new : Nat) : State :=
        releaseWord (storePhys (countTouch s4 ⟨0, ea, .mem w leaf⟩ true) (some s4.cur) w 8 new) w
      oldFit di old = .ok r →
      (UniformReady s g [d] [a, b] [di] [ai, bi] s1 xs →
        (∀ s5 s6 xs', readSrcs (after (zpat ((old : Int) + (nth xs 1).int 0) 64)) (xs.map (·.info)) [] = .ok (s5, xs') →
          writeOne s5 di (.ok r) = .ok s6 →
          exec (.faa g d a b) s = .next (keepHub s (accessEnd s s6 (!(isOwn ea))))) ∧
        (∀ s5 s6 xs', readSrcs (after (zpat ((nth xs 1).int 0) 64)) (xs.map (·.info)) [] = .ok (s5, xs') →
          writeOne s5 di (.ok r) = .ok s6 →
          exec (.swp g d a b) s = .next (keepHub s (accessEnd s s6 (!(isOwn ea)))))) ∧
      (UniformReady s g [d] [a, b, d] [di] [ai, bi, di] s1 xs → readDst di = true →
        (∀ s5 s6 xs', readSrcs (after (if srcWord s (nth xs 2) = old then zpat ((nth xs 1).int 0) 64 else old))
            (xs.map (·.info)) [] = .ok (s5, xs') → writeOne s5 di (.ok r) = .ok s6 →
          exec (.cas g d a b) s = .next (keepHub s (accessEnd s s6 (!(isOwn ea)))))))

/-- R174, R366, R373, R106: where no repack has locked ND's rows, LDK resolves each lane against the region that KVDESC
names, as captured at its issue, and with locked rows it parks before it captures KVDESC; a lane served by a stand-in
sets f7 and leaves the backfill future's handle in a strand that has none. That a remote access acts at issue is the
model's reading (log 9). -/
def Obligations.LdkResolvesEachLane : Prop :=
  ∀ (s : State) (g : Guard) (d a : NameIx) (i : Imm 9) (di ai : NameInfo) (lanes : List Nat) (s1 s2 s3 s4 : State)
    (xs : List Src) (desc : KvDesc) (vs : List (Nat × Nat)) (h : Option (BitVec 32)) (vals : Nat → Nat) (fl : BitVec 8),
    Enabled s (clsD s d) g lanes → nameInfo (curStrand s).map d = some di → infos (curStrand s) [a] = some [ai] →
    di.dstKind = true → sizeOk di 8 = true → accessKinds (clsD s d) true di [ai] = true →
    readSrcs s [ai] [] = .ok (s1, xs) →
    let kv := match (curStrand s).answer with
      | some (.kvdesc v) => v.toNat
      | _ => ctlOf (coreAt s (curP s)) 0x0D
    (nameLocked (coreAt s (curP s)) (curStrand s) di = true → Parks (.ldk g d a i) s .repack) ∧
    (nameLocked (coreAt s (curP s)) (curStrand s) di = false → kv ≠ 0 →
    (∀ l ∈ lanes, immAddr 8 i xs l % 8 = 0) → strandKv s s1 kv = .ok (s2, desc) →
    kvLoads s kv desc s2 (lanes.map fun l => (l, immAddr 8 i xs l)) = .ok (s3, vs, h) →
    collect lanes (fun l => loadFit di 8 (laneVal vs l)) = .ok (vals, fl) → writeDst s3 di lanes vals = .ok s4 →
    exec (.ldk g d a i) s = .next (keepHub s (accessEnd s (setCur (progressCur s4) fun t =>
      (match h with
        | none => setFlags t fl
        | some h => { setFlags (setFlags t fl) 0x80 with standIn := if t.standIn = 0 then h else t.standIn }))
      (!(isOwn kv) || anyFar (lanes.map fun l => (l, immAddr 8 i xs l))))))

/-- R161, R167: a misaligned address of an enabled lane of a load or store traps ALIGN with that address, nothing having been
read or written; the lowest such lane decides where every lane before it has passed the first pass: its address is aligned, and
is far or names a near window that the form may reach. -/
def Obligations.MisalignedAccessTrapsAlign : Prop :=
  ∀ (s : State) (g : Guard) (x : MemForm) (d a : NameIx) (di : NameInfo) (is : List NameInfo) (l : Nat)
    (before after : List Nat) (s1 : State) (xs : List Src), Enabled s (x.cls s d) g (before ++ l :: after) →
    nameInfo (curStrand s).map d = some di → infos (curStrand s) (x.srcs a) = some is → sizeOk di x.size = true →
    x.legal is = true → accessKinds (x.cls s d) true di is = true →
    (di.dstKind = true → readSrcs s is [] = .ok (s1, xs) →
      nameLocked (coreAt s (curP s)) (curStrand s) di = false → x.address xs l % x.size ≠ 0 →
      (∀ j ∈ before, ∃ t, passOne s1 x.group x.size (x.address xs j) = .ok t) →
      TrapsWith (x.load g d a) s 5 (x.address xs l)) ∧
    (di.srcKind = true → readSrcs s (di :: is) [] = .ok (s1, xs) → x.address (xs.drop 1) l % x.size ≠ 0 →
      (∀ j ∈ before, ∃ t, passOne s1 x.group x.size (x.address (xs.drop 1) j) = .ok t) →
      TrapsWith (x.store g d a) s 5 (x.address (xs.drop 1) l))

/-! ### Strands, monitors, barriers, traps and control registers (spec/01, spec/04, spec/17) -/

/-- R124-R129: START begins a helper in the lowest free slot of 1 to 12 with the regions of its image zeroed, or
answers 0; JOIN on a slot with no live helper goes on; EXIT frees the slot, and a control strand's EXIT waits while a
helper lives. R128: a slot that EXIT frees holds no strand any more. That START asks for integer names is the model's
reading (log 11). -/
def Obligations.StartJoinAndExit : Prop :=
  (∀ (s : State) (g : Guard) (d a b : NameIx) (di ai bi : NameInfo) (s1 s2 : State) (xs : List Src) (m : MapCopy),
      (UniformReady s g [d] [a, b] [di] [ai, bi] s1 xs → curSlot s = 0 → allInt [ai, bi] = true →
        (nth xs 0).pat 0 % 2 ^ 48 % 4 = 0 → startImage s1 (nth xs 1) = .ok m → release s1 = .ok s2 →
        (∀ slot u l s3, helperSlot s1 (curP s1) = some slot → findRegions s1 (curP s1) m none = .ok (u, l) →
          writeOne (setStrand
              { setCore s2 (curP s1) (zeroRegions (coreAt s2 (curP s1)) u (uniformSize m) l (laneSize m)) with
                nextUid := s2.nextUid + 1 }
              (16 * curP s1 + slot) (helperOf
                (setCore s2 (curP s1) (zeroRegions (coreAt s2 (curP s1)) u (uniformSize m) l (laneSize m)))
                (BitVec.ofNat 48 ((nth xs 0).pat 0 % 2 ^ 48)) m u l)) di (fitEither di slot) = .ok s3 →
          exec (.start g d a b) s = .next (keepHub s (advance s3))) ∧
        (∀ s3, helperSlot s1 (curP s1) = none → writeOne s2 di (fitEither di 0) = .ok s3 →
          exec (.start g d a b) s = .next (keepHub s (advance s3)))) ∧
      (UniformReady s g [] [a] [] [ai] s1 xs → curSlot s = 0 → 1 ≤ srcInt s (nth xs 0) → srcInt s (nth xs 0) ≤ 12 →
        (helperLive s1 (curP s1) (srcInt s (nth xs 0)).toNat = false →
          exec (.join g a) s = .next (keepHub s (advance (progressCur s1)))) ∧
        (helperLive s1 (curP s1) (srcInt s (nth xs 0)).toNat = true →
          Parks (.join g a) s (.join (srcInt s (nth xs 0)).toNat))) ∧
      (Enabled s .uniform g [0] → (curStrand s).holds = none →
        ((curSlot s = 0 → helpersLive s (curP s) = false) → release s = .ok s1 →
          exec (.exit g) s = .next (keepHub s (retireTask (freeSlot s1 s1.cur) (curStrand s)))) ∧
        (curSlot s = 0 → helpersLive s (curP s) = true → Parks (.exit g) s .helpers))) ∧
  (∀ (s t : State) (g : Guard), Enabled s .uniform g [0] → (curStrand s).holds = none →
      (curSlot s = 0 → helpersLive s (curP s) = false) → (coreAt s (curP s)).wmb = [] → writesWaiting s s.cur = false →
      exec (.exit g) s = .next t →
      slotFree t (curP s) (curSlot s) = true ∧ ∀ k, k ≠ s.cur → (tget t.strands k).isSome = (tget s.strands k).isSome)

/-- R130-R132, R154: YIELD and NOP only advance; BIND gives a class to a live slot, which a message already present
wakes, and UNBIND takes it away, and a roaming strand may use neither (R124); WAITMSG goes on when a message of a class
bound to its slot is present and parks otherwise. When a strand that yielded issues again (log 45), and that BIND and
UNBIND read the integer of a name of any type (log 11), are the model's readings. -/
def Obligations.YieldBindAndWaitForMessages : Prop :=
  ∀ (s : State) (g : Guard) (a : NameIx) (c : BitVec 2) (ai : NameInfo) (s1 s2 : State) (xs : List Src),
    (Enabled s .uniform g [0] →
      exec (.nop g) s = .next (keepHub s (advance s)) ∧
      exec (.yield g) s = .next (keepHub s (advance (setCur s fun t =>
        { t with yieldAt := some s.cycle, run := .ready s.cycle }))) ∧
      (roaming (curStrand s) = false → someBound (coreAt s (curP s)) (curSlot s) = true →
        (boundMessage (coreAt s (curP s)) (curSlot s) = true →
          exec (.waitmsg g) s = .next (keepHub s (advance s))) ∧
        (boundMessage (coreAt s (curP s)) (curSlot s) = false → Parks (.waitmsg g) s .waitMsg))) ∧
    (UniformReady s g [] [a] [] [ai] s1 xs →
      let n := srcInt s (nth xs 0)
      (roaming (curStrand s) = false → 0 ≤ n → n ≤ 12 → slotFree s1 (curP s1) n.toNat = false →
        (∀ slot, tget (coreAt s1 (curP s1)).binds c.toNat = some slot → (slot : Int) = n) →
        s2 = advance (modCore s1 (curP s1) fun x => { x with binds := tset x.binds c.toNat n.toNat }) →
        exec (.bind g a c) s = .next (keepHub s
          (if hasMessage (coreAt s1 (curP s1)) c.toNat = true then messageReady s2 (curP s1) c.toNat else s2))) ∧
      (roaming (curStrand s) = true → TrapsWith (.bind g a c) s 1 s.ir.word.toNat ∧
        TrapsWith (.unbind g a c) s 1 s.ir.word.toNat) ∧
      (roaming (curStrand s) = false → 0 ≤ n → n ≤ 15 → exec (.unbind g a c) s = .next (keepHub s (advance
        (if tget (coreAt s1 (curP s1)).binds c.toNat = some n.toNat then
           modCore s1 (curP s1) fun x => { x with binds := tdel x.binds c.toNat }
         else s1)))))

/-- R133, R136, R137: MON arms a monitor on the line and waits until the arming is recorded at the line's home, and
MONX loads and arms as one access; they complete when they issue again with the arming done, which keeps the word that
was loaded. WAITA with a cause already there, or with the cause word that it has been woken with, reads NA, writes the
cause word, disarms its four monitors and goes on, and parks otherwise without having read NA (R36). MONX and WAITA
park first where a repack has locked ND's rows (R106). That the line is armed at issue and the strand waits for the
reply is the model's reading (log 9), and so is that WAITA takes names of any type (log 11); how its timeout is read,
and what a word that does not fit leaves, are its choices (log 51). -/
def Obligations.MonitorsAreArmedAndAwaited : Prop :=
  ∀ (s : State) (g : Guard) (d a : NameIx) (m : BitVec 2) (di ai : NameInfo) (s1 s2 s3 s4 : State) (xs ys : List Src)
    (ea pa v : Nat) (leaf : Option Nat), roaming (curStrand s) = false →
    (ea = plainAddr xs 0 → ai.isInt = true →
      let armed (u : State) (v : Nat) : State := setCur (armMonitor u m.toNat ea pa) fun t =>
        { t with answer := some (.armed (BitVec.ofNat 48 ea) (word v)) }
      (UniformReady s g [] [a] [] [ai] s1 xs →
        ((curStrand s).answer = none → checkAll s s .watch [.read] 1 7 [(0, ea)] = .ok (s2, [⟨0, ea, .mem pa leaf⟩]) →
          exec (.mon g a m) s = .next (keepHub s (parkStrand (addEvent (armed s2 0)
            (.accessReply (armed s2 0).cur)) s.cur .arming))) ∧
        ((curStrand s).answer = some (.armed (BitVec.ofNat 48 ea) (word v)) →
          exec (.mon g a m) s = .next (keepHub s (advance s1)))) ∧
      (UniformReady s g [d] [a] [di] [ai] s1 xs → sizeOk di 8 = true →
        (nameLocked (coreAt s1 (curP s1)) (curStrand s1) di = true → Parks (.monx g d a m) s .repack) ∧
        (nameLocked (coreAt s1 (curP s1)) (curStrand s1) di = false → (curStrand s).answer = none → checkAll s s .watch [.read] 8 7 [(0, ea)] = .ok (s2, [⟨0, ea, .mem pa leaf⟩]) →
          readable s2 [⟨0, ea, .mem pa leaf⟩] 8 = .ok () → readTouch s2 ⟨0, ea, .mem pa leaf⟩ 8 = .ok (s3, v) →
          exec (.monx g d a m) s = .next (keepHub s (parkStrand (addEvent (armed s3 v)
            (.accessReply (armed s3 v).cur)) s.cur .arming))) ∧
        (nameLocked (coreAt s1 (curP s1)) (curStrand s1) di = false →
          (curStrand s).answer = some (.armed (BitVec.ofNat 48 ea) (word v)) → v < 2 ^ 64 →
          writeOne s1 di (loadFit di 8 v) = .ok s3 →
          exec (.monx g d a m) s = .next (keepHub s (advance (progressCur s3)))))) ∧
    (UniformReady s g [d] [a] [di] [ai] s1 xs →
      let n := srcWord s (nth xs 0)
      let deadline := if n = 0 then none else some (s.cycle + n)
      (nameLocked (coreAt s (curP s)) (curStrand s) di = true → Parks (.waita g d a) s .repack) ∧
      (nameLocked (coreAt s (curP s)) (curStrand s) di = false →
        (∀ w, heldCause (curStrand s) = some w ∧ s2 = s ∨
            heldCause (curStrand s) = none ∧ waitaWord s s.cur deadline 0 = some (s2, w) →
          readSrcs s2 [(nth xs 0).info] [] = .ok (s3, ys) → writeOne s3 di (fitEither di w) = .ok s4 →
          exec (.waita g d a) s = .next (keepHub s (advance (setCur s4 fun t => { t with mons := [] })))) ∧
        (heldCause (curStrand s) = none → waitaWord s s.cur deadline 0 = none →
          exec (.waita g d a) s = .next (keepHub s (parkStrand (match deadline with
            | some c => addEvent s (.waitaTimeout s.cur c)
            | none => s) s.cur (.waitA d a deadline s.ir.len))))))

/-- R138-R140: BARA in a core that has not arrived arrives and goes on; BARW arrives and waits; in a core that has
arrived both wait for the release. -/
def Obligations.BarriersArriveOnce : Prop :=
  ∀ (s : State) (g : Guard) (k : BitVec 2) (s1 : State),
    let c := coreAt s (curP s)
    Enabled s .uniform g [0] → roaming (curStrand s) = false → rectOk (ctlOf c (0x10 + k.toNat)) c.logical = true →
    ((barrierAt c k.toNat).arrived = false → arrive s k.toNat = .ok s1 →
      exec (.bara g k) s = .next (keepHub s (advance s1)) ∧
      exec (.barw g k) s = .next (keepHub s (parkStrand s1 s.cur (.barrier k.toNat true s.ir.len)))) ∧
    ((barrierAt c k.toNat).arrived = true →
      Parks (.bara g k) s (.barrier k.toNat false s.ir.len) ∧ Parks (.barw g k) s (.barrier k.toNat true s.ir.len))

/-- R393: taking a trap with the trap state not live and TVEC not 0 saves the PC, the cause and EVAL, keeps the mode in
PSV, sets supervisor mode and the trap state, and goes to TVEC; it changes nothing else of the machine, but that what the
instruction had obtained while it waited is dropped and a breakpoint stops the strand again, which are the model's readings
(logs 10, 32). -/
def Obligations.TrapEntrySavesAndEntersSupervisor : Prop :=
  ∀ (s : State) (k cause val : Nat), (strandAt s k).tvec ≠ 0 → (strandAt s k).tsl = false → cause < 2 ^ 8 →
    val < 2 ^ 64 →
    let t := strandAt (takeTrap s k cause val) k
    t.epc = (strandAt s k).pc ∧ t.ecause.toNat = cause ∧ t.eval.toNat = val ∧ t.psv = (strandAt s k).sv ∧
    t.sv = true ∧ t.tsl = true ∧ t.pc = (strandAt s k).tvec ∧
    { t with epc := (strandAt s k).epc, ecause := (strandAt s k).ecause, eval := (strandAt s k).eval,
             psv := (strandAt s k).psv, sv := (strandAt s k).sv, tsl := false, pc := (strandAt s k).pc,
             answer := (strandAt s k).answer, skipBrk := (strandAt s k).skipBrk } = strandAt s k ∧
    t.answer = none ∧
    (∀ j, j ≠ k → strandAt (takeTrap s k cause val) j = strandAt s j) ∧
    { takeTrap s k cause val with strands := s.strands } = s

/-- R393: a trap taken while the trap state is live stops the strand with cause STACK, the PC and the new cause in EVAL and
EPC unchanged; a strand that runs no task is reported. -/
def Obligations.NestedTrapStopsTheStrand : Prop :=
  ∀ (s : State) (k cause val : Nat), (strandAt s k).tvec ≠ 0 → (strandAt s k).tsl = true → (strandAt s k).task = none →
    cause < 2 ^ 8 →
    let t := strandAt (takeTrap s k cause val) k
    t.run = .stopped ∧ t.ecause.toNat = 13 ∧ t.epc = (strandAt s k).epc ∧
    t.eval.toNat = (strandAt s k).pc.toNat * 2 ^ 8 + cause ∧
    (takeTrap s k cause val).reports.length = s.reports.length + 1

/-- R144, R145, R59, R60: TRAP and an unassigned opcode trap with their words; RTT returns to EPC in the mode PSV with
the trap state no longer live, and in user mode every supervisor form traps PROTECT with the instruction word: RTT,
TLBINV, GREY, ERES, and CTLW and CTLX of a supervisor register. That RTT drops the takes of other instructions than the
one at EPC (log 10) and clears the mark by which a breakpoint is passed (log 32) are the model's readings. -/
def Obligations.TrapAndReturn : Prop :=
  ∀ (s : State) (g : Guard) (i : Imm 15) (w : BitVec 32),
    TrapsWith (.unassignedOpcode w) s 1 w.toNat ∧
    (Enabled s .uniform g [0] →
      TrapsWith (.trap g i) s 14 (immUnsigned i + if i.ext.isSome then 2 ^ 63 else 0) ∧
      ((curStrand s).sv = true → (curStrand s).epc.toNat % 4 = 0 →
        exec (.rtt g) s = .next (keepHub s (setCur s fun t =>
          { t with pc := t.epc, sv := t.psv, tsl := false, skipBrk := false, takes := t.takes.filter (·.pc == t.epc) }))) ∧
      ((curStrand s).sv = true → (curStrand s).epc.toNat % 4 ≠ 0 →
        TrapsWith (.rtt g) s 5 (curStrand s).epc.toNat)) ∧
    decodeWord 0xF600_0000 = .ok (.rtt ⟨false, 0⟩) ∧
    ((curStrand s).sv = false →
      let denied (x : Instr) : Prop := TrapsWith x s 6 (s.ir.word.toNat + 2 ^ 63)
      denied (.rtt g) ∧ denied (.tlbinvAll g) ∧ (∀ e : BitVec 2, e.toNat < 3 → denied (.eres g e)) ∧
      ∀ (d a : NameIx) (di ai : NameInfo) (r : BitVec 7), infos (curStrand s) [a] = some [ai] → uniSrc ai = true →
        denied (.tlbinvPage g a) ∧ denied (.tlbinvAsid g a) ∧ denied (.grey g a) ∧
        (ctlExists r.toNat = true → ctlReadOnly r.toNat = false → ctlSupervisor r.toNat = true →
          denied (.ctlw g a r) ∧
          (infos (curStrand s) [d] = some [di] → uniDst di = true → denied (.ctlx g d a r))))

/-- R393, R145: after a trap has been taken, a return with nothing changed in between brings back the strand's PC and mode. -/
def Obligations.ReturnUndoesTrapEntry : Prop :=
  ∀ (s : State) (cause val : Nat), (curStrand s).tvec ≠ 0 → (curStrand s).tsl = false →
    let t := returnTrap (curStrand (takeTrap s s.cur cause val))
    t.pc = (curStrand s).pc ∧ t.sv = (curStrand s).sv ∧ t.tsl = false

/-- R40, R41, R146, R157, R393: CTLR reads a register, CTLW writes the writable bits of one, CTLX gives the value
before its write; touching EPC ends the trap state; GETID gives a field of the work identifier. Which types of name the
forms admit is the model's reading (log 11). -/
def Obligations.ControlRegisterInstructionsResults : Prop :=
  ∀ (s : State) (g : Guard) (d a : NameIx) (r : BitVec 7) (f : BitVec 3) (di ai : NameInfo) (s1 s2 s3 : State)
    (xs : List Src),
    (UniformReady s g [d] [] [di] [] s1 xs →
      (ctlExists r.toNat = true → writeOne s1 di (fitEither di (ctlRead s1 r.toNat)) = .ok s2 →
        exec (.ctlr g d r) s = .next (keepHub s (advance (touchEpc s2 r.toNat)))) ∧
      (f.toNat ≤ 5 → writeOne s1 di (fitEither di (fieldN (curStrand s1).wid.toNat (idLow s1 (curStrand s1).lid f.toNat)
          (idWidth s1 (curStrand s1).lid f.toNat))) = .ok s2 →
        exec (.getid g d f) s = .next (keepHub s (advance s2)))) ∧
    (ctlExists r.toNat = true → ctlReadOnly r.toNat = false → (ctlSupervisor r.toNat = true → (curStrand s).sv = true) →
      ctlWrite s1 r.toNat (srcWord s (nth xs 0)) = .ok s2 →
      (UniformReady s g [] [a] [] [ai] s1 xs →
        exec (.ctlw g a r) s = .next (keepHub s (advance (touchEpc s2 r.toNat)))) ∧
      (UniformReady s g [d] [a] [di] [ai] s1 xs → writeOne s2 di (fitEither di (ctlRead s1 r.toNat)) = .ok s3 →
        exec (.ctlx g d a r) s = .next (keepHub s (advance (touchEpc s3 r.toNat)))))

/-- R40, R41: a write to a per-core register is read back with its writable bits, by every strand of the core; TVEC, EPC,
ECAUSE and EVAL are read back by their strand, and STATUS.SV is changed by no write. That EPC holds 48 bits and ECAUSE 8 is the
model's reading (log 40). -/
def Obligations.ControlRegisterReadsBack : Prop :=
  ∀ (s s' : State) (n v : Nat), ctlExists n = true → ctlReadOnly n = false → v < 2 ^ 64 → ctlWrite s n v = .ok s' →
    (4 < n → ∀ k, keyCore k = curP s → ctlRead { s' with cur := k } n = ctlMask n v) ∧
    (curStrand s').sv = (curStrand s).sv ∧
    (n = 1 → ctlRead s' 1 = v % 2 ^ 48 / 4 * 4) ∧ (n = 2 → ctlRead s' 2 = v % 2 ^ 48) ∧
    (n = 3 → ctlRead s' 3 = v % 2 ^ 8) ∧ (n = 4 → ctlRead s' 4 = v)

/-- R142, R143, R154: FENCE with an empty class list only advances; with w it drains the merge buffer first, and parks
while a store of the strand or of that buffer waits at the home of a reserved word (R177); with class e it then waits
for the strand's commands and copies; with i in the second list it drops the line buffer. DBRK only advances unless the
debugger is attached with breaks enabled, which halts the core and tells the break code. R23-R32, R148-R153: MAPLD
installs a checked image in regions that fit, with their bits 0; CONF writes the test's result; CONF.exit of a test
that fails writes 0, of one that succeeds on the last layer resolves the token's future with 0, on an earlier layer
sends its marks and waits for them, and of one whose marks are performed posts its job where the queue has room and
waits for room otherwise. When kydb counts as attached (log 32), and that the marks of CONF.exit are made at its issue
(log 9), are the model's readings; that its FSET writes no p1 is its choice (log 49). -/
def Obligations.FenceDebugBreakMapLoadAndConfidence : Prop :=
  (∀ (s : State) (g : Guard) (d a : BitVec 4) (sc : BitVec 3) (c : BitVec 6) (s1 : State), Enabled s .uniform g [0] →
      (sc.toNat ≤ 5 →
        ((d = 0 ∨ a = 0) → exec (.fence g d a sc) s = .next (keepHub s (advance s))) ∧
        (d ≠ 0 → a ≠ 0 → (if bitN d.toNat 1 then drainMerge s else .ok s) = .ok s1 →
          (bitN d.toNat 1 = true → ∀ w, storesWait s1 s1.cur = some w → Parks (.fence g d a sc) s (.reservation w)) ∧
          ((bitN d.toNat 1 = true → storesWait s1 s1.cur = none) →
            (bitN d.toNat 2 = true → workPending s1 s1.cur = true →
              exec (.fence g d a sc) s = .next (keepHub s (parkStrand s1 s.cur .engines))) ∧
            ((bitN d.toNat 2 = true → workPending s1 s1.cur = false) →
              exec (.fence g d a sc) s = .next (keepHub s (advance
                (if bitN a.toNat 3 then setCur s1 fun t => { t with lineBuf := none } else s1))))))) ∧
      ((s.kydb = false ∨ s.breaksOn = false) → exec (.dbrk g c) s = .next (keepHub s (advance s))) ∧
      (s.kydb = true → s.breaksOn = true →
        let u := setCur (advance s) (haltStrand s (curP s))
        exec (.dbrk g c) s = .next (keepHub s (haltCore { u with
          told := u.told ++ [.breakCode (coreAt s (curP s)).logical (curSlot s) c] } (curP s))))) ∧
  (∀ (s : State) (g : Guard) (a b : NameIx) (d : BitVec 3) (i : Imm 9) (ai bi : NameInfo) (s1 : State)
      (xs : List Src) (m : MapCopy) (u l : Nat),
      (UniformReady s g [] [a] [] [ai] s1 xs → ai.isInt = true →
        loadImage s1 (curP s1) (immAddr 8 i xs 0) (roaming (curStrand s1)) (some s1.cur) = .ok m →
        findRegions s1 (curP s1) m (some s1.cur) = .ok (u, l) →
        exec (.mapld g a i) s = .next (keepHub s (advance (setCur
          (setCore s1 (curP s1) (zeroRegions (coreAt s1 (curP s1)) u (uniformSize m) l (laneSize m)))
          fun t => withLayout t m u l)))) ∧
      (UniformReady s g [] [a, b] [] [ai, bi] s1 xs → d ≠ 0 → confTypes [] [ai, bi] = true →
        let yes := confident s1 (nth xs 0) (nth xs 1)
        exec (.conf g d a b) s = .next (keepHub s (advance (setCur s1 fun t => setP t d.toNat yes))) ∧
        (∀ j, (curStrand s).answer = some (.exit j) →
          (jobsQueued (endConf s1 d.toNat) j.cluster < 64 →
            exec (.confExit g d a b) s = .next (keepHub s (parkStrand (addEvent
              (postJob (progressCur (endConf s1 d.toNat)) j) (.accessReply (endConf s1 d.toNat).cur)) s.cur .reply))) ∧
          (64 ≤ jobsQueued (endConf s1 d.toNat) j.cluster →
            exec (.confExit g d a b) s = .next (keepHub s (parkStrand (addEvent
              (setCur (endConf s1 d.toNat) fun t => { t with job := some j })
              (.confExitJobPost (endConf s1 d.toNat).cur)) s.cur (.backfillRoom j.cluster))))) ∧
        ((∀ j, (curStrand s).answer ≠ some (.exit j)) →
        (yes = false → exec (.confExit g d a b) s =
          .next (keepHub s (advance (setCur s1 fun t => setP t d.toNat false)))) ∧
        (yes = true → ∀ (kv e tok hv : Nat) (desc : KvDesc) (f : Future) (s2 s3 s4 s5 s6 : State) (ys : List Src) (ps : List Nat),
          let h := BitVec.ofNat 32 hv
          kv = ctlOf (coreAt s (curP s)) 0x0D → kv ≠ 0 → nearButVault kv = false →
          strandKv s s kv = .ok (s2, desc) → kvShared kv desc = true → kvCursor desc = some (e, tok) →
          strandRead s s2 4 ((desc.bffut + 4 * tok) % 2 ^ 48) = .ok (s3, hv) → liveFut s3 h = .ok f →
          (e = desc.layers → readSrcs s3 (xs.map (·.info)) [] = .ok (s4, ys) → liveFut s4 h = .ok f →
            rrGate s4 2 h.toNat = .ok s5 → release s5 = .ok s6 →
            let u := settle s6 h (.resolve (some (word 0))) (strandLog s6 2)
            exec (.confExit g d a b) s = .next (keepHub s (parkStrand (addEvent (endConf u d.toNat)
              (.accessReply u.cur)) s.cur .reply))) ∧
          (e ≠ desc.layers →
            markPlaces s3 desc tok s3 ((List.range (desc.layers - e)).map (· + e + 1)) = .ok (s4, ps) →
            let u := setCur (markAll s4 ps) fun t => { t with answer := some (.exit (exitJob s3 kv desc e tok h)) }
            exec (.confExit g d a b) s = .next (keepHub s (parkStrand (addEvent u (.accessReply u.cur)) s.cur .marks)))))))

/-! ### Futures, tasks, engines, copies, messages and the system group (spec/05, spec/14, spec/04) -/

/-- R196-R202, R207-R209: the future instructions on a live handle: their effect at the entry, logged as the strand's,
once the replay's order and the release let them, and their status in p1; FGET parks first where a repack has locked
ND's rows (R106). What bits of a name are its handle (log 12), which types it may have (log 11) and what a replay
orders (log 13) are the model's readings. -/
def Obligations.FutureInstructionsResults : Prop :=
  ∀ (s : State) (g : Guard) (d a b : NameIx) (sh : BitVec 4) (di ai bi : NameInfo) (s1 s2 s3 s4 : State)
    (xs : List Src) (h : BitVec 32) (f : Future) (v : BitVec 64) (ok : Bool),
    let i := hIndex h
    let n := srcInt s (nth xs 1)
    (UniformReady s g [d] [a] [di] [ai] s1 xs →
      let m := srcInt s (nth xs 0)
      (0 ≤ m → m ≤ 1048575 →
        (∀ j, futChooseFor s1 1 = .ok (some j) → rrGate s1 1 j.toNat = .ok s2 →
          writeOne (futLog (futAlloc s2 j (curStrand s2).lid m.toNat) 1 j) di (fitEither di j.toNat) = .ok s3 →
          exec (.fnew g d a) s = .next (keepHub s (endStatus s3 true))) ∧
        (futChooseFor s1 1 = .ok none → writeOne s1 di (fitEither di 0) = .ok s3 →
          exec (.fnew g d a) s = .next (keepHub s (endStatus s3 false)))) ∧
      (nameLocked (coreAt s (curP s)) (curStrand s) di = true → Parks (.fget g d a sh) s .repack) ∧
      (nameLocked (coreAt s (curP s)) (curStrand s) di = false →
        h = srcHandle s (nth xs 0) → awaitFut s s1 h sh.toNat = .ok (v, ok) →
        writeOne s1 di (fitEither di v.toNat) = .ok s3 →
        exec (.fget g d a sh) s = .next (keepHub s (endStatus (progressCur s3) ok)))) ∧
    (h = srcHandle s (nth xs 0) → liveFut s1 h = .ok f → UniformReady s g [] [a, b] [] [ai, bi] s1 xs →
      (rrGate s1 2 h.toNat = .ok s2 → release s2 = .ok s3 → exec (.fset g a b) s = .next (keepHub s (endStatus
        (settle s3 h (.resolve (some (word (srcWord s (nth xs 1))))) (strandLog s3 2)) (decide (f.st = .pending))))) ∧
      (0 ≤ n → f.st = .pending → f.count + n.toNat ≤ 1048575 → rrGate s1 3 h.toNat = .ok s2 → release s2 = .ok s3 →
        exec (.fexp g a b) s = .next (keepHub s (endStatus
          (logFut (setFut s3 i { f with count := f.count + n.toNat }) h (strandLog s3 3)) true))) ∧
      (1 ≤ n → n ≤ 255 → rrGate s1 7 h.toNat = .ok s2 → release s2 = .ok s3 →
        exec (.fcancel g a b) s = .next (keepHub s (endStatus
          (settle s3 h (.cancel n.toNat) (strandLog s3 7)) (decide (f.st = .pending))))) ∧
      (0 ≤ n → n ≤ 15 → rrGate s1 5 h.toNat = .ok s2 → release s2 = .ok s3 →
        pubshAt s3 h (cappedShade (curStrand s3) n.toNat) s3.cur (strandLog s3 5) = (s4, ok) →
        exec (.pubsh g a b) s = .next (keepHub s (endStatus s4 ok)))) ∧
    (h = srcHandle s (nth xs 0) → liveFut s1 h = .ok f → UniformReady s g [] [a, 0] [] [ai, NameInfo.zero] s1 xs →
      (rrGate s1 4 h.toNat = .ok s2 → release s2 = .ok s3 → fdecAt s3 h (strandLog s3 4) = some (s4, ok) →
        exec (.fdec g a) s = .next (keepHub s (endStatus s4 ok))) ∧
      (rrGate s1 6 h.toNat = .ok s2 →
        s3 = setCur s2 (fun t => if h != 0 && ownInput s2 t == h then { t with stopped := true } else t) →
        s4 = logFut (if f.st = .pending then setFut s3 i { f with stop := true } else s3) h (strandLog s2 6) →
        exec (.stopref g a) s = .next (keepHub s (endStatus
          (if f.st = .pending ∧ f.pub = true then stopNotice s4 h f else s4) (decide (f.st = .pending)))))) ∧
    (UniformReady s g [] [a] [] [ai] s1 xs → h = srcHandle s (nth xs 0) → servedOn (curStrand s1) h = none →
      liveFut s1 h = .ok f → f.st ≠ .pending →
      exec (.settle g a) s = .next (keepHub s (endStatus (progressCur s1) (decide (f.st ≠ .cancelled)))))

/-- R196: a future instruction on a stale handle, or on handle 0, traps FUTSTALE with the handle: all of them but FNEW,
which names none. FEXP, FCANCEL and PUBSH check their operand first; FGET and SETTLE look at the entry unless the
strand was served on it while it waited. That the handle is the low 32 bits of the name (log 12), of whatever type the
name is (log 11), is the model's reading. -/
def Obligations.StaleHandleTrapsFutstale : Prop :=
  ∀ (s : State) (g : Guard) (d a b : NameIx) (sh : BitVec 4) (di ai bi : NameInfo) (s1 : State) (xs : List Src)
    (h : BitVec 32), h = srcHandle s (nth xs 0) → futOf s1 h = none →
    let n := srcInt s (nth xs 1)
    (UniformReady s g [] [a, b] [] [ai, bi] s1 xs →
      TrapsWith (.fset g a b) s 8 h.toNat ∧
      (0 ≤ n → TrapsWith (.fexp g a b) s 8 h.toNat) ∧
      (1 ≤ n → n ≤ 255 → TrapsWith (.fcancel g a b) s 8 h.toNat) ∧
      (0 ≤ n → n ≤ 15 → TrapsWith (.pubsh g a b) s 8 h.toNat)) ∧
    (UniformReady s g [] [a, 0] [] [ai, NameInfo.zero] s1 xs →
      TrapsWith (.fdec g a) s 8 h.toNat ∧ TrapsWith (.stopref g a) s 8 h.toNat) ∧
    (servedOn (curStrand s1) h = none →
      (UniformReady s g [d] [a] [di] [ai] s1 xs → nameLocked (coreAt s (curP s)) (curStrand s) di = false →
        TrapsWith (.fget g d a sh) s 8 h.toNat) ∧
      (UniformReady s g [] [a] [] [ai] s1 xs → TrapsWith (.settle g a) s 8 h.toNat))

/-- R198, R359: resolving a PENDING entry with a value leaves it RESOLVED with that value, shade 15 and no waiter,
whatever the waiters bring about; an anonymous one may then be freed. R359: an entry that is not PENDING is changed by
no resolution and no cancellation of it, which is logged only; a stale handle brings about nothing. -/
def Obligations.SettlingAnEntryHappensOnce : Prop :=
  (∀ (s : State) (h : BitVec 32) (e : Future) (v : BitVec 64) (log : FutLog), futOf s h = some e → e.st = .pending →
      e.anon = false →
      let f := futAt (settle s h (.resolve (some v)) log) (hIndex h)
      f.st = .resolved ∧ f.value = v ∧ f.shade = 15 ∧ f.pub = true ∧ f.waiters = [] ∧ f.gen = e.gen) ∧
  (∀ (s : State) (h : BitVec 32) (how : Settle) (log : FutLog),
    (∀ e, futOf s h = some e → e.st ≠ .pending → settle s h how log = logFut s h log) ∧
    (futOf s h = none → settle s h how log = s))

/-- R204, R206, R345, R106: POST, which parks first where a repack has locked ND's rows, of a record that follows no
future or a live one, with room for it, joins its settle group, allocates its future, writes the handle and queues the
task; with no entry left it writes handle 0 and clears p1. ROAM to the strand's own core goes on, and to another owner
packs the strand, frees its slot and sends the packet. The order of POST's checks and other corners of records (log
15), corners of roaming (log 17), and what ROAM traps on (log 49) are the model's choices and readings. -/
def Obligations.PostQueuesAndRoamSetsOut : Prop :=
  ∀ (s : State) (g : Guard) (d a : NameIx) (r : BitVec 1) (di ai : NameInfo) (s1 s2 s3 s4 s5 s6 s7 : State)
    (xs : List Src) (rec : Record) (pa v : Nat) (h grp : BitVec 32) (f : Future) (l : Launch) (o : RoamDest), ai.isInt = true →
    let ea := (nth xs 0).pat 0 % 2 ^ 48
    let t := curStrand s3
    (UniformReady s g [d] [a] [di] [ai] s1 xs → nameLocked (coreAt s (curP s)) (curStrand s) di = true →
      Parks (.post g d a r) s .repack) ∧
    (UniformReady s g [d] [a] [di] [ai] s1 xs → nameLocked (coreAt s (curP s)) (curStrand s) di = false → ea % 64 = 0 →
      agentRecord s1 (curP s1) (curStrand s1).lid (curStrand s1).sv ea = .ok (s2, rec) → (rec.waitf ≠ 0 → liveFut s2 rec.waitf = .ok f) →
      postPlace s s2 rec = .ok (s3, pa, v) → launchAt s3 (curStrand s1).lid = some l →
      postRoom s3 rec (recordHome s3 l pa v) = .ok () →
      (futChooseFor s3 8 = .ok (some h) → joinGroup s3 rec.group = .ok (s7, grp) → release s7 = .ok s4 →
        rrGate s4 8 h.toNat = .ok s5 →
        let u := futAlloc s5 h t.lid 0
        writeOne (futLog (setFut u (hIndex h) { futAt u (hIndex h) with group := grp, anon := di.kind == 8 }) 8 h) di
          (fitEither di h.toNat) = .ok s6 →
        exec (.post g d a r) s = .next (keepHub s (enqueueTask (endStatus s6 true)
          (rec.task h t.lid (asidOf (endStatus s6 true) t.lid) (recordHome s3 l pa v) t.sv (r == 1) t.tvec t.wid)))) ∧
      (futChooseFor s3 8 = .ok none → release s3 = .ok s4 → writeOne s4 di (fitEither di 0) = .ok s6 →
        exec (.post g d a r) s = .next (keepHub s (endStatus s6 false)))) ∧
    (UniformReady s g [] [a] [] [ai] s1 xs → curSlot s1 ≠ 0 → mapRoam (curStrand s1).map.header.toNat = true →
      (curStrand s1).holds = none → someBound (coreAt s1 (curP s1)) (curSlot s1) = false →
      roamOwner s s1 ea = .ok (s2, o) →
      (o = .core (curP s2) → exec (.roam g a) s = .next (keepHub s (advance s2))) ∧
      (o ≠ .core (curP s2) →
        bitsLocked (coreAt s2 (curP s2)) false (curStrand s1).ubase.toNat (curStrand s1).usize.toNat = false →
        regionBad s2 = none → settleStores s2 = .ok s4 →
        exec (.roam g a) s = .next (keepHub s (addEvent (freeSlot
          { s4 with packets := tset s4.packets s4.nextPacket (packStrand s4 o), nextPacket := s4.nextPacket + 1 } s4.cur)
          (.roamPacketArrival s4.nextPacket)))))

/-- R182-R186, R400: ENQ captures a command into a queue with room; POP, which parks first where a repack has locked
ND's rows (R106), takes the head element, whose status other than 0 traps ENGINE with the element; EPEEK reads it and
takes nothing; ERES starts a stopped engine or its copies again. That an idle engine takes the command in the same step
is the model's choice (log 35). -/
def Obligations.EngineQueueInstructionsResults : Prop :=
  ∀ (s : State) (g : Guard) (d a : NameIx) (e : BitVec 1) (e2 : BitVec 2) (di ai : NameInfo) (s1 s2 s3 : State)
    (xs : List Src) (x : BitVec 64) (h : BitVec 32) (rest : List (BitVec 64 × BitVec 32)),
    let p := curP s1
    let n := engineAt (coreAt s1 p) e.toNat
    (UniformReady s g [] [a] [] [ai] s1 xs → ai.isInt = true →
      let ea := (nth xs 0).pat 0 % 2 ^ 48
      ea % 32 = 0 → ea < 0x2_0000 → poisoned s1 (lsBase p + ea) 32 = none → n.queue.length < 2 → release s1 = .ok s2 →
      exec (.enq g a e) s = .next (keepHub s (advance (startNext (setEngine s2 p e.toNat
        { engineAt (coreAt s2 p) e.toNat with queue := (engineAt (coreAt s2 p) e.toNat).queue ++ [capture s2 ea] })
        p e.toNat)))) ∧
    (UniformReady s g [d] [] [di] [] s1 xs →
      (nameLocked (coreAt s (curP s)) (curStrand s) di = true → Parks (.pop g d e) s .repack) ∧
      (nameLocked (coreAt s (curP s)) (curStrand s) di = false → n.fifo = (x, h) :: rest →
        (elementStatus x = 0 →
          writeOne (progressCur (setEngine s1 p e.toNat { n with fifo := rest })) di (fitEither di x.toNat) = .ok s3 →
          exec (.pop g d e) s = .next (keepHub s (advance (setCur s3 fun t => noteStandin t x h)))) ∧
        (elementStatus x ≠ 0 → exec (.pop g d e) s =
          .next (trapped s (setEngine s1 p e.toNat { n with fifo := rest }) 11 x.toNat))) ∧
      (∀ v fl, fitEither di ((n.fifo.head?.map fun y => y.1.toNat).getD 0) = .ok (v, fl) →
        writeOne s1 di (.ok (v, 0)) = .ok s3 → exec (.epeek g d e) s = .next (keepHub s (advance s3)))) ∧
    (Enabled s .uniform g [0] → (curStrand s).sv = true → e2.toNat < 3 →
      exec (.eres g e2) s = .next (keepHub s (advance
        (if e2 = 2 then resumeCopies s (curP s) fun _ => true else resumeEngine s (curP s) e2.toNat))))

/-- R187, R189-R195: CXSET writes a copy register; CXGO captures them and starts a copy under the next id; SEND sends
to a live destination with room, or over the links; MRECV takes the oldest message of a class; QCTL installs a setting
and gives the one before. That a message to another module is kept in linkOut is the model's choice (log 29), and which
types of name are admitted its reading (log 11). -/
def Obligations.CopyAndMessageInstructionsResults : Prop :=
  ∀ (s : State) (g : Guard) (d a b : NameIx) (r sel : BitVec 4) (c : BitVec 2) (di ai bi : NameInfo)
    (s1 s2 s3 s4 : State) (xs : List Src) (m : Msg) (q : Nat),
    let p := curP s1
    (UniformReady s g [] [a] [] [ai] s1 xs → r.toNat < 10 →
      exec (.cxset g a r) s = .next (keepHub s (advance (modCore s1 p fun x =>
        { x with cx := tset x.cx r.toNat (word (srcWord s (nth xs 0))) })))) ∧
    (UniformReady s g [d] [] [di] [] s1 xs → (coreAt s1 p).copies.length < 4 → release s1 = .ok s2 →
      let id := (coreAt s2 p).nextId
      let copy := captureCopy s2
      writeOne (addEvent (modCore s2 p fun x => { x with copies := tset x.copies id copy, nextId := id % 65535 + 1 })
        (copyEvent p id (if copy.mode < 8 then copy.mode else 0))) di (fitEither di id) = .ok s3 →
      exec (.cxgo g d) s = .next (keepHub s (advance s3))) ∧
    (UniformReady s g [] [a, b] [] [ai, bi] s1 xs →
      let w := srcWord s (nth xs 0)
      let v := word (srcWord s (nth xs 1))
      let t := curStrand s1
      destOk w c.toNat = true → release s1 = .ok s2 →
      (destHere s1 t.lid w = true → physOf s1 t.lid (fieldN w 0 16) = some q → (coreAt s1 q).lid = t.lid → t.lid ≠ 0 →
        sendRoom s1 q c.toNat (fieldN w 16 5) = true →
        exec (.send g a b c) s = .next (keepHub s (advance (sendTo s2 q c.toNat (fieldN w 16 5) v)))) ∧
      (destHere s1 t.lid w = false → inTorus s1 t.lid (fieldN w 32 12) = true →
        routeOk s1 t.lid (fieldN w 32 12) = true →
        exec (.send g a b c) s = .next (keepHub s (advance (sendRemote s2 w c.toNat v))))) ∧
    (UniformReady s g [d, a] [] [di, ai] [] s1 xs →
      (∀ slot, tget (coreAt s1 p).binds c.toNat = some slot → slot = curSlot s1) →
      (coreAt s1 p).mailbox.find? (fun x => x.cls == c.toNat) = some m →
      writeOne (wakeSenders (setCore s1 p { coreAt s1 p with mailbox := (coreAt s1 p).mailbox.erase m }) p) di
        (fitEither di m.lo.toNat) = .ok s2 → writeOne s2 ai (fitEither ai m.hi.toNat) = .ok s3 →
      exec (.mrecv g d a c) s = .next (keepHub s (advance (progressCur s3)))) ∧
    (UniformReady s g [d] [a] [di] [ai] s1 xs → sel.toNat < 12 → settingOk s1 p sel.toNat (srcWord s (nth xs 0)) = true →
      s2 = wakeNames (modCore s1 p fun x => installSetting x sel.toNat (word (srcWord s (nth xs 0)))) p →
      s3 = (if 4 ≤ sel.toNat ∧ sel.toNat < 8 then moveQueue s2 p (sel.toNat - 4) else s2) →
      writeOne s3 di (fitEither di (settingAt (coreAt s1 p) sel.toNat).toNat) = .ok s4 →
      exec (.qctl g d a sel) s = .next (keepHub s (advance s4)))

namespace Sys2Proof.Claims

open Sys2Proof.Machine

/-- A TLB loses the translations that a test on ASID, first and last address names, and no others. -/
def Loses (gone : Nat → Nat → Nat → Prop) (after before : List TlbEnt) : Prop :=
  ∀ e, e ∈ after ↔ e ∈ before ∧ ¬ gone e.asid e.va (e.va + 2 ^ e.bits - 1)

/-- A TLBINV, once the strand's stores are performed, takes the translations that a test names out of every core's and
every cluster's TLB and out of the walk caches, and no others, and leaves each launch the range descriptors given; it wakes
monitors as spurious with reason 6 (which ones, this does not say), and leaves its strand waiting for the completion and for the
chunks of copies that hold such a translation, for a slot of a table or for bytes still to be written (R137, R156, R389, R391,
R402). -/
def Invalidates (i : Instr) (s s2 : State) (gone : Nat → Nat → Nat → Prop) (ranges : Launch → List RangeEnt) : Prop :=
  ∃ u pick chunks, (∀ p, Loses gone (coreAt u p).itlb (coreAt s2 p).itlb ∧ Loses gone (coreAt u p).dtlb (coreAt s2 p).dtlb) ∧
    (∀ c, Loses gone (clusterAt u c).l2tlb (clusterAt s2 c).l2tlb ∧
      ∀ w, w ∈ (clusterAt u c).walks ↔ w ∈ (clusterAt s2 c).walks ∧ ¬ gone w.asid w.va (w.va + 2 ^ (48 - 9 * w.level) - 1)) ∧
    (∀ lid, launchAt u lid = (launchAt s2 lid).map fun l => { l with ranges := ranges l }) ∧
    (∀ p id page, (p, id, page) ∈ chunks ↔ ∃ c x h, (p, c) ∈ s2.cores ∧ (id, x) ∈ c.copies ∧ h ∈ copyHolds s2 p id x ∧
      h.page = page ∧ h.lo ≤ h.hi ∧ gone x.asid h.lo h.hi) ∧
    u.mem = s2.mem ∧ u.strands = s2.strands ∧ u.futures = s2.futures ∧
    exec i s = .next (keepHub s (parkStrand (addEvent (advance (spurious u 6 pick))
      (.tlbinvComplete (spurious u 6 pick).cur)) s.cur (.tlbInv chunks)))

/-- An IFLUSH, once the strand's stores are performed, takes the lines that a test names out of the middle cache of the
strand's cluster and of every L1 and line buffer in it, and leaves the strand waiting for the completion (R155, R289). -/
def Flushes (i : Instr) (s s2 : State) (gone : Nat → Prop) : Prop :=
  ∃ u, exec i s = .next (keepHub s (parkStrand (addEvent (advance u) (.iflushComplete s2.cur)) s.cur .flush)) ∧
    u.mem = s2.mem ∧ u.cur = s2.cur ∧
    (∀ line, gone line → cacheGet (clusterAt u (clusterOf (curP s2))).icache line = none ∧
      (∀ p, clusterOf p = clusterOf (curP s2) → cacheGet (coreAt u p).l1 line = none) ∧
      ∀ k t, clusterOf (keyCore k) = clusterOf (curP s2) → tget u.strands k = some t →
        ∀ b, t.lineBuf = some b → b.2.1 ≠ line)

end Sys2Proof.Claims

/-- R155, R156, R158: IFLUSH drops a line, or every line, from the cluster's caches and buffers; TLBINV drops
translations of a page, an address space or everything from every TLB and walk cache, and loads range descriptors again
or drops those of the page; both wait for the strand's stores first, and for the completion. GREY asks the launch unit
and waits; on a launch that is greyed out or an identifier that is not live it only advances. That a flush writes out
the merge buffer first (log 49), that its address may be a name of any type (log 11) and which strands a spurious wake
completes (logs 34, 51) are the model's choices, and when caches and TLBs replace an entry is free (log 27). -/
def Obligations.SystemInstructionsResults : Prop :=
  ∀ (s : State) (g : Guard) (a : NameIx) (ai : NameInfo) (s1 s2 : State) (xs : List Src) (l : Launch),
    let va := (nth xs 0).pat 0 % 2 ^ 48
    (UniformReady s g [] [a] [] [ai] s1 xs →
      (settleStores s1 = .ok s2 → Flushes (.iflush g a) s s2 fun line => flushLine s1 va = some line) ∧
      ((curStrand s).sv = true →
        (settleStores s1 = .ok s2 →
          Invalidates (.tlbinvPage g a) s s2 (fun _ lo hi => lo ≤ va ∧ va ≤ hi)
            (fun l => l.ranges.filter fun r => !(r.vbase ≤ va && va ≤ r.vlast)) ∧
          Invalidates (.tlbinvAsid g a) s s2 (fun asid _ _ => asid = zpat (srcInt s (nth xs 0)) 16)
            (fun l => if l.asid = zpat (srcInt s (nth xs 0)) 16 then loadRanges s2 l.asid else l.ranges)) ∧
        (srcWord s (nth xs 0) ≠ (curStrand s1).lid →
          ((∀ y, launchAt s1 (srcWord s (nth xs 0)) = some y → y.field 0x68 2 2 = 2) →
            exec (.grey g a) s = .next (keepHub s (advance s1))) ∧
          (launchAt s1 (srcWord s (nth xs 0)) = some l → l.field 0x68 2 2 ≠ 2 →
            exec (.grey g a) s = .next (keepHub s (parkStrand
              (addEvent (advance s1) (.greyOut (srcWord s (nth xs 0)))) s.cur (.grey (srcWord s (nth xs 0))))))))) ∧
    (Enabled s .uniform g [0] → settleStores s = .ok s2 →
      Flushes (.iflushAll g) s s2 (fun _ => True) ∧
      ((curStrand s).sv = true → Invalidates (.tlbinvAll g) s s2 (fun _ _ _ => True) fun l => loadRanges s2 l.asid))

/-- R55, R56: a LIMM and the word after it, whose opcode takes an extension, issue as one instruction of 8 bytes, which
is that word's with its immediate widened: so it is for every such word, and so LI, the immediate operations and BR
complete. A word whose opcode takes no extension traps ILLEGAL. R419: a substitute of no instruction goes on behind the
pattern, and one of a single instruction that completes does what that instruction does, as long as the pattern. That a
substitute runs in one step is the model's reading (log 33). -/
def Obligations.PairsAndSubstitutesRunTheirInstructions : Prop :=
  (∀ (s u s1 : State) (ext : BitVec 25) (w : BitVec 32) (i : Instr) (g : Guard) (d a : NameIx) (im : Imm 9) (im15 : Imm 15)
      (im21 : Imm 21) (di : NameInfo) (is : List NameInfo) (lanes : List Nat) (xs : List Src) (o : ImmOp) (vals : Nat → Nat)
      (flags : BitVec 8) (s2 : State), u = { s with ir := ⟨w, 8⟩ } →
    (opTakesExt (opOf w) = true → decodeWord w = .ok i →
      (widened ext i ≠ i → exec (.limm ext w) s = exec (widened ext i) u) ∧
      (i = .br g im21 → Enabled u .uniform g [0] → exec (.limm ext w) s =
        .next (keepHub s (jump u ((curStrand s).pc + BitVec.ofInt 48 (4 * immSigned { im21 with ext := some ext }))))) ∧
      (writeDst s1 di lanes vals = .ok s2 →
        (i = .li g d im15 → ComputeReady u g (clsD s d) d [] di is lanes s1 xs → di.isInt = true →
          collect lanes (fun _ => fitInt di di.mode (immSigned { im15 with ext := some ext })) = .ok (vals, flags) →
          exec (.limm ext w) s = .next (keepHub s (advance (setCur s2 fun t => setFlags t flags)))) ∧
        (i = o.instr g d a im → ComputeReady u g (clsD s d) d [a] di is lanes s1 xs → allInt (di :: is) = true →
          (o.isShift = true → immUnsigned { im with ext := some ext } ≤ 63) →
          collect lanes (fun l => fitInt di di.mode (o.exact ((nth xs 0).int l) ((nth xs 0).pat l)
            (immSigned { im with ext := some ext }) (immUnsigned { im with ext := some ext }))) = .ok (vals, flags) →
          exec (.limm ext w) s = .next (keepHub s (advance (setCur s2 fun t => setFlags t flags)))))) ∧
    (opTakesExt (opOf w) = false → exec (.limm ext w) s = .next (trapped s u 1 w.toNat))) ∧
  ∀ (s : State) (w : BitVec 32) (e : Nat) (i : Instr) (p : PatchEntry) (t : State), s.hub.patch[e]? = some p →
    (p.subst = [] → exec (.patchSubstitute e) s = .next (keepHub s (setCur s fun x =>
      { x with pc := (curStrand s).pc + BitVec.ofNat 48 (4 * p.mask.length), skipBrk := false }))) ∧
    (p.subst = [w] → opOf w ≠ 0x7F → decodeWord w = .ok i →
      exec i { s with ir := ⟨w, 4 * p.mask.length⟩ } = .next t → subEnd (curStrand s) t = .completed →
      exec (.patchSubstitute e) s = .next (keepHub s t))

/-! ### Engine commands (spec/06, spec/14, spec/17) -/

namespace Sys2Proof.Claims

open Sys2Proof.Machine

/-- An engine of a core executes a command that is neither stopped on a fault nor already done (R39, R220, R399). -/
structure Executes (s : State) (p e : Nat) (cmd : EngineCmd) : Prop where
  executing : (engineAt (coreAt s p) e).executing = some cmd
  notStopped : (engineAt (coreAt s p) e).fault = none
  notDone : (engineAt (coreAt s p) e).finished = none

/-- A command ends with status 0: `s'` is the state with its writes, `x` what its element says (R220, R224). -/
def Ends (i : Instr) (s : State) (p e : Nat) (cmd : EngineCmd) (s' : State) (x : Result) : Prop :=
  exec i s = .next (keepHub s (complete s' p e cmd (elementOf cmd 0 x) x.handle))

/-- A VX command other than VTKV passes the checks of R221 in their order, and its operands have been read: `r` is its
record, `s2` the state with its pages translated and its reads counted, `os` the operands (R221, R236, R302). -/
structure VxReady (s : State) (p : Nat) (cmd : EngineCmd) (f : VxForm) (srcs : List Desc) (r : Rec) (s2 : State)
    (os : List Operand) : Prop where
  sources : srcs = descOf (cmd.d 1) :: (if f.hasB then [descOf (cmd.d 2)] else [])
  field   : (f.fieldOk && factOk cmd true && (descOf (cmd.d 3)).fieldOk && srcs.all (·.fieldOk) &&
              (f.hasB || cmd.d 2 == 0)) = true
  types   : (vxDt (descOf (cmd.d 3)).dtype && srcs.all (fun x => vxDt x.dtype) && f.typesOk) = true
  domains : ((descOf (cmd.d 3)).domOk && srcs.all (·.domOk) && f.domOk) = true
  param   : recordOf s p cmd (vxRecord cmd) (descOf (cmd.d 3)).dtype f.use = .ok r
  address : ((descOf (cmd.d 3) :: srcs).all (fun x => tileAddrOk s p cmd x (x.rows 32 (rowBytes x.dtype))) &&
              recordAddrOk s p cmd (vxRecord cmd)) = true
  stride  : strideOk (descOf (cmd.d 3)) (rowBytes (descOf (cmd.d 3)).dtype) = true
  kv      : kvCheck s p cmd (srcs.flatMap fun x => x.header ++ x.rows 32 (rowBytes x.dtype))
              ((descOf (cmd.d 3)).header ++ (descOf (cmd.d 3)).rows 32 (rowBytes (descOf (cmd.d 3)).dtype)) = .ok ()
  pages   : ∃ s1 s0, pinReads s p cmd (kvSpan cmd ++ recordSpan (vxRecord cmd) ++
                srcs.flatMap fun x => x.header ++ x.rows 32 (rowBytes x.dtype)) = .ok s1 ∧
              pinWrites s1 p cmd ((descOf (cmd.d 3)).header ++
                (descOf (cmd.d 3)).rows 32 (rowBytes (descOf (cmd.d 3)).dtype)) = .ok s0 ∧
              cleanReads s0 p cmd (kvSpan cmd ++ recordSpan (vxRecord cmd) ++
                srcs.flatMap fun x => operandSpans s0 p cmd x (x.rows 32 (rowBytes x.dtype))) = .ok s2
  read    : srcs.mapM (fun x => readOperand s2 p cmd x 32 (x.rows 32 (rowBytes x.dtype))) = .ok os

/-- A VX command that is ready ends with the writes, flags and AUX that the operation gives, and the least shade of its
operands (R224, R236). -/
def VxEnds (i : Instr) (s : State) (p : Nat) (cmd : EngineCmd) (f : VxForm) (body : Rec → List Operand → VxOut) : Prop :=
  ∀ srcs r s2 os, VxReady s p cmd f srcs r s2 os →
    cleanWrites s2 p cmd ((body r os).writes.map fun w => (w.1, w.2.1)) = .ok () →
    Ends i s p 1 cmd
      (engWrite s2 p cmd (descOf (cmd.d 3)).header (body r os).writes)
      { shade := os.foldl (fun n o => Nat.min n o.shade) 15, aux := (body r os).aux, flags := (body r os).flags }

end Sys2Proof.Claims

/-- R228-R233, R378: MMA, MMAT and MMAS add the products of their K blocks to the accumulator and leave its attributes;
MMAQ fetches its operands and waits for tables; a full slot is taken whole, and emptied with consume; at every eighth
the K block is computed into the working copy, and the last one writes the accumulator; an empty slot leaves the engine
waiting. That a command acts in one step is the model's reading (log 35), and so are its checks in corners (log 36). -/
def Obligations.MatrixCommandsMultiplyIntoTheirAccumulator : Prop :=
  ∀ (s : State) (p : Nat) (cmd : EngineCmd) (a b : Desc) (rowsA rowsB : List Span) (s1 s2 : State) (r : Rec)
    (oa ob : Operand) (acc : Acc) (blocks : List (List (List FVal) × List (List FVal))) (w w1 w2 : MmaqWork) (t : State)
    (slot : TableSlot) (live : Nat → Bool),
    Executes s p 0 cmd → a = descOf (cmd.d 1) → b = descOf (cmd.d 2) → acc = accAt (coreAt s1 p) cmd.accIx →
    (rowsA = a.rows 32 (rowBytes a.dtype * (cmd.sel + 1)) → rowsB = b.rows (32 * (cmd.sel + 1)) (rowBytes b.dtype) →
      mulChecks s p cmd ⟨cmd.flg / 4 == 0, mmaTypes false a.dtype b.dtype, false, rowsA, rowsB⟩ (fun _ => []) = .ok (s1, r) →
      readOperand s1 p cmd a (32 * (cmd.sel + 1)) rowsA = .ok oa → readOperand s1 p cmd b 32 rowsB = .ok ob →
      live = liveLine a oa.mask oa.shade → blocks = (List.range (cmd.sel + 1)).map (fun k =>
        (colSlice (32 * k) oa.vals, transpose32 ((ob.vals.drop (32 * k)).take 32))) →
      Ends (.mma p) s p 0 cmd
        (mulResult s1 p cmd a oa (kBlocks acc.isInt live blocks (accRows acc)).1
          (kBlocks acc.isInt live blocks (accRows acc)).2).1
        (mulResult s1 p cmd a oa (kBlocks acc.isInt live blocks (accRows acc)).1
          (kBlocks acc.isInt live blocks (accRows acc)).2).2) ∧
    (rowsA = a.rows 32 (rowBytes a.dtype * (cmd.sel + 1)) → rowsB = b.rows 32 (rowBytes b.dtype * (cmd.sel + 1)) →
      mulChecks s p cmd ⟨cmd.flg / 4 == 0, mmaTypes true a.dtype b.dtype, false, rowsA, rowsB⟩ (fun _ => []) = .ok (s1, r) →
      readOperand s1 p cmd a (32 * (cmd.sel + 1)) rowsA = .ok oa →
      readOperand s1 p cmd b (32 * (cmd.sel + 1)) rowsB = .ok ob →
      live = liveLine a oa.mask oa.shade → blocks = (List.range (cmd.sel + 1)).map (fun k => (colSlice (32 * k) oa.vals, colSlice (32 * k) ob.vals)) →
      Ends (.mmat p) s p 0 cmd
        (mulResult s1 p cmd a oa (kBlocks acc.isInt live blocks (accRows acc)).1
          (kBlocks acc.isInt live blocks (accRows acc)).2).1
        (mulResult s1 p cmd a oa (kBlocks acc.isInt live blocks (accRows acc)).1
          (kBlocks acc.isInt live blocks (accRows acc)).2).2) ∧
    (∀ kept words,
      kept = (if bitN cmd.flg 2 then 8 else 16) →
      rowsA = a.rows 32 (elemBytes a.dtype * kept * (cmd.sel + 1)) →
      rowsB = b.rows (32 * (cmd.sel + 1)) (rowBytes b.dtype) →
      mulChecks s p cmd ⟨cmd.flg / 8 == 0, mmasTypes a.dtype b.dtype, true, rowsA, rowsB⟩ (metaSpan (cmd.sel + 1)) =
        .ok (s1, r) →
      readOperand s1 p cmd a (kept * (cmd.sel + 1)) rowsA = .ok oa → readOperand s1 p cmd b 32 rowsB = .ok ob →
      live = liveLine a oa.mask oa.shade →
      words = (List.range (32 * (cmd.sel + 1))).map (fun i => engRead s1 p cmd (r.auxa + 4 * i, 4)) →
      (words.all fun x => (List.range 8).all fun g =>
        (groupPositions (bitN cmd.flg 2) (fieldN x (4 * g) 4)).isSome) = true →
      blocks = (List.range (cmd.sel + 1)).map (fun k =>
        (colSlice (32 * k) (oa.vals.zipIdx.map fun v => expandRow (bitN cmd.flg 2) v.1
            ((List.range (cmd.sel + 1)).map fun j => words.getD (32 * j + v.2) 0)),
          transpose32 ((ob.vals.drop (32 * k)).take 32))) →
      Ends (.mmas p) s p 0 cmd
        (mulResult s1 p cmd a oa (kBlocks acc.isInt live blocks (accRows acc)).1
          (kBlocks acc.isInt live blocks (accRows acc)).2).1
        (mulResult s1 p cmd a oa (kBlocks acc.isInt live blocks (accRows acc)).1
          (kBlocks acc.isInt live blocks (accRows acc)).2).2) ∧
    (quantFetch s p cmd = .ok (s2, w) →
      exec (.mmaq p) s = .next (keepHub s (addEvent (setEngine s2 p 0 { (coreAt s2 p).mx with work := some w })
        (.mmaqSlotTake p)))) ∧
    ((coreAt s p).mx.work = some w → slot = tgetD (coreAt s p).tstore (quantSlot cmd w.blk) ⟨0, false⟩ →
      (slot.full = false → exec (.mmaqSlotTake p) s = .next (keepHub s s)) ∧
      (slot.full = true → (coreAt s p).badSlots.contains (quantSlot cmd w.blk) = false →
        t = (if bitN cmd.flg 2 then setCore s p { coreAt s p with
            tstore := tset (coreAt s p).tstore (quantSlot cmd w.blk) { slot with full := false } } else s) →
        w1 = { w with tables := w.tables ++ [slot.bits], blk := w.blk + 1 } →
        w2 = (if (w.blk + 1) % 8 = 0 then quantBlock w1 ((w.blk + 1) / 8 - 1) else w1) →
        (w.blk + 1 ≠ 8 * (cmd.sel + 1) →
          exec (.mmaqSlotTake p) s = .next (keepHub s (addEvent
            (setEngine t p 0 { (coreAt t p).mx with work := some w2 }) (.mmaqSlotTake p)))) ∧
        (w.blk + 1 = 8 * (cmd.sel + 1) →
          exec (.mmaqSlotTake p) s = .next (keepHub s (quantEnd t p cmd (quantBlock w1 cmd.sel))))))

/-- R234, R235: ACCZ leaves a zero accumulator of the type FLG[2] names; ACCLD takes a tile with its attributes; ACCADD
adds a tile or another accumulator, scaled; ACCST stores the accumulator to its tile. That a command acts in one step
is the model's reading (log 35), and so are corners of its checks and values (logs 36, 37, 52). -/
def Obligations.AccumulatorCommandsResults : Prop :=
  ∀ (s : State) (p : Nat) (cmd : EngineCmd) (d : Desc) (acc src : Acc) (s1 s2 s3 : State) (r : Rec) (o : Operand)
    (out : List (List (Nat × BitVec 8))) (k : Option KvDesc) (ws : List Write) (fl : BitVec 8),
    Executes s p 0 cmd → d = descOf (cmd.d 1) → acc = accAt (coreAt s p) cmd.accIx →
    src = accAt (coreAt s p) (d.addr % 8) →
    ((accFlgOk cmd true && factOk cmd false && accFormOk cmd false && cmd.d 1 == 0 && cmd.d 2 == 0) = true →
      engKv s p cmd = .ok k → pinReads s p cmd (kvSpan cmd) = .ok s1 → cleanReads s1 p cmd (kvSpan cmd) = .ok s2 →
      Ends (.accz p) s p 0 cmd (setAcc s2 p cmd.accIx { Acc.zeroed with ty := if bitN cmd.flg 2 then 1 else 0 })
        { shade := 15 }) ∧
    ((accFlgOk cmd false && factOk cmd false && accFormOk cmd false && cmd.d 2 == 0 && d.fieldOk) = true →
      (fpDt d.dtype || intDt d.dtype) = true → (d.domOk && d.dom != 2) = true →
      accSource s p cmd d (intDt d.dtype) false = .ok (s1, r, o) →
      out = o.vals.map (fun x => x.map (accElem (intDt d.dtype))) →
      Ends (.accld p) s p 0 cmd
        (setAcc s1 p cmd.accIx
          { vals := packRows (out.map fun x => x.map (·.1)), ty := if intDt d.dtype then 1 else 0,
            dom := if d.dom = 0 then 1 else 2, lvl := BitVec.ofNat 3 d.lvl, shade := BitVec.ofNat 4 o.shade,
            mask := BitVec.ofNat 32 o.mask })
        { shade := o.shade, flags := orFlags (out.map fun x => orFlags (x.map (·.2))) }) ∧
    ((accFlgOk cmd false && factOk cmd false && accFormOk cmd true && cmd.d 2 == 0 && d.fieldOk) = true →
      (d.domOk && d.dom != 2 && acc.admits d) = true →
      (d.dtype ≠ 8 → ((fpDt d.dtype || intDt d.dtype) && acc.isInt == intDt d.dtype) = true →
        accSource s p cmd d acc.isInt acc.isInt = .ok (s1, r, o) →
        Ends (.accadd p) s p 0 cmd (addInto s1 p cmd d r.scale o).1 (addInto s1 p cmd d r.scale o).2) ∧
      (d.dtype = 8 → src.isInt = acc.isInt →
        (if src.dom = 2 then d.dom = 1 ∧ d.lvl = src.lvl.toNat else d.dom = 0) →
        recordOf s p cmd (prmOf cmd) (accDt acc.isInt) {} = .ok r → (!acc.isInt || r.unitScale) = true →
        recordAddrOk s p cmd (prmOf cmd) = true → engKv s p cmd = .ok k →
        pinReads s p cmd (kvSpan cmd ++ recordSpan (prmOf cmd)) = .ok s1 →
        cleanReads s1 p cmd (kvSpan cmd ++ recordSpan (prmOf cmd)) = .ok s2 →
        Ends (.accadd p) s p 0 cmd (addInto s2 p cmd d r.scale (accOperand src)).1
          (addInto s2 p cmd d r.scale (accOperand src)).2)) ∧
    ((accFlgOk cmd false && factOk cmd true && accFormOk cmd true && cmd.d 2 == 0 && d.fieldOk) = true →
      (fpDt d.dtype || (acc.isInt && intDt d.dtype)) = true →
      (d.domOk && (if acc.dom = 2 then d.dom == 1 && d.lvl == acc.lvl.toNat else d.dom == 0)) = true →
      recordOf s p cmd (prmOf cmd) d.dtype {} = .ok r →
      (tileAddrOk s p cmd d (d.rows 32 (rowBytes d.dtype)) && recordAddrOk s p cmd (prmOf cmd)) = true →
      strideOk d (rowBytes d.dtype) = true →
      kvCheck s p cmd [] (d.header ++ d.rows 32 (rowBytes d.dtype)) = .ok () →
      pinReads s p cmd (kvSpan cmd ++ recordSpan (prmOf cmd)) = .ok s1 →
      pinWrites s1 p cmd (d.header ++ d.rows 32 (rowBytes d.dtype)) = .ok s2 →
      cleanReads s2 p cmd (kvSpan cmd ++ recordSpan (prmOf cmd)) = .ok s3 →
      (ws, fl) = (if d.dom = 0 then
          plainWrites d r ((accRows acc).map fun x => x.map fun v =>
            if acc.isInt then ofInt (toSigned 32 v) else fp32.decode v)
        else haarWrites d r (tauOf cmd r.tauix) (shadeRows d.lvl acc.shade.toNat) acc.shade.toNat r.tauix
          ((accRows acc).map fun x => x.map fun v => if acc.isInt then ofInt (toSigned 32 v) else fp32.decode v)) →
      cleanWrites s3 p cmd (ws.map fun w => (w.1, w.2.1)) = .ok () →
      Ends (.accst p) s p 0 cmd (engWrite s3 p cmd d.header ws) { shade := acc.shade.toNat, flags := fl })

/-- R236-R245: each VX command other than VTKV ends with its operation's writes: an elementwise function, a binary one,
row and column reductions, softmax, normalisation, conversion, the Haar transform and its inverse, row confidences.
That a command acts in one step (log 35), the checks it must pass (logs 36, 50) and the evaluation of exp2 (log 41) are
the model's readings; where the spec states no value (VTRED of a NaN) a free one stands (log 37). -/
def Obligations.VectorTileCommandsResults : Prop :=
  ∀ (s : State) (p : Nat) (cmd : EngineCmd) (a d : Desc),
    Executes s p 1 cmd → a = descOf (cmd.d 1) → d = descOf (cmd.d 3) →
    VxEnds (.vtmap p) s p cmd ⟨vxFlags cmd == 0 && cmd.sel ≤ 11, true, d.dom == 0, {}, false⟩ (fun r os =>
      writeRowsTo cmd r (mapElems (vtmapElem r cmd.sel) (plainOf cmd 0 os).1) (plainOf cmd 0 os).2) ∧
    VxEnds (.vtbin p) s p cmd
      ⟨vxFlags cmd == 0 && cmd.sel ≤ 5, true, if vtbinCoeff cmd then sameDomain a d else d.dom == 0, {}, true⟩ (fun r os =>
      if vtbinCoeff cmd then
        let x := zipElems (vtbinElem r cmd.sel) (opAt os 0).vals (opAt os 1).vals
        let shade := Nat.min (opAt os 0).shade (opAt os 1).shade
        let w := haarWrites d r .nan (shadeRows d.lvl shade) shade (opAt os 0).tauix x.1
        ⟨w.1, w.2 ||| x.2, 0⟩
      else writeRowsTo cmd r (zipElems (vtbinElem r cmd.sel) (plainOf cmd 0 os).1 (plainOf cmd 1 os).1)
        ((plainOf cmd 0 os).2 ||| (plainOf cmd 1 os).2)) ∧
    VxEnds (.vtred p) s p cmd ⟨vxFlags cmd == 0 && cmd.sel ≤ 7, true, d.dom == 0, {}, false⟩ (fun r os =>
      let lines := if bitN cmd.sel 2 then transpose32 (plainOf cmd 0 os).1 else (plainOf cmd 0 os).1
      let vs := lines.zipIdx.map fun l => vtredVal (cmd.sel % 4) (Config.draw (Config.draw s.tick 5) l.2) l.1
      let w := plainWrites d r [vs.map (·.1)]
      ⟨w.1, w.2 ||| (plainOf cmd 0 os).2 ||| orFlags (vs.map (·.2)), 0⟩) ∧
    VxEnds (.vtsmax p) s p cmd ⟨vxFlags cmd ≤ 1 && cmd.sel == 0, true, d.dom == 0, { auxi := true }, false⟩ (fun r os =>
      writeRowsTo cmd r (mapRows (fun i row =>
        smaxRow r (fun j => !(bitN cmd.flg 2) || (j : Int) ≤ i + r.auxi) row) (plainOf cmd 0 os).1) (plainOf cmd 0 os).2) ∧
    VxEnds (.vtnorm p) s p cmd ⟨vxFlags cmd == 0 && cmd.sel ≤ 1, true, d.dom == 0, { auxf := true }, cmd.d 2 != 0⟩
      (fun r os =>
        let gain := if cmd.d 2 = 0 then ([List.replicate 32 (FVal.fin false 1 0 false)], 0) else plainOf cmd 1 os
        writeRowsTo cmd r (mapRows (fun _ row => normRow r cmd.sel (gain.1.headD []) row) (plainOf cmd 0 os).1)
          ((plainOf cmd 0 os).2 ||| gain.2)) ∧
    VxEnds (.vtcvt p) s p cmd ⟨vxFlags cmd == 0 && cmd.sel == 0, true, sameDomain a d, {}, false⟩ (fun r os =>
      let o := opAt os 0
      let w := if a.dom = 0 then plainWrites d r o.vals
        else haarWrites d r .nan (shadeRows d.lvl o.shade) o.shade o.tauix o.vals
      ⟨w.1, w.2, 0⟩) ∧
    VxEnds (.vthaar p) s p cmd ⟨vxFlags cmd == 0 && (cmd.sel < d.lvl || cmd.sel == 15), true, d.dom != 0, {}, false⟩
      (fun r os =>
        let x := alongVectors d.dom (haarFwd d.lvl) (plainOf cmd 0 os).1
        let w := haarWrites d r (tauOf cmd r.tauix) (shadeRows d.lvl cmd.sel) cmd.sel r.tauix x.1
        ⟨w.1, w.2 ||| (plainOf cmd 0 os).2 ||| x.2, 0⟩) ∧
    VxEnds (.vtihaar p) s p cmd ⟨vxFlags cmd == 0 && cmd.sel == 0, true, a.dom != 0 && d.dom == 0, {}, false⟩ (fun r os =>
      writeRowsTo cmd r ((plainOf cmd 0 os).1, 0) (plainOf cmd 0 os).2) ∧
    VxEnds (.vtconf p) s p cmd ⟨vxFlags cmd == 0 && cmd.sel == 0, d.dtype == 1, d.dom == 0, {}, false⟩ (fun r os =>
      let rows := (plainOf cmd 0 os).1.map (confRow r)
      ⟨rows.zipIdx.map fun x => (d.addr + 32 * d.stride * x.2, 16, packList 32 x.1.1),
        (plainOf cmd 0 os).2 ||| orFlags (rows.map (·.2.1)), (rows.filter (·.2.2)).length⟩)

/-- R246, R366, R373, R213, R399: VTKV moves 32 rows between a tile and the entries of a region, from a lower layer's
stand-in where the region lets it, and a store with FLG[2] makes its entries VALID, which is a release of its rows; a
stalled command looks again when woken; a reserved command completes with status 1 or 2 and enters its element; an
operand fault leaves its strand owing an ENGINE trap, which wakes it unless it is parked on a page fault, a repack or a
device register, or its access is on its way. That a command acts in one step is the model's reading (log 35), and so
are its checks in corners (log 36); which rows pass through R226 is its choice (log 50). -/
def Obligations.KeyValueReservedAndStoppedCommands : Prop :=
  ∀ (s : State) (p e : Nat) (cmd : EngineCmd) (t : Desc) (s1 s2 s3 s4 s5 s6 : State) (r : Rec) (k : KvSel) (d : KvDesc)
    (ls : List (Nat × Nat)) (h : BitVec 32) (spans states : List Span) (ws : List Write) (vs : List Nat) (fl : BitVec 8)
    (shade : Nat) (st : Strand) (key : Nat) (val : BitVec 64),
    (Executes s p 1 cmd →
      (t = descOf (cmd.d 3) → kvChecks s p cmd false = .ok (s1, r, k, d) →
        pinReads s1 p cmd (stateSpans d k) = .ok s2 →
        kvLayers p cmd d k (cleanStates s2 p cmd d k) s2 = .ok (s3, ls, true) →
        spans = ls.map (fun x => d.rowSpan k x.2 (k.tok + x.1)) →
        pinReads s3 p cmd spans = .ok s4 →
        cleanReads s4 p cmd (kvSpan cmd ++ recordSpan (vxRecord cmd) ++ stateSpans d k ++ spans) = .ok s5 →
        kvHandle s5 p cmd d k ls = .ok (s6, h) →
        ws = spans.zipIdx.map (fun x => (t.addr + 32 * t.stride * x.2, x.1.2, engReadNow s6 p cmd x.1)) →
        cleanWrites s6 p cmd (ws.map fun w => (w.1, w.2.1)) = .ok () →
        Ends (.vtkvLoad p) s p 1 cmd (engWrite s6 p cmd [] ws)
          { shade := 15, aux := (ls.filter fun x => x.2 != k.layer).length,
            standin := (ls.filter fun x => x.2 != k.layer).length != 0, handle := h }) ∧
      (t = descOf (cmd.d 1) → kvChecks s p cmd true = .ok (s1, r, k, d) →
        spans = kvRows d k → states = (if bitN cmd.flg 2 then stateSpans d k else []) →
        pinWrites s1 p cmd (spans ++ states) = .ok s2 →
        cleanReads s2 p cmd (kvSpan cmd ++ recordSpan (vxRecord cmd) ++
          operandSpans s2 p cmd t (t.rows 32 (rowBytes t.dtype))) = .ok s3 →
        cleanWrites s3 p cmd (spans ++ states) = .ok () →
        kvStoreRows s3 p cmd t r (t.rows 32 (rowBytes t.dtype)) = .ok (vs, fl, shade) →
        (t.dom = 0 → vs = (t.rows 32 (rowBytes t.dtype)).map (engRead s3 p cmd)) ∧
        Ends (.vtkvStore p) s p 1 cmd
          (engWrite s3 p cmd states ((vs.zip spans).map (fun x => (x.2.1, x.2.2, x.1)) ++ states.map fun x => (x.1, 1, 1)))
          { shade := shade, flags := fl }) ∧
      ((coreAt s p).vx.stalled.isSome = true →
        exec (.vtkvEntryWake p) s = .next (keepHub s (addEvent
          (setEngine s p 1 { (coreAt s p).vx with stalled := none }) (commandEvent p 1 cmd))))) ∧
    (Executes s p e cmd → (engineAt (coreAt s p) e).fifo.length < 8 → cmd.fut = 0 →
      writesWaiting s (engineAgent p e) = false →
      exec (.reservedCommand p e) s = .next (keepHub s (enterElement s p e cmd
        (elementOf cmd (if cmd.eng ≠ e ∨ opcOk e cmd.opc = false then 1 else 2) { shade := 15 }) 0))) ∧
    (tget s.strands key = some st →
      s1 = setStrand s key { st with pend := st.pend ++ [(11, val)] } →
      ((∃ va n, st.run = .parked (.fault va n)) ∨ st.run = .parked .repack ∨ (∃ n, st.run = .parked (.device n)) →
        exec (.engineFaultTrap key val) s = .next (keepHub s s1)) ∧
      (st.run = .parked .reply →
        exec (.engineFaultTrap key val) s = .next (keepHub s (if writesWaiting s1 key then wake s1 key else s1))) ∧
      ((∀ va n, st.run ≠ .parked (.fault va n)) → st.run ≠ .parked .repack → (∀ n, st.run ≠ .parked (.device n)) →
        st.run ≠ .parked .reply → exec (.engineFaultTrap key val) s = .next (keepHub s (wake s1 key))))

/-! ### Copies and deliveries (spec/05, spec/06, spec/14) -/

namespace Sys2Proof.Claims

open Sys2Proof.Machine

/-- The event of a copy mode (R213, R250). -/
def modeEvent (p id : Nat) : Nat → Instr
  | 0 => .copy2 p id
  | 1 => .copy3 p id
  | 2 => .slab p id
  | 3 => .gather p id
  | 4 => .scatter p id
  | 5 => .bcast p id
  | 6 => .reduce p id
  | _ => .table p id

/-- A message may arrive at a core: a launch holds it, and its turn has come; `s1` has it logged (R189, R355, R356). -/
def Arrives (s : State) (p place issuer : Nat) (s1 : State) : Prop :=
  ∃ s0, (coreAt s p).lid ≠ 0 ∧
    rrAllow s (coreAt s p).lid messageOp ((coreAt s p).logical * 64 + place) issuer = some s0 ∧
    s1 = rrAppend s0 (coreAt s p).lid (rrWord messageOp ((coreAt s p).logical * 64 + place) 0 0) issuer

end Sys2Proof.Claims

/-- R188, R250, R252, R379, R401: a copy begins with its checks, then moves in chunks or slots until it is done; the
slot a TABLE writes is full in the same step; its COPY message takes it out of the four copies of its core. R251, R272,
R273: a chunk of REDUCE writes, for each element of one page, the sum or extreme of that element over the cores of the
box, its modules being routed to. R142, R177: the writes of a copy that has ended performed, who waits for it looks
again, and its COPY message follows once the mailbox has room. That a chunk is moved whole in one step is the model's
choice (log 8), and so are another module's elements (log 29); corners of the checks are its reading (log 38). -/
def Obligations.CopiesMoveAndComplete : Prop :=
  ∀ (s s1 s2 s3 : State) (p id : Nat) (c c1 c2 c3 : Copy) (last : Bool) (ps : List Part)
    (ds : List (List Part)) (i n v dst total : Nat),
    tget (coreAt s p).copies id = some c →
    ((copyStatus s c = 0 →
        exec (modeEvent p id c.mode) s = .next (keepHub s (addEvent s
          (if c.mode = 7 then .tableSlotWrite p id else .copyChunk p id)))) ∧
      (copyStatus s c ≠ 0 → exec (modeEvent p id c.mode) s = .next (keepHub s (endCopy s p id c (copyStatus s c))))) ∧
    (c.status = none → c.fault = none →
      (copyPaused s c = false →
        oneChunk s p id c = .ok (s1, c1, last) →
        exec (.copyChunk p id) s = .next (keepHub s (if last then endCopy s1 p id c1 0
          else addEvent (setCopy s1 p id c1) (.copyChunk p id)))) ∧
      (c.mode = 6 → total = c.dim 0 / c.esize * c.esize → dst = (c.dst + c.off) % 2 ^ 48 → c.esize ≤ c.dim 0 →
        n = Nat.min (total - c.off) (Nat.min (4096 - dst % 4096) (4096 - (c.src % 2 ^ 17 + c.off) % 4096)) →
        pinSides p c n s [.virt dst] = .ok (s1, ds) → participantBad s1 c (c.src % 2 ^ 17 + c.off) n = false →
        (∀ x ∈ c.modules, x = selfWord s c.lid ∨ routeOk s c.lid x = true) →
        v = packList (8 * c.esize) ((List.range (n / c.esize)).map fun i =>
          reduceElem (Config.draw s1.tick i) c (c.modules.flatMap fun m =>
            c.cores.map fun l => participant s1 c (c.src % 2 ^ 17 + c.off + c.esize * i) m l)) →
        copyWrite s1 p id c v ds = (s2, c2) →
        oneChunk s p id c =
          .ok (s2, { c2 with bytes := c2.bytes + n, off := c2.off + n }, c2.off + n == total)) ∧
      (c.mode = 6 → c.dim 0 < c.esize → copyPaused s c = false →
        exec (.copyChunk p id) s = .next (keepHub s (endCopy s p id c 0))) ∧
      (i = (c.dst + c.run) % 16 → c.opt 13 1 = 0 ∨ (tgetD (coreAt s p).tstore i ⟨0, false⟩).full = false →
        copyPaused s c = false ∨ tableInFlight c = true →
        tableParts s p c = .ok (s1, c2, ps) → partsPoisoned s1 ps = false →
        c3 = { c2 with run := c2.run + 1, bytes := c2.bytes + 16 } →
        c1 = (if tableInFlight c3 then c3 else { c3 with held := none }) →
        s2 = countParts s1 (clusterOf p) c2.asid ps false →
        s3 = modCore s2 p (fun x => { x with
          tstore := tset x.tstore i ⟨BitVec.ofNat 128 (copyRead s2 c2 ps), true⟩,
          badSlots := x.badSlots.filter (· != i) }) →
        exec (.tableSlotWrite p id) s = .next (keepHub s (if c1.run = c2.dim 0 / 16
          then endCopy (slotFilled (setCopy s3 p id c1) p) p id c1 0
          else addEvent (slotFilled (setCopy s3 p id c1) p) (.tableSlotWrite p id))))) ∧
    (writesWaiting s (copyAgent p id) = false → s2 = wakeWhere s (fun _ t w => t.uid == c.uid && w == .engines) →
      (64 ≤ (coreAt s p).mailbox.length →
        exec (.copyComplete p id) s = .next (addEvent s2 (.copyComplete p id))) ∧
      ((coreAt s p).mailbox.length < 64 → v = c.status.getD 0 * 2 ^ 16 + c.slot * 2 ^ 24 →
      Arrives s2 p 32 (copyNumber (coreAt s p) id + v) s1 →
      exec (.copyComplete p id) s = .next (keepHub s (progress (wakeWhere
        (putMessage (modCore s1 p fun x => { x with copies := tdel x.copies id }) p
          ⟨0, word (id % 2 ^ 16 + v), word c.bytes⟩)
        fun k _ w => keyCore k == p && w == .copyRoom) c.lid))))

/-- R131, R189-R194, R345, R346: an inbox takes a value or keeps it in its buffer of 8; a mailbox of 64 takes a
message; a queue's oldest entry crosses to the neighbour core; a roaming strand's core is chosen once, as its packet
arrives, and it joins that core's guests, after waiting for room if eight are there, and is admitted to a free slot.
Which core and slot a guest takes in corners is the model's reading (log 17). -/
def Obligations.MessagesAndGuestsArrive : Prop :=
  ∀ (s s0 s1 s2 : State) (p q n slot cls id u into : Nat) (v lo hi : BitVec 64) (rest : List (BitVec 64)) (k : Packet)
    (ks : List Packet),
    (inboxHeld (coreAt s p) slot < 9 → Arrives s p slot v.toNat s1 →
      exec (.inboxDelivery p slot v) s = .next (keepHub s (putInbox s1 p slot v))) ∧
    ((coreAt s p).mailbox.length < 64 → Arrives s p (32 + cls) hi.toNat s1 →
      exec (.mailboxDelivery p cls lo hi) s = .next (keepHub s (putMessage s1 p ⟨cls, lo, hi⟩))) ∧
    (bitN (queueAt (coreAt s p).outq q).setting.toNat 0 = true → (queueAt (coreAt s p).outq q).items = v :: rest →
      neighbourCore s p (fieldN (queueAt (coreAt s p).outq q).setting.toNat 1 2) = some n →
      s.agenda.contains (.queueTransfer p q) = false →
      into = fieldN (queueAt (coreAt s p).outq q).setting.toNat 3 2 →
      takesEntry (coreAt s n) into (fieldN (queueAt (coreAt s p).outq q).setting.toNat 1 2) = true →
      Arrives s n (40 + into) (senderWord s (coreAt s p).lid p q 0) s0 →
      s1 = modCore s0 p (fun e =>
        { e with outq := tset e.outq q { queueAt (coreAt s p).outq q with items := rest } }) →
      s2 = modCore s1 n (fun e =>
        { e with inq := tset e.inq into { queueAt (coreAt s1 n).inq into with
            items := (queueAt (coreAt s1 n).inq into).items ++ [v] } }) →
      exec (.queueTransfer p q) s = .next (keepHub s (moveQueue (wakeNames (wakeNames s2 p) n) p q))) ∧
    (tget s.packets id = some k →
      (k.landed = false → packetCore s k = some (s1, n) →
        ((coreAt s1 n).guests.length < 8 → landedAt s1 n = [] →
          exec (.roamPacketArrival id) s = .next (keepHub s (keepOnce
            (modCore { s1 with packets := tdel s1.packets id } n fun c => { c with guests := c.guests ++ [k] })
            (.guestAdmit n)))) ∧
        (8 ≤ (coreAt s1 n).guests.length →
          exec (.roamPacketArrival id) s = .next (keepHub s (addEvent
            { s1 with packets := tset s1.packets id { k with landed := true, dest := .core n } }
            (.roamPacketArrival id))))) ∧
      (k.landed = true → k.dest = .core n → (coreAt s n).guests.length < 8 →
        exec (.roamPacketArrival id) s = .next (keepHub s (keepOnce
          (modCore { s with packets := tdel s.packets id } n fun c => { c with guests := c.guests ++ [k] })
          (.guestAdmit n))))) ∧
    ((coreAt s p).guests = k :: ks → guestSlots s p ≠ [] → roamRegion s p k.strand.map = some u →
      exec (.guestAdmit p) s = .next (keepHub s (if ks = [] then admitGuest s p k ks (guestSlots s p) u
        else keepOnce (admitGuest s p k ks (guestSlots s p) u) (.guestAdmit p))))

/-- R12, R133, R136, R155, R156, R163, R177, R289-R291, R302, R316: a strand whose reply, notice, time-out, line or
flush has come is woken and rejoins rotation, once no write of its own waits at a word's home; the writes of an access
to device registers follow one another; a reply to MON records the monitor; a notice marks its monitor triggered; a
line that arrives enters the strand's L1, and its cluster's middle cache if that lacked it. Which line a full cache
replaces is free (log 27); how a strand goes on after a halt (log 32) and when a reply comes (log 9) are the model's
readings; that an arming may drop a monitor is its choice (log 34). -/
def Obligations.WokenStrandsRejoinRotation : Prop :=
  ∀ (s s1 s2 s3 : State) (k m pa leaf p c line : Nat) (t : Strand) (va : Nat) (nd na : NameIx) (deadline len : Nat)
    (w : Instr) (ws : List Instr) (data : BitVec 512) (xs : List (Nat × Nat × Nat)),
    tget s.strands k = some t → p = keyCore k → c = clusterOf p →
    (t.run = .woken → exec (.strandRejoin k) s = .next (keepHub s (setStrand s k { t with run := .ready (s.cycle + 1) }))) ∧
    (t.run = .parked .reply → writesWaiting s k = false → exec (.accessReply k) s = .next (keepHub s (wake s k))) ∧
    (t.run = .parked .arming → exec (.accessReply k) s = .next (keepHub s (wake (recordArming s k) k))) ∧
    (t.run = .parked (.device []) → exec (.accessReply k) s = .next (keepHub s (wake s k))) ∧
    (t.run = .parked (.device (w :: ws)) → s.agenda.contains w = false →
      exec (.accessReply k) s = .next (keepHub s (nextDeviceWrite s k ws))) ∧
    (t.run = .parked .flush → exec (.iflushComplete k) s = .next (keepHub s (wake s k))) ∧
    (t.run = .parked (.tlbInv xs) → (∀ x ∈ xs, chunkHolds s x = false) →
      exec (.tlbinvComplete k) s = .next (keepHub s (wake s k))) ∧
    ((monAt t m).fired = true →
      exec (.monitorNotice k m) s = .next (keepHub s (tryWaita
        (setStrand s k (setMon t m { monAt t m with triggered := true })) k 0))) ∧
    (t.run = .parked (.waitA nd na (some deadline) len) → deadline ≤ s.cycle →
      exec (.waitaTimeout k deadline) s = .next (keepHub s (tryWaita s k 0))) ∧
    (t.run = .parked (.fetch va) → translate s t.lid (.core p) (asidOf s t.lid) t.sv .fetch va = .ok (s1, pa, leaf) →
      line = lineOf pa →
      (cacheGet (clusterAt s1 c).icache line = some data →
        exec (.fetchLineArrival k) s = .next (keepHub s (wake (fillL1 s1 p line data) k))) ∧
      (cacheGet (clusterAt s1 c).icache line = none → poisoned s1 (line * 64) 64 = none →
        s2 = fillMiddle (countPlace s1 c (asidOf s1 t.lid) va pa false) c line (lineBytes s1 line) →
        s3 = prefetchNext { fillL1 s2 p line (lineBytes s1 line) with cur := k } va →
        exec (.fetchLineArrival k) s = .next (keepHub s (wake { s3 with cur := s.cur } k))))

/-- R138-R141, R170-R172, R177-R180, R200, R201, R358, R427: an arrival is added to what its core holds and a release
lets every participant go; a refused take is sent again after 64 cycles; a free word is granted to the oldest waiting
strand; a holder of 4,096 cycles owes a RSVHOLD trap; group members count down or cancel, and are logged, on a group
already settled too; FUTNEW and FUTFREE. That FUTFREE leaves an entry that is owned or unsettled alone is the model's
reading (log 46). -/
def Obligations.BarriersTakesReservationsAndFutureEvents : Prop :=
  ∀ (s s1 : State) (p r src lid w k granted code : Nat) (rect : BitVec 64) (t : Strand) (q : Rsv) (ks : List Nat)
    (h : BitVec 32) (v : BitVec 64) (f : Future) (u : State × Bool) (pc : BitVec 48) (takes : List TakeLane),
    exec (.barrierArrival p r rect src) s = .next (keepHub s (sendSummary (setBarrier s p r
      { barrierAt (coreAt s p) r with held := (barrierAt (coreAt s p) r).held ++ [(rect, src)] }) p r)) ∧
    exec (.barrierRelease lid r rect) s =
      .next (keepHub s ((participants s r rect).foldl (fun acc p => releaseAt acc p r) s)) ∧
    (tget s.strands k = some t → t.run = .parked .takeRefused → t.lastIssue.getD 0 + 64 ≤ s.cycle →
      takes = (t.takes.filter fun x => x.pc == t.pc && x.got.isNone) →
      (∀ x ∈ takes, (takenBy (strandAt (sendTakes s k takes) k) x.lane x.ea).isSome = true) →
      exec (.takeResend k) s = .next (keepHub s (wake (sendTakes s k takes) k))) ∧
    (tget s.rsvs w = some q → q.holder = none →
      (q.queue = k :: ks → exec (.reservationGrant w) s = .next (keepHub s (wake
        { s with rsvs := (tset s.rsvs w
            { holder := some k, granted := s.cycle, forwarded := true, queue := ks, writes := [] }) } k))) ∧
      (q.queue = [] → exec (.reservationGrant w) s = .next (keepHub s { s with rsvs := tdel s.rsvs w }))) ∧
    (tget s.strands k = some t → t.holds = some (w, pc, granted) → granted + 4096 ≤ s.cycle →
      exec (.rsvholdTimeout k w granted) s = .next (keepHub s (oweTrap s k 10 (BitVec.setWidth 64 pc))) ∧
      (∃ x, tget (oweTrap s k 10 (BitVec.setWidth 64 pc)).strands k = some x ∧ x.pend = t.pend ++ [(10, BitVec.setWidth 64 pc)] ∧
        (x.run = t.run ∨ x.run = .woken))) ∧
    (futOf s h = some f → rrAllow s f.owner (if code = 0 then 4 else 7) h.toNat 0 = some s1 →
      (code = 0 → fdecAt s1 h ⟨4, f.owner, 0, false⟩ = some u →
        exec (.groupMemberUpdate h code) s = .next (keepHub s u.1)) ∧
      (code = 0 → fdecAt s1 h ⟨4, f.owner, 0, false⟩ = none →
        exec (.groupMemberUpdate h code) s = .next (keepHub s (logFut s1 h ⟨4, f.owner, 0, false⟩))) ∧
      (code ≠ 0 → exec (.groupMemberUpdate h code) s =
        .next (keepHub s (settle s1 h (.cancel code) ⟨7, f.owner, 0, false⟩)))) ∧
    exec .futnew s = .next (keepHub s (futNewUnowned s).1) ∧
    (futOf s (BitVec.setWidth 32 v) = some f → f.owner = 0 → f.st = .resolved ∨ f.st = .cancelled →
      exec (.futfree v) s = .next (keepHub s (futRelease s (hIndex (BitVec.setWidth 32 v)))))

/-! ### Tasks, backfill, launches, faults, the hub and the module (spec/08, spec/14, spec/13, spec/17 to spec/19) -/

/-- R347-R351, R152, R374-R377: a ready record is dispatched; its footprint in place, its strand goes on; a record
waiting more than 65,536 cycles becomes urgent, a backfill task waiting 2^20 cycles loses its low priority; a finished
task's footprint is written back and it retires; a backfill job is queued, started and stepped, and its layers become
valid. Binding a task at dispatch (log 16) and corners of backfill (log 18) are the model's readings; an event whose
turn has not come is tried again (log 1). -/
def Obligations.TasksAndBackfillJobsAdvance : Prop :=
  ∀ (s s1 s2 s3 s4 : State) (c t p slot run since place key k j : Nat) (x : Task) (st : Strand) (b b1 : Job) (pick : Nat × Task × Spot),
    (pickRecord s c = some pick →
      s1 = wakePost (dispatchRecord s c pick.1 pick.2.1 pick.2.2) c →
      exec (.taskDispatch c) s = .next (keepHub s (if someReady s1 c then keepOnce s1 (.taskDispatch c) else s1))) ∧
    (taskAt s t = some x →
      (x.st = .fetching p slot run → movePieces (fetchPiece t x p run) s (piecesLeft x) = (s1, none) →
        writesWaiting s1 (footAgent t) = false →
        exec (.footprintFetchDone t) s = .next (keepHub s
          (wake (setTask s1 t { x with st := .running p run, fault := none }) (16 * p + slot)))) ∧
      (x.st = .ready since place → x.urgent = false → since + 65536 < s.cycle →
        exec (.recordUrgent t) s = .next (keepHub s (setTask s t { x with urgent := true }))) ∧
      (x.st = .retiring p run key → retireReady s x p = true →
        movePieces (writePiece t x p run) s (piecesLeft x) = (s1, none) → writesWaiting s1 (footAgent t) = false →
        exec (.taskRetire t) s = .next (keepHub s (retireDone s1 t x p key))) ∧
      (x.st = .ready since place → x.late = false → since + 2 ^ 20 ≤ s.cycle →
        exec (.backfillPlacementTimeout t) s = .next (keepHub s (setTask s t { x with late := true })))) ∧
    (tget s.strands k = some st → st.job = some b → jobsQueued s b.cluster < 64 →
      exec (.confExitJobPost k) s = .next (keepHub s
        (wake (setStrand (postJob (progress s st.lid) b) k { st with job := none }) k))) ∧
    (s1 = (match jobsWhere s c (jobCanStart s) with
        | e :: _ => setJob s e.1 { e.2 with running := true }
        | [] => s) →
      s2 = ((jobsWhere s1 c fun _ y => jobCanStep s1 y).findSome? (fun e => stepJob s1 e.1 e.2)).getD s1 →
      exec (.backfillJobStart c) s = .next (keepHub s
        (if jobsWhere s2 c (jobCanStart s2) ≠ [] ∨ jobsWhere s2 c (fun _ y => jobCanStep s2 y) ≠ []
          then keepOnce s2 (.backfillJobStart c) else s2))) ∧
    (tget s.jobs j = some b → b.task.isSome = true → b.fault = false → jobLive s b = true →
      (b.tested = false → writesWaiting s (jobAgent j) = false →
        exec (.backfillLayerDone j) s = .next (keepHub s
          (keepOnce (setJob s j (nextLayer b)) (.backfillJobStart b.cluster)))) ∧
      (b.tested = true → routineCancelled s b = none → validateLayer s j b = .ok (some s3) →
        b1 = { b with tested := false } → s4 = setJob s3 j b1 → writesWaiting s4 (jobAgent j) = false →
        exec (.backfillLayerDone j) s = .next (keepHub s
          (keepOnce (setJob s4 j (nextLayer b1)) (.backfillJobStart b.cluster)))) ∧
      (∀ code, b.tested = true → routineCancelled s b = some code → settleJob s j b (.cancel code) = some s3 →
        exec (.backfillLayerDone j) s = .next (keepHub s s3)))

/-- R332-R341, R354, R404-R406: a pushed header queues or is refused with status 2; admission considers the heads; a
launch starts on all its cores, ends with them over, is reported hung when its watchdog runs out, leaves the machine
once quiet and returns where there is room on cores none of which is faulty; Worash lifts a freeze, or ends a launch
that is hung or has faulted. R428: while the report ring is full nothing is admitted or ended, which is only tried
again, and a launch that is to return goes back to its queue. Corners of admission (log 19), of the watchdog (log 20)
and of saved launches (log 22) are the model's readings; an event whose turn has not come is tried again (log 1). -/
def Obligations.LaunchesStartEndAndMove : Prop :=
  ∀ (s s1 s2 : State) (q lid : Nat) (v : BitVec 64) (l l1 : Launch) (x : Saved) (m : Table Nat),
    (fieldN v.toNat 0 4 ≠ 0 →
      exec (.lqpush q v) s = .next (keepHub s (report s 0 2 1 (fieldN v.toNat 8 40 * 256)))) ∧
    (fieldN v.toNat 0 4 = 0 → (queueOf s q).length < 64 →
      exec (.lqpush q v) s = .next (keepHub s
        (keepOnce { s with lq := tset s.lq q (queueOf s q ++ [.push v]) } .launchAdmit))) ∧
    (ringFull s = false → moduleQuiescing s = false → s1 = considerHeads s (heads s) →
      exec .launchAdmit s = .next (keepHub s (if heads s1 = [] then s1 else keepOnce s1 .launchAdmit))) ∧
    (ringFull s = true →
      exec .launchAdmit s = .next (keepHub s (if heads s = [] then s else keepOnce s .launchAdmit))) ∧
    (launchAt s lid = some l →
      (l.started = false → writesWaiting s loadWriter = false → s1 = l.coreMap.foldl (startCore l lid) s →
        exec (.launchStartBroadcast lid) s = .next (keepHub s (addEvent (addEvent
          { s1 with launches := tset s1.launches lid { l with started := true } } (.launchEnd lid))
          (.watchdogExpiry lid)))) ∧
      (launchOver s l lid = true → ringFull s = false → s1 = rrRetry (flushCores s l) lid → mergeWaits s1 l = false →
        endLaunch s1 l lid = some s2 → exec (.launchEnd lid) s = .next (keepHub s s2)) ∧
      (ringFull s = true → exec (.launchEnd lid) s = .next (keepHub s (keepOnce s (.launchEnd lid)))) ∧
      (l.hung = false → l.started = true → l.wdogLeft = 0 →
        exec (.watchdogExpiry lid) s = .next (keepHub s (report
          { s with launches := tset s.launches lid { l with hung := true, frozen := true },
                   told := s.told ++ [.hung lid (parkedLong s lid l.period)] } lid 0 5
          (parkedWord (parkedLong s lid l.period))))) ∧
      (l.started = true → s1 = (if l.greying then s else beginGrey s lid) → launchAt s1 lid = some l1 →
        s2 = (if launchQuiet s1 l1 lid then flushCores s1 l1 else s1) →
        exec (.greyOut lid) s = .next (keepHub s
          (if launchQuiet s1 l1 lid = true ∧ mergeWaits s2 l1 = false then saveLaunch s2 l1 lid
            else keepOnce s2 (.greyOut lid)))) ∧
      (l.hung = true →
        exec (.liftTheFreeze lid) s = .next (keepHub s (keepOnce
          { s with launches := tset s.launches lid { l with hung := false, frozen := false, wdogLeft := l.period } }
          (.watchdogExpiry lid)))) ∧
      (endable s l lid = true → ringFull s = false → endLaunch (cancelTasks (killLaunch s l lid) lid) l lid = some s2 →
        exec (.endLaunchAsHung lid) s = .next (keepHub s s2)) ∧
      (endable s l lid = true → ringFull s = true →
        exec (.endLaunchAsHung lid) s = .next (addEvent s (.endLaunchAsHung lid)))) ∧
    (savedAt s lid = some x → placeLaunch s x.launch.ctx (launchCores x.launch) = some m →
      (roomFor s m (x.launch.field 0x68 0 2) = .free → ringFull s = false → someFaulty s m = false →
        exec (.restore lid) s = .next (keepHub s (restoreLaunch s x lid m))) ∧
      (ringFull s = true → exec (.restore lid) s = .next (keepHub s (requeue s x.launch lid))))

/-- R397, R398, R402, R427-R430, R433, R434, R417: a fault queue of 256 takes an entry; FREPLY answers a parked agent;
FQHEAD and LRHEAD free what the host has read; the pool decoders and PCAP keep their ranges, other device registers the
bits they have; an attestation is queued and served; a patch table in force has its hash in PATCHHASH and brings the
version of its firmware, and a refused one leaves the table in force and is reported. Corners of attestation (log 24),
and which device registers hold which bits and where pool bytes stay (log 25), are the model's readings and choices; so
is which firmware a patch table brings (logs 30, 33). -/
def Obligations.FaultQueuesAndHubRegisters : Prop :=
  ∀ (s : State) (c j off n p : Nat) (e : BitVec 128) (r : List (BitVec 128)) (v a : BitVec 64) (rest : List (BitVec 64))
    (image : List (BitVec 64)) (table : List PatchEntry),
    ((clusterAt s c).fqWait = e :: r → (clusterAt s c).fqCount < 256 →
      exec (.faultQueuePost c) s = .next (keepHub s (setCluster s c { clusterAt s c with
        fq := tset (clusterAt s c).fq (clusterAt s c).fqTail.toNat e, fqTail := (clusterAt s c).fqTail + 1,
        fqCount := (clusterAt s c).fqCount + 1, fqWait := r }))) ∧
    (corePhys s (fieldN v.toNat 16 16) (fieldN v.toNat 32 16) = some p →
      exec (.freply c v) s = .next (keepHub s
        (replyTo s c (fieldN v.toNat 16 16) p (fieldN v.toNat 52 3) (fieldN v.toNat 48 4)))) ∧
    exec (.fqheadWrite c v) s = .next (keepHub s (setCluster s c { clusterAt s c with
      fqHead := BitVec.setWidth 8 v,
      fqCount := (clusterAt s c).fqCount - (BitVec.setWidth 8 v - (clusterAt s c).fqHead).toNat })) ∧
    exec (.lrheadWrite v) s = .next (keepHub s (flushReports { s with lrHead := BitVec.setWidth 32 v })) ∧
    (j < 64 → poolDecReserved v.toNat = false →
      ∃ t, exec (.pooldecWrite j v) s = .next t ∧ devReg t (0x3000 + 8 * j) = v.toNat ∧
        ∀ b, b < 0x1000_0000_0000 → memGet t.mem b = memGet s.mem b) ∧
    (j < 64 → poolDecReserved v.toNat = true → exec (.pooldecWrite j v) s = .next s) ∧
    (∃ t, exec (.pcapWrite v) s = .next t ∧ devReg t 0x4010 = capOf v.toNat ∧
      1000 ≤ devReg t 0x4010 ∧ devReg t 0x4010 ≤ 7500) ∧
    (devMask off v.toNat = some n → exec (.deviceRegisterWrite off v) s =
      .next (if off = 0x40 then flushReports (setDev s off (word n)) else setDev s off (word n))) ∧
    (devMask off v.toNat = none → exec (.deviceRegisterWrite off v) s = .next s) ∧
    (∃ t, exec (.attreq v) s = .next t ∧
      t.hub.attQueue = s.hub.attQueue ++ [word (fieldN v.toNat 6 46 * 64)] ∧ .attestationDone ∈ t.agenda) ∧
    (s.hub.attQueue = a :: rest →
      exec .attestationDone s = .next (attestServe { s with hub := { s.hub with attQueue := rest } } a.toNat)) ∧
    (patchTable image = some table →
      exec (.patchTableLoad image) s = .next
        { s with hub := { s.hub with patch := table, patchHash := patchHashOf image, firmware := s.hub.flashA.fw } }) ∧
    (patchTable image = none →
      exec (.patchTableLoad image) s = .next { s with told := s.told ++ [.patchRefused] })

/-- R302-R305, R403, R415, R431-R438, R275, R278, R329: a window's counters are reported, and the pages decided on move
or are replicated, or in override mode wait for Worash; a page moves in steps to the frame reserved for it, a second
move of it comes to nothing meanwhile, and its replicas are removed; a vault row is replaced by one of its 64 spares; a
flit in sequence is acknowledged and taken, one that is not is discarded; power-on resets the module with what boot
found; heat and power throttle it, and at 105 degrees it shuts down; a checkpoint greys out every launch, then takes or
restores its image; kydb stops and resumes strands. Corners of checkpoints (log 23), migration (log 26), boot (log 30),
power (log 31) and kydb (log 32) are the model's readings; the form of a flit's CRC and payload is presumed (log 28). -/
def Obligations.ModuleEventsResults : Prop :=
  ∀ (s s1 : State) (n asid page frame vault row dir result watts celsius p : Nat) (flit : BitVec 2048) (v : BitVec 64)
    (ps : List PagePart) (m : Migration) (ds : List Decision) (k : Link) (b : Booted) (origin : ResetOrigin),
    (ds = decidePages s (mappedExtents s) (pagesReported s) →
      s1 = { s with clusters := tmap s.clusters fun _ c => { c with pmc := [] }
                    told := s.told ++ counterNotices s } →
      (s.hub.override = false → exec .migrationWindow s = .next (keepHub s (ds.foldl applyDecision s1))) ∧
      (s.hub.override = true → exec .migrationWindow s = .next
        { s1 with hub := { s.hub with decisions := s.hub.decisions ++ ds }, told := s1.told ++ [.decisions ds] })) ∧
    (ps = pageParts s asid page → ps ≠ [] → pagePinned s asid page = false → pageMovable s asid page = true →
      pageFootprint s asid page = false →
      (s.migrations.find? (fun x => x.asid == asid && x.page == page) = none →
        frameInUse s (mappedExtents s) frame = false →
        exec (.pageMigration asid page frame) s = .next (addEvent
          { s with migrations := s.migrations ++ [⟨asid, page, frame, false⟩] } (.pageMigration asid page frame))) ∧
      (s.migrations.find? (fun x => x.asid == asid && x.page == page) = some m → m.frame = frame →
        m.began = false → (ps.any fun x => partReserved s x.pa) = false →
        exec (.pageMigration asid page frame) s = .next (addEvent
          { s with migrations := s.migrations.map fun x =>
              if x.asid == asid && x.page == page then { x with began := true } else x }
          (.pageMigration asid page frame))) ∧
      (s.migrations.find? (fun x => x.asid == asid && x.page == page) = some m → m.frame = frame →
        m.began = true → pageChunks s asid page = [] → (∀ x ∈ ps, reservedByOther s none x.entry 8 = none) →
        exec (.pageMigration asid page frame) s = .next (migrateNow s asid page frame ps)) ∧
      (s.migrations.find? (fun x => x.asid == asid && x.page == page) = some m → m.frame ≠ frame →
        exec (.pageMigration asid page frame) s = .next s)) ∧
    ((s.replicas.any fun m => m.asid == asid && m.page == page) = true → replicaWritten s asid page = true →
      exec (.replicaRemovalDone asid page) s = .next (unholdPage (dropPage s asid page) asid page)) ∧
    (vault < 2048 → row < 12288 → tgetD s.hub.spareRows vault 0 < 64 →
      s1 = { s with hub := { s.hub with
        spareRows := tset s.hub.spareRows vault (tgetD s.hub.spareRows vault 0 + 1) } } →
      exec (.vaultRowRetire vault row) s = .next { (spurious s1 5 fun _ _ m =>
        (vaultBase vault + 2048 * row) / 64 ≤ m.line && m.line < (vaultBase vault + 2048 * row) / 64 + 32) with
          hub := s1.hub }) ∧
    (k = linkAt s dir →
      (flitCrcOk flit.toNat = true → flitType flit.toNat = 1 → flitSeq flit.toNat = k.expect →
        exec (.linkFlitReceive dir flit) s = .next (pumpLinks (flitAccept (setLink s dir
          { k with sent := acknowledged k.sent (flitLast flit.toNat), waiting := false,
                   credits := BitVec.ofNat 32 (fieldN flit.toNat 2016 32), expect := (k.expect + 1) % 65536 })
          flit.toNat))) ∧
      (flitCrcOk flit.toNat = false →
        exec (.linkFlitReceive dir flit) s = .next (setLink s dir { k with waiting := true }))) ∧
    (b = bootRom s.hub → exec (.powerOnReset origin) s = .next (if b.bad = true then resetFrom s b.meas true
      else bootPatch (if b.fromB then s.hub.flashB else s.hub.flashA) (resetFrom s b.meas false))) ∧
    (n = (if devReg s 0x4010 < watts ∨ 95 ≤ celsius then min 15 (s.hub.throttle + 1) else s.hub.throttle - 1) →
      s1 = { s with hub := { s.hub with throttle := n } } →
      exec (.thermalThrottle watts celsius) s = .next (if 105 ≤ celsius then keepOnce s1 .thermalShutdown else s1)) ∧
    (s.launches = [] → ∃ t, exec .thermalShutdown s = .next t ∧ t.hub.powered = false ∧ t.mem = s.mem) ∧
    (s.launches ≠ [] → exec .thermalShutdown s = .next (keepOnce (greyAll s) .thermalShutdown)) ∧
    exec (.ckptSramImage v) s = .next (ckptStart v s) ∧ exec (.ckptWholeDeviceImage v) s = .next (ckptStart v s) ∧
    exec (.ckptRestore v) s = .next (ckptStart v s) ∧
    (ckptBusy s = true →
      (s.launches ≠ [] → exec (.ckptDone result) s = .next (keepOnce (greyAll s) (.ckptDone result))) ∧
      (s.launches = [] → exec (.ckptDone result) s = .next (keepOnce (ckptAct s result) .launchAdmit))) ∧
    exec (.kydbHalt p) s = .next (keepHub s { haltCore s p with kydb := true }) ∧
    exec (.kydbResume p) s = .next (keepHub s ((haltedOf s p).foldl (fun acc k => tryWaita acc k 4)
      { s with strands := tmap s.strands fun k t => if keyCore k = p then resumed s.cycle t else t }))

/-! ### What instructions leave alone; the step; encodings; the hub (spec/02, spec/03, spec/05, spec/13, spec/18, spec/19) -/

namespace Sys2Proof.Claims

open Sys2Proof.Machine

/-- The guard, the destination and the sources of an instruction that computes one destination from names (R61-R67). -/
def computes : Instr → Option (Guard × NameIx × List NameIx)
  | .add g d a b _ | .sub g d a b _ | .mul g d a b _ | .mulh g d a b _ | .div g d a b _ | .rem g d a b _ => some (g, d, [a, b])
  | .and g d a b _ | .or g d a b _ | .xor g d a b _ | .andn g d a b _ => some (g, d, [a, b])
  | .shl g d a b _ | .shr g d a b _ | .sha g d a b _ | .rot g d a b _ => some (g, d, [a, b])
  | .min g d a b _ | .max g d a b _ | .absd g d a b _ | .fadd g d a b _ | .fsub g d a b _ | .fmul g d a b _ => some (g, d, [a, b])
  | .sel g d a b _ | .vshuf g d a b _ | .fmin g d a b | .fmax g d a b => some (g, d, [a, b])
  | .mac g d a b _ | .ffma g d a b _ => some (g, d, [d, a, b])
  | .addi g d a _ | .muli g d a _ | .andi g d a _ | .ori g d a _ | .xori g d a _ | .shli g d a _ => some (g, d, [a])
  | .shri g d a _ | .shai g d a _ | .roti g d a _ | .mini g d a _ | .maxi g d a _ => some (g, d, [a])
  | .mov g d a _ | .ext g d a _ | .bitc g d a _ | .fcvt g d a _ | .funOp g d a _ => some (g, d, [a])
  | .ins g d a _ => some (g, d, [d, a])
  | .li g d _ | .vidx g d _ => some (g, d, [])
  | .lih g d _ => some (g, d, [d])
  | _ => none

/-- The guard, the predicate and the sources of a compare (R102, R111). -/
def comparesTo : Instr → Option (Guard × BitVec 3 × List NameIx)
  | .cmp g d a b _ | .fcmp g d a b _ => some (g, d, [a, b])
  | .cmpi g _ d a _ => some (g, d, [a])
  | _ => none

/-- The state is what a trap leaves, or what leaving rotation to issue again leaves, of the state before (R163, R392). -/
def StopsShort (s t : State) : Prop :=
  (∃ c v, t = trapped s s c v) ∨ ∃ w, t = keepHub s (parkStrand s s.cur w)

/-- A release: an ordered form of release order above strand scope (R169). -/
def MemForm.releases : MemForm → Bool
  | .ordered sc o _ => o != 0 && sc != 0
  | _ => false

/-- Byte `b` is not one of the `n` bytes that any of the accesses reaches. -/
def Untouched (ts : List Touch) (n b : Nat) : Prop :=
  ∀ y ∈ ts, ∀ pa leaf, y.tgt = .mem pa leaf → b < pa ∨ pa + n ≤ b

/-- A step, `s` being the state with its tick counted, is `o`, but for an input that is taken and an event that happens: which
of them comes first, where one waits, is a free value (logs 1 and 44); a woken strand rejoins first (R344). -/
def StepIs (s0 s : State) (o : Out) : Prop :=
  let turn : Out := match s.agenda with
    | .strandRejoin k :: rest => exec (.strandRejoin k) { s with agenda := rest }
    | e :: rest => if Config.agendaFirst s.tick then exec e { s with agenda := rest } else o
    | [] => o
  step s0 = match s.inputs with
    | x :: xs => if Config.inputNow s.tick then .next (takeInput x xs s) else turn
    | [] => turn

end Sys2Proof.Claims

/-- R18, R26, R27, R33, R36, R56, R83: an instruction that computes one name from names of the row store either stops short
(a trap, rows being repacked), or changes nothing but the PC, sticky flags that it sets, takes it held, and the bits of ND in
the uniform bank or in the enabled lanes; with index 0 as ND no bank changes. A row with an uncorrectable error is healed only
where ND covers it whole (R403). -/
def Obligations.ComputedInstructionsChangeOnlyTheirDestination : Prop :=
  ∀ (i : Instr) (s t : State) (g : Guard) (d : NameIx) (srcs : List NameIx) (di : NameInfo) (is : List NameInfo),
    computes i = some (g, d, srcs) → nameInfo (curStrand s).map d = some di → infos (curStrand s) srcs = some is →
    (di :: is).all rowName = true → exec i s = .next t →
    StopsShort s t ∨
      (OnlyStrandAndRows s t ∧ StrandKept (curStrand s) (strandAt t s.cur) (nextPc s (curStrand s)) false ∧
        (∀ j, ¬ inUniform (curStrand s) di j →
          bitN (coreAt t (curP s)).ubank.toNat j = bitN (coreAt s (curP s)).ubank.toNat j) ∧
        (∀ j, ¬ inLanes (curStrand s) di (enabledLanes (curStrand s) g) j →
          bitN (coreAt t (curP s)).lbank.toNat j = bitN (coreAt s (curP s)).lbank.toNat j) ∧
        ∀ r, r ∈ (coreAt s (curP s)).badRows → r ∉ (coreAt t (curP s)).badRows →
          rowInside (curStrand s) di (enabledLanes (curStrand s) g) r)

/-- R15, R16, R102, R111: a compare of names of the row store either stops short, or changes nothing but the PC, takes it
held and one predicate: pD where the first source is uniform, and qD of enabled lanes where it is a lane name; p0 and q0 are
never that predicate, and no bank changes. -/
def Obligations.ComparesChangeOnlyTheirPredicate : Prop :=
  ∀ (i : Instr) (s t : State) (g : Guard) (d : BitVec 3) (srcs : List NameIx) (is : List NameInfo),
    comparesTo i = some (g, d, srcs) → infos (curStrand s) srcs = some is → is.all rowName = true → exec i s = .next t →
    StopsShort s t ∨
      (OnlyStrandAndRows s t ∧ StrandKept (curStrand s) (strandAt t s.cur) (nextPc s (curStrand s)) true ∧
        (coreAt t (curP s)).ubank = (coreAt s (curP s)).ubank ∧ (coreAt t (curP s)).lbank = (coreAt s (curP s)).lbank ∧
        (coreAt t (curP s)).badRows = (coreAt s (curP s)).badRows ∧
        (if is.head?.any (·.isLane) then (strandAt t s.cur).pword = (curStrand s).pword
          else (strandAt t s.cur).q = (curStrand s).q) ∧
        (∀ k, k < 16 → k = 0 ∨ k ≠ d.toNat → bitN (strandAt t s.cur).pword.toNat k = bitN (curStrand s).pword.toNat k) ∧
        (∀ l k, l < 16 → k < 8 → k = 0 ∨ k ≠ d.toNat ∨ l ∉ enabledLanes (curStrand s) g →
          bitN (strandAt t s.cur).q.toNat (8 * l + k) = bitN (curStrand s).q.toNat (8 * l + k)))

/-- R46, R165-R167: a store that is no release and whose accesses all reach memory changes no byte outside those it stores
to, and a load none at all but those that order 2 above strand scope first writes out of the write-merge buffer, unless it
stops short with nothing of it done (a trap, or a wait at a reserved word). Through the near windows the checks themselves
change no byte. -/
def Obligations.StoresChangeOnlyTheirBytes : Prop :=
  ∀ (s s1 s2 s3 t : State) (g : Guard) (x : MemForm) (write : Bool) (d a : NameIx) (di : NameInfo) (is : List NameInfo)
    (lanes : List Nat) (xs : List Src) (eas : List (Nat × Nat)) (ts : List Touch),
    AccessReady s g x write d a di is lanes s1 s2 xs eas ts → (∀ y ∈ ts, ∃ pa leaf, y.tgt = .mem pa leaf) →
    ((∀ e ∈ eas, isNear e.2 = true) → s2.mem = s.mem) ∧
    (write = true → x.releases = false → exec (x.store g d a) s = .next t →
      StopsShort s t ∨ ∀ b, Untouched ts x.size b → memGet t.mem b = memGet s2.mem b) ∧
    (write = false → di.kind ≠ 5 →
      (match x with
        | .ordered sc o _ => if o = 2 ∧ sc ≠ 0 then settleStores s2 else .ok s2
        | _ => .ok s2) = .ok s3 → exec (x.load g d a) s = .next t →
      StopsShort s t ∨ ∀ b, memGet t.mem b = memGet s3.mem b)

/-- R51, R56, R58, R290, R342, R343: at its issue turn a strand that owes no trap and stands at no breakpoint or patch
runs exec of the instruction that the word at its PC decodes to, from its line buffer, and what is kept beside is that
the next word may be the second of its packet; the word of a LIMM makes a pair with the next. A pending event runs exec
of that event, an input that is taken does what it does, and with no strand to issue a cycle passes. What a step adds
is the turn's bookkeeping and the latch. That a step is one input, one event, one issue or one cycle, which of them it
is, and which strand issues, are the model's choices (logs 1, 2, 44). -/
def Obligations.StepRunsTheDecodedInstruction : Prop :=
  ∀ (s0 s b : State) (k n : Nat) (t : Strand) (line : BitVec 512) (w : BitVec 32) (i : Instr),
    s = { s0 with tick := s0.tick + 1 } → s.hub.powered = true → s.hub.recovery = false →
    (nextIssuer s = some k → t = strandAt s k → t.pend = [] → atBreak s k t = false →
      t.lineBuf = some (t.pc.toNat / 64, n, line) → b = beginIssue s k → patchMatch b = none → w = lineWord line t.pc.toNat →
      (opOf w ≠ 0x7F → decodeWord w = .ok i →
        StepIs s0 s (keepPacket b (decide (s.paired ≠ some k) && packetOfTwo b w) (exec i { b with ir := ⟨w, 4⟩ }))) ∧
      (opOf w = 0x7F → (t.pc.toNat + 4) % 2 ^ 48 / 64 = t.pc.toNat / 64 →
        decodePair (fld 25 0 w) (lineWord line ((t.pc.toNat + 4) % 2 ^ 48)) = .ok i →
        StepIs s0 s (exec i { b with ir := ⟨lineWord line ((t.pc.toNat + 4) % 2 ^ 48), 8⟩ }))) ∧
    (nextIssuer s = none → StepIs s0 s (.next (pumpLinks (passTime s))))

/-- R52-R69, R21: words written out field by field from the spec's encoding tables decode to the instructions they stand
for, one or more of each group of opcodes; an unassigned opcode decodes to the operation of that name; a field that must be
0 and is not is refused by name. Fields from the top: OP, GN, GP, then those of the format. -/
def Obligations.WordsOfTheEncodingTablesDecode : Prop :=
  -- R62: ADD, ND 5, NA 6, NB 7, FN .w, guard !p3; the word 0; ADDI, imm -1; LI; SEL on p2
  decodeWord 0b0000000_1_011_000101_000110_000111_001 = .ok (.add ⟨true, 3⟩ 5 6 7 1) ∧
  decodeWord 0x0000_0000 = .ok (.add ⟨false, 0⟩ 0 0 0 0) ∧
  decodeWord 0b0010000_0_000_000001_000010_111111111 = .ok (.addi ⟨false, 0⟩ 1 2 ⟨none, 0b111111111⟩) ∧
  decodeWord 0b0011011_0_000_000011_000000000101010 = .ok (.li ⟨false, 0⟩ 3 ⟨none, 42⟩) ∧
  decodeWord 0b0011101_0_000_000101_000110_000111_010 = .ok (.sel ⟨false, 0⟩ 5 6 7 2) ∧
  -- R56, R73: `li acc, 0x12_3456` with acc name 3, the spec's own example
  decodeBytes (bytesOfWord 0xFE00_0024 ++ bytesOfWord 0x3601_B456) = .ok (.limm 0x24 0x3601_B456, []) ∧
  -- R63: FADD; CMPI lt into p3; VRED min; MOV saturating
  decodeWord 0b0100000_0_000_000011_000001_000010_000 = .ok (.fadd ⟨false, 0⟩ 3 1 2 0) ∧
  decodeWord 0b0101111_0_000_010011_000100_000000101 = .ok (.cmpi ⟨false, 0⟩ 2 3 4 ⟨none, 5⟩) ∧
  decodeWord 0b0110011_0_001_000111_001000_000000_100 = .ok (.vred ⟨false, 1⟩ 7 8 4) ∧
  decodeWord 0b0110000_0_000_000001_000010_000000_010 = .ok (.mov ⟨false, 0⟩ 1 2 2) ∧
  -- R64, R65: BR -2; LDW; STO, module scope, release, 8 bytes; RSV; JR; R21: PLOG q2 := !q1 or q3
  decodeWord 0b0111000_0_000_111111111111111111110 = .ok (.br ⟨false, 0⟩ ⟨none, 0b111111111111111111110⟩) ∧
  decodeWord 0b1000010_0_000_001001_001010_000000011 = .ok (.ldw ⟨false, 0⟩ 9 10 ⟨none, 3⟩) ∧
  decodeWord 0b1010110_0_000_001001_001010_00_100_01_11 = .ok (.sto ⟨false, 0⟩ 9 10 4 1 3) ∧
  decodeWord 0b1011000_0_000_000101_000110_000000001 = .ok (.rsv ⟨false, 0⟩ 5 6 ⟨none, 1⟩) ∧
  decodeWord 0b0111010_0_000_000000_000110_000000_000 = .ok (.jr ⟨false, 0⟩ 6) ∧
  decodeWord 0b1001110_0_000_001010_001001_000011_001 = .ok (.plog ⟨false, 0⟩ 10 9 3 1) ∧
  -- R66, R68: ENQ VX; FGET, shade 5; START; CTLW of register 0x0D; SYS NOP
  decodeWord 0b1100000_0_000_000000_000110_000000_001 = .ok (.enq ⟨false, 0⟩ 6 1) ∧
  decodeWord 0b1101010_0_000_000101_000110_00000_0101 = .ok (.fget ⟨false, 0⟩ 5 6 5) ∧
  decodeWord 0b1110100_0_000_000101_000110_000111_000 = .ok (.start ⟨false, 0⟩ 5 6 7) ∧
  decodeWord 0b1111001_0_000_000000_000110_01_0001101 = .ok (.ctlw ⟨false, 0⟩ 6 0x0D) ∧
  decodeWord 0xFA00_0000 = .ok (.nop ⟨false, 0⟩) ∧
  -- R69: opcode 0x7E is unassigned; JR with ND 1 breaks a must-be-0 rule; R57: a LIMM before an A-format word
  decodeWord 0b1111110_0_000_000000_000000_000000_000 = .ok (.unassignedOpcode 0b1111110_0_000_000000_000000_000000_000) ∧
  decodeWord 0b0111010_0_000_000001_000110_000000_000 = .error (.reservedField 0b0111010_0_000_000001_000110_000000_000) ∧
  decodeBytes (bytesOfWord 0xFE00_0000 ++ bytesOfWord 0) = .error (.badPair 0)

/-- R51, R52, R57, R61-R69: for every term that some word or pair of words stands for, decoding its encoding gives the term
back and leaves the bytes that follow; so no bit of an operand is dropped. -/
def Obligations.DecodeAndEncodeAgree : Prop :=
  ∀ (i : Instr) (rest : List Byte), i.encodable = true → decodeBytes (encodeBytes i ++ rest) = .ok (i, rest)

/-- R417, R427, R429, R438: whatever a step does, the power cap stays in its range, no pool decoder holds a reserved
value, PATCHHASH is the hash of the table in force, and the throttle is one of 16 steps. How the throttle moves is the
model's reading (log 31). -/
def Obligations.EveryStepKeepsTheHubInvariant : Prop :=
  ∀ (s t : State), HubOk s.hub → step s = .next t → HubOk t.hub

/-- R417, R427, R432: the hub at reset meets the invariant. PCAP's value at reset is the model's choice (log 6). -/
def Obligations.ResetMeetsTheHubInvariant : Prop := HubOk State.reset.hub

namespace Sys2Proof.Claims

open Sys2Proof.Machine

/-- The events that may change the hub's registers: writes of device registers, what the hub, its root of trust, firmware,
power controller and page migrator do, a retired vault row, a flit taken from a link (R303, R305, R403, R417, R427-R438). -/
def changesHub : Instr → Bool
  | .deviceRegisterWrite _ _ | .pooldecWrite _ _ | .pcapWrite _ | .attreq _ | .attestationDone => true
  | .ckptSramImage _ | .ckptWholeDeviceImage _ | .ckptRestore _ | .ckptDone _ | .patchTableLoad _ => true
  | .vaultRowRetire _ _ | .linkFlitReceive _ _ | .powerOnReset _ | .thermalThrottle _ _ | .thermalShutdown => true
  | .pageMigration _ _ _ | .migrationWindow | .replicaRemovalDone _ _ => true
  | _ => false

end Sys2Proof.Claims

/-- R60, R427: no instruction of a strand, no engine command, no copy and no other event changes a register of the hub;
only the hub's own events do, and no instruction's word is one of them. R162, R163, R316: so a supervisor strand's
8-byte store to the device window changes no register in its own exec: it posts the event of that register's write,
with the value stored, and its strand waits until the write is performed. Which device registers a store changes, by
the event it posts, is in part the model's choice (log 25). -/
def Obligations.OnlyHubEventsChangeTheHub : Prop :=
  (∀ (i : Instr) (s t : State), changesHub i = false → exec i s = .next t → t.hub = s.hub) ∧
  (∀ w i, decodeWord w = .ok i → changesHub i = false) ∧
  ∀ (s s1 s2 s3 : State) (g : Guard) (x : MemForm) (d a : NameIx) (di : NameInfo) (is : List NameInfo) (xs : List Src)
    (ea off : Nat) (y : Touch) (vals : Nat → Nat) (fl : BitVec 8) (ev : List Instr),
    AccessReady s g x true d a di is [0] s1 s2 xs [(0, ea)] [y] → y.lane = 0 → y.tgt = .device off → isOwn ea = false →
    stateGuard s2 x.size [y] = .ok () → overwritable s2 [y] x.size = .ok () →
    collect [0] (fun l => storeFit x.size (nth xs 0) l) = .ok (vals, fl) →
    (if isPush y then release s2 else
      match x with
      | .ordered sc o _ => orderedPre sc o s2
      | _ => relaxed s2) = .ok s3 →
    s3.agenda = s.agenda ++ ev → ev.all (fun e => !(isDeviceWrite e)) = true →
    ∃ t, exec (x.store g d a) s = .next t ∧ t.hub = s.hub ∧ deviceEvent off (vals 0) ∈ t.agenda ∧
      (strandAt t s.cur).run = .parked (.device [deviceEvent off (vals 0)])
end

