-- ==== Sys2Proof/Laws/Exec.lean ====
section
/-!
SUPPORT. The equations of `exec`: what each constructor runs, so that no proof unfolds the dispatch.
-/

namespace Sys2Proof.Machine

theorem exec_add (s : State) {g d a b f} : exec (.add g d a b f) s = execAdd g d a b f s := rfl
theorem exec_sub (s : State) {g d a b f} : exec (.sub g d a b f) s = execSub g d a b f s := rfl
theorem exec_mul (s : State) {g d a b f} : exec (.mul g d a b f) s = execMul g d a b f s := rfl
theorem exec_mulh (s : State) {g d a b f} : exec (.mulh g d a b f) s = execMulh g d a b f s := rfl
theorem exec_div (s : State) {g d a b f} : exec (.div g d a b f) s = execDiv g d a b f s := rfl
theorem exec_rem (s : State) {g d a b f} : exec (.rem g d a b f) s = execRem g d a b f s := rfl
theorem exec_and (s : State) {g d a b f} : exec (.and g d a b f) s = execAnd g d a b f s := rfl
theorem exec_or (s : State) {g d a b f} : exec (.or g d a b f) s = execOr g d a b f s := rfl
theorem exec_xor (s : State) {g d a b f} : exec (.xor g d a b f) s = execXor g d a b f s := rfl
theorem exec_andn (s : State) {g d a b f} : exec (.andn g d a b f) s = execAndn g d a b f s := rfl
theorem exec_shl (s : State) {g d a b f} : exec (.shl g d a b f) s = execShl g d a b f s := rfl
theorem exec_shr (s : State) {g d a b f} : exec (.shr g d a b f) s = execShr g d a b f s := rfl
theorem exec_sha (s : State) {g d a b f} : exec (.sha g d a b f) s = execSha g d a b f s := rfl
theorem exec_rot (s : State) {g d a b f} : exec (.rot g d a b f) s = execRot g d a b f s := rfl
theorem exec_min (s : State) {g d a b f} : exec (.min g d a b f) s = execMin g d a b f s := rfl
theorem exec_max (s : State) {g d a b f} : exec (.max g d a b f) s = execMax g d a b f s := rfl
theorem exec_addi (s : State) {g d a i} : exec (.addi g d a i) s = execAddi g d a i s := rfl
theorem exec_muli (s : State) {g d a i} : exec (.muli g d a i) s = execMuli g d a i s := rfl
theorem exec_andi (s : State) {g d a i} : exec (.andi g d a i) s = execAndi g d a i s := rfl
theorem exec_ori (s : State) {g d a i} : exec (.ori g d a i) s = execOri g d a i s := rfl
theorem exec_xori (s : State) {g d a i} : exec (.xori g d a i) s = execXori g d a i s := rfl
theorem exec_shli (s : State) {g d a i} : exec (.shli g d a i) s = execShli g d a i s := rfl
theorem exec_shri (s : State) {g d a i} : exec (.shri g d a i) s = execShri g d a i s := rfl
theorem exec_shai (s : State) {g d a i} : exec (.shai g d a i) s = execShai g d a i s := rfl
theorem exec_roti (s : State) {g d a i} : exec (.roti g d a i) s = execRoti g d a i s := rfl
theorem exec_mini (s : State) {g d a i} : exec (.mini g d a i) s = execMini g d a i s := rfl
theorem exec_maxi (s : State) {g d a i} : exec (.maxi g d a i) s = execMaxi g d a i s := rfl
theorem exec_li (s : State) {g d i} : exec (.li g d i) s = execLi g d i s := rfl
theorem exec_lih (s : State) {g d i} : exec (.lih g d i) s = execLih g d i s := rfl
theorem exec_sel (s : State) {g d a b f} : exec (.sel g d a b f) s = execSel g d a b f s := rfl
theorem exec_absd (s : State) {g d a b f} : exec (.absd g d a b f) s = execAbsd g d a b f s := rfl
theorem exec_mac (s : State) {g d a b f} : exec (.mac g d a b f) s = execMac g d a b f s := rfl
theorem exec_fadd (s : State) {g d a b f} : exec (.fadd g d a b f) s = execFadd g d a b f s := rfl
theorem exec_fsub (s : State) {g d a b f} : exec (.fsub g d a b f) s = execFsub g d a b f s := rfl
theorem exec_fmul (s : State) {g d a b f} : exec (.fmul g d a b f) s = execFmul g d a b f s := rfl
theorem exec_ffma (s : State) {g d a b f} : exec (.ffma g d a b f) s = execFfma g d a b f s := rfl
theorem exec_fmin (s : State) {g d a b} : exec (.fmin g d a b) s = execFmin g d a b s := rfl
theorem exec_fmax (s : State) {g d a b} : exec (.fmax g d a b) s = execFmax g d a b s := rfl
theorem exec_fcvt (s : State) {g d a f} : exec (.fcvt g d a f) s = execFcvt g d a f s := rfl
theorem exec_funOp (s : State) {g d a f} : exec (.funOp g d a f) s = execFunOp g d a f s := rfl
theorem exec_fcmp (s : State) {g d a b f} : exec (.fcmp g d a b f) s = execFcmp g d a b f s := rfl
theorem exec_rsz (s : State) {g d m w i} : exec (.rsz g d m w i) s = execRsz g d m w i s := rfl
theorem exec_widq (s : State) {g d w i} : exec (.widq g d w i) s = execWidq g d w i s := rfl
theorem exec_ext (s : State) {g d a st} : exec (.ext g d a st) s = execExt g d a st s := rfl
theorem exec_ins (s : State) {g d a st} : exec (.ins g d a st) s = execIns g d a st s := rfl
theorem exec_bitc (s : State) {g d a f} : exec (.bitc g d a f) s = execBitc g d a f s := rfl
theorem exec_cmp (s : State) {g d a b f} : exec (.cmp g d a b f) s = execCmp g d a b f s := rfl
theorem exec_cmpi (s : State) {g c d a i} : exec (.cmpi g c d a i) s = execCmpi g c d a i s := rfl
theorem exec_mov (s : State) {g d a f} : exec (.mov g d a f) s = execMov g d a f s := rfl
theorem exec_vfirst (s : State) {g d a f} : exec (.vfirst g d a f) s = execVfirst g d a f s := rfl
theorem exec_vlane (s : State) {g d a b f} : exec (.vlane g d a b f) s = execVlane g d a b f s := rfl
theorem exec_vred (s : State) {g d a f} : exec (.vred g d a f) s = execVred g d a f s := rfl
theorem exec_vpredAny (s : State) {g d a} : exec (.vpredAny g d a) s = execVpredAny g d a s := rfl
theorem exec_vpredAll (s : State) {g d a} : exec (.vpredAll g d a) s = execVpredAll g d a s := rfl
theorem exec_vpredCount (s : State) {g d a} : exec (.vpredCount g d a) s = execVpredCount g d a s := rfl
theorem exec_vidx (s : State) {g d f} : exec (.vidx g d f) s = execVidx g d f s := rfl
theorem exec_vshuf (s : State) {g d a b f} : exec (.vshuf g d a b f) s = execVshuf g d a b f s := rfl
theorem exec_vscan (s : State) {g d a b f} : exec (.vscan g d a b f) s = execVscan g d a b f s := rfl
theorem exec_br (s : State) {g i} : exec (.br g i) s = execBr g i s := rfl
theorem exec_call (s : State) {g i} : exec (.call g i) s = execCall g i s := rfl
theorem exec_jr (s : State) {g a} : exec (.jr g a) s = execJr g a s := rfl
theorem exec_callr (s : State) {g a} : exec (.callr g a) s = execCallr g a s := rfl
theorem exec_loop (s : State) {g d i} : exec (.loop g d i) s = execLoop g d i s := rfl
theorem exec_brany (s : State) {g i} : exec (.brany g i) s = execBrany g i s := rfl
theorem exec_brall (s : State) {g i} : exec (.brall g i) s = execBrall g i s := rfl
theorem exec_ipf (s : State) {g i} : exec (.ipf g i) s = execIpf g i s := rfl
theorem exec_ldb (s : State) {g d a i} : exec (.ldb g d a i) s = execLdb g d a i s := rfl
theorem exec_ldh (s : State) {g d a i} : exec (.ldh g d a i) s = execLdh g d a i s := rfl
theorem exec_ldw (s : State) {g d a i} : exec (.ldw g d a i) s = execLdw g d a i s := rfl
theorem exec_ldd (s : State) {g d a i} : exec (.ldd g d a i) s = execLdd g d a i s := rfl
theorem exec_ldx (s : State) {g d a b st} : exec (.ldx g d a b st) s = execLdx g d a b st s := rfl
theorem exec_ldg (s : State) {g d a b st} : exec (.ldg g d a b st) s = execLdg g d a b st s := rfl
theorem exec_ldo (s : State) {g d a st o z} : exec (.ldo g d a st o z) s = execLdo g d a st o z s := rfl
theorem exec_ldt (s : State) {g d a i} : exec (.ldt g d a i) s = execLdt g d a i s := rfl
theorem exec_ldk (s : State) {g d a i} : exec (.ldk g d a i) s = execLdk g d a i s := rfl
theorem exec_pref (s : State) {g a i} : exec (.pref g a i) s = execPref g a i s := rfl
theorem exec_plog (s : State) {g d a b f} : exec (.plog g d a b f) s = execPlog g d a b f s := rfl
theorem exec_plogMov (s : State) {g d a} : exec (.plogMov g d a) s = execPlogMov g d a s := rfl
theorem exec_pmovR (s : State) {g d} : exec (.pmovR g d) s = execPmovR g d s := rfl
theorem exec_pmovW (s : State) {g a f} : exec (.pmovW g a f) s = execPmovW g a f s := rfl
theorem exec_pmovFc (s : State) {g f} : exec (.pmovFc g f) s = execPmovFc g f s := rfl
theorem exec_stb (s : State) {g d a i} : exec (.stb g d a i) s = execStb g d a i s := rfl
theorem exec_sth (s : State) {g d a i} : exec (.sth g d a i) s = execSth g d a i s := rfl
theorem exec_stw (s : State) {g d a i} : exec (.stw g d a i) s = execStw g d a i s := rfl
theorem exec_std (s : State) {g d a i} : exec (.std g d a i) s = execStd g d a i s := rfl
theorem exec_stx (s : State) {g d a b st} : exec (.stx g d a b st) s = execStx g d a b st s := rfl
theorem exec_sts (s : State) {g d a b st} : exec (.sts g d a b st) s = execSts g d a b st s := rfl
theorem exec_sto (s : State) {g d a st o z} : exec (.sto g d a st o z) s = execSto g d a st o z s := rfl
theorem exec_put (s : State) {g d a i} : exec (.put g d a i) s = execPut g d a i s := rfl
theorem exec_rsv (s : State) {g d a i} : exec (.rsv g d a i) s = execRsv g d a i s := rfl
theorem exec_rel (s : State) {g d a i} : exec (.rel g d a i) s = execRel g d a i s := rfl
theorem exec_faa (s : State) {g d a b} : exec (.faa g d a b) s = execFaa g d a b s := rfl
theorem exec_swp (s : State) {g d a b} : exec (.swp g d a b) s = execSwp g d a b s := rfl
theorem exec_cas (s : State) {g d a b} : exec (.cas g d a b) s = execCas g d a b s := rfl
theorem exec_feset (s : State) {g st a i} : exec (.feset g st a i) s = execFeset g st a i s := rfl
theorem exec_fetest (s : State) {g d a i} : exec (.fetest g d a i) s = execFetest g d a i s := rfl
theorem exec_enq (s : State) {g a e} : exec (.enq g a e) s = execEnq g a e s := rfl
theorem exec_pop (s : State) {g d e} : exec (.pop g d e) s = execPop g d e s := rfl
theorem exec_epeek (s : State) {g d e} : exec (.epeek g d e) s = execEpeek g d e s := rfl
theorem exec_cxset (s : State) {g a r} : exec (.cxset g a r) s = execCxset g a r s := rfl
theorem exec_cxgo (s : State) {g d} : exec (.cxgo g d) s = execCxgo g d s := rfl
theorem exec_send (s : State) {g a b c} : exec (.send g a b c) s = execSend g a b c s := rfl
theorem exec_mrecv (s : State) {g d a c} : exec (.mrecv g d a c) s = execMrecv g d a c s := rfl
theorem exec_qctl (s : State) {g d a st} : exec (.qctl g d a st) s = execQctl g d a st s := rfl
theorem exec_fnew (s : State) {g d a} : exec (.fnew g d a) s = execFnew g d a s := rfl
theorem exec_fset (s : State) {g a b} : exec (.fset g a b) s = execFset g a b s := rfl
theorem exec_fget (s : State) {g d a st} : exec (.fget g d a st) s = execFget g d a st s := rfl
theorem exec_fexp (s : State) {g a b} : exec (.fexp g a b) s = execFexp g a b s := rfl
theorem exec_fdec (s : State) {g a} : exec (.fdec g a) s = execFdec g a s := rfl
theorem exec_post (s : State) {g d a r} : exec (.post g d a r) s = execPost g d a r s := rfl
theorem exec_roam (s : State) {g a} : exec (.roam g a) s = execRoam g a s := rfl
theorem exec_pubsh (s : State) {g a b} : exec (.pubsh g a b) s = execPubsh g a b s := rfl
theorem exec_stopref (s : State) {g a} : exec (.stopref g a) s = execStopref g a s := rfl
theorem exec_settle (s : State) {g a} : exec (.settle g a) s = execSettle g a s := rfl
theorem exec_fcancel (s : State) {g a b} : exec (.fcancel g a b) s = execFcancel g a b s := rfl
theorem exec_mon (s : State) {g a m} : exec (.mon g a m) s = execMon g a m s := rfl
theorem exec_monx (s : State) {g d a m} : exec (.monx g d a m) s = execMonx g d a m s := rfl
theorem exec_waita (s : State) {g d a} : exec (.waita g d a) s = execWaita g d a s := rfl
theorem exec_bara (s : State) {g k} : exec (.bara g k) s = execBara g k s := rfl
theorem exec_barw (s : State) {g k} : exec (.barw g k) s = execBarw g k s := rfl
theorem exec_fence (s : State) {g d a st} : exec (.fence g d a st) s = execFence g d a st s := rfl
theorem exec_start (s : State) {g d a b} : exec (.start g d a b) s = execStart g d a b s := rfl
theorem exec_join (s : State) {g a} : exec (.join g a) s = execJoin g a s := rfl
theorem exec_exit (s : State) {g} : exec (.exit g) s = execExit g s := rfl
theorem exec_yield (s : State) {g} : exec (.yield g) s = execYield g s := rfl
theorem exec_waitmsg (s : State) {g} : exec (.waitmsg g) s = execWaitmsg g s := rfl
theorem exec_trap (s : State) {g i} : exec (.trap g i) s = execTrap g i s := rfl
theorem exec_ctlr (s : State) {g d r} : exec (.ctlr g d r) s = execCtlr g d r s := rfl
theorem exec_ctlw (s : State) {g a r} : exec (.ctlw g a r) s = execCtlw g a r s := rfl
theorem exec_ctlx (s : State) {g d a r} : exec (.ctlx g d a r) s = execCtlx g d a r s := rfl
theorem exec_mapld (s : State) {g a i} : exec (.mapld g a i) s = execMapld g a i s := rfl
theorem exec_rtt (s : State) {g} : exec (.rtt g) s = execRtt g s := rfl
theorem exec_conf (s : State) {g d a b} : exec (.conf g d a b) s = execConf g d a b s := rfl
theorem exec_confExit (s : State) {g d a b} : exec (.confExit g d a b) s = execConfExit g d a b s := rfl
theorem exec_nop (s : State) {g} : exec (.nop g) s = execNop g s := rfl
theorem exec_iflush (s : State) {g a} : exec (.iflush g a) s = execIflush g a s := rfl
theorem exec_iflushAll (s : State) {g} : exec (.iflushAll g) s = execIflushAll g s := rfl
theorem exec_tlbinvPage (s : State) {g a} : exec (.tlbinvPage g a) s = execTlbinvPage g a s := rfl
theorem exec_tlbinvAsid (s : State) {g a} : exec (.tlbinvAsid g a) s = execTlbinvAsid g a s := rfl
theorem exec_tlbinvAll (s : State) {g} : exec (.tlbinvAll g) s = execTlbinvAll g s := rfl
theorem exec_dbrk (s : State) {g c} : exec (.dbrk g c) s = execDbrk g c s := rfl
theorem exec_getid (s : State) {g d f} : exec (.getid g d f) s = execGetid g d f s := rfl
theorem exec_bind (s : State) {g a c} : exec (.bind g a c) s = execBind g a c s := rfl
theorem exec_unbind (s : State) {g a c} : exec (.unbind g a c) s = execUnbind g a c s := rfl
theorem exec_grey (s : State) {g a} : exec (.grey g a) s = execGrey g a s := rfl
theorem exec_eres (s : State) {g e} : exec (.eres g e) s = execEres g e s := rfl
theorem exec_limm (s : State) {ext w} : exec (.limm ext w) s = execLimm ext w s := rfl
theorem exec_unassignedOpcode (s : State) {w} : exec (.unassignedOpcode w) s = execUnassignedOpcode w s := rfl
theorem exec_patchSubstitute (s : State) {e} : exec (.patchSubstitute e) s = execPatchSubstitute e s := rfl
theorem exec_accessReply (s : State) {k} : exec (.accessReply k) s = execAccessReply k s := rfl
theorem exec_strandRejoin (s : State) {k} : exec (.strandRejoin k) s = execStrandRejoin k s := rfl
theorem exec_repackRowWrite (s : State) {p} : exec (.repackRowWrite p) s = execRepackRowWrite p s := rfl
theorem exec_repackUnlock (s : State) {p} : exec (.repackUnlock p) s = execRepackUnlock p s := rfl
theorem exec_monitorNotice (s : State) {k m} : exec (.monitorNotice k m) s = execMonitorNotice k m s := rfl
theorem exec_waitaTimeout (s : State) {k deadline} : exec (.waitaTimeout k deadline) s = execWaitaTimeout k deadline s := rfl
theorem exec_barrierArrival (s : State) {p r rect src} : exec (.barrierArrival p r rect src) s = execBarrierArrival p r rect src s := rfl
theorem exec_barrierRelease (s : State) {lid r rect} : exec (.barrierRelease lid r rect) s = execBarrierRelease lid r rect s := rfl
theorem exec_takeResend (s : State) {k} : exec (.takeResend k) s = execTakeResend k s := rfl
theorem exec_reservationGrant (s : State) {w} : exec (.reservationGrant w) s = execReservationGrant w s := rfl
theorem exec_rsvholdTimeout (s : State) {k w granted} : exec (.rsvholdTimeout k w granted) s = execRsvholdTimeout k w granted s := rfl
theorem exec_mma (s : State) {p} : exec (.mma p) s = execMma p s := rfl
theorem exec_mmas (s : State) {p} : exec (.mmas p) s = execMmas p s := rfl
theorem exec_mmaq (s : State) {p} : exec (.mmaq p) s = execMmaq p s := rfl
theorem exec_mmat (s : State) {p} : exec (.mmat p) s = execMmat p s := rfl
theorem exec_accz (s : State) {p} : exec (.accz p) s = execAccz p s := rfl
theorem exec_accld (s : State) {p} : exec (.accld p) s = execAccld p s := rfl
theorem exec_accst (s : State) {p} : exec (.accst p) s = execAccst p s := rfl
theorem exec_accadd (s : State) {p} : exec (.accadd p) s = execAccadd p s := rfl
theorem exec_vtmap (s : State) {p} : exec (.vtmap p) s = execVtmap p s := rfl
theorem exec_vtbin (s : State) {p} : exec (.vtbin p) s = execVtbin p s := rfl
theorem exec_vtred (s : State) {p} : exec (.vtred p) s = execVtred p s := rfl
theorem exec_vtsmax (s : State) {p} : exec (.vtsmax p) s = execVtsmax p s := rfl
theorem exec_vtnorm (s : State) {p} : exec (.vtnorm p) s = execVtnorm p s := rfl
theorem exec_vtcvt (s : State) {p} : exec (.vtcvt p) s = execVtcvt p s := rfl
theorem exec_vthaar (s : State) {p} : exec (.vthaar p) s = execVthaar p s := rfl
theorem exec_vtihaar (s : State) {p} : exec (.vtihaar p) s = execVtihaar p s := rfl
theorem exec_vtconf (s : State) {p} : exec (.vtconf p) s = execVtconf p s := rfl
theorem exec_vtkvLoad (s : State) {p} : exec (.vtkvLoad p) s = execVtkvLoad p s := rfl
theorem exec_vtkvStore (s : State) {p} : exec (.vtkvStore p) s = execVtkvStore p s := rfl
theorem exec_mmaqSlotTake (s : State) {p} : exec (.mmaqSlotTake p) s = execMmaqSlotTake p s := rfl
theorem exec_vtkvEntryWake (s : State) {p} : exec (.vtkvEntryWake p) s = execVtkvEntryWake p s := rfl
theorem exec_engineFaultTrap (s : State) {k val} : exec (.engineFaultTrap k val) s = execEngineFaultTrap k val s := rfl
theorem exec_copy2 (s : State) {p id} : exec (.copy2 p id) s = execCopy2 p id s := rfl
theorem exec_copy3 (s : State) {p id} : exec (.copy3 p id) s = execCopy3 p id s := rfl
theorem exec_slab (s : State) {p id} : exec (.slab p id) s = execSlab p id s := rfl
theorem exec_gather (s : State) {p id} : exec (.gather p id) s = execGather p id s := rfl
theorem exec_scatter (s : State) {p id} : exec (.scatter p id) s = execScatter p id s := rfl
theorem exec_bcast (s : State) {p id} : exec (.bcast p id) s = execBcast p id s := rfl
theorem exec_reduce (s : State) {p id} : exec (.reduce p id) s = execReduce p id s := rfl
theorem exec_table (s : State) {p id} : exec (.table p id) s = execTable p id s := rfl
theorem exec_tableSlotWrite (s : State) {p id} : exec (.tableSlotWrite p id) s = execTableSlotWrite p id s := rfl
theorem exec_copyChunk (s : State) {p id} : exec (.copyChunk p id) s = execCopyChunk p id s := rfl
theorem exec_copyComplete (s : State) {p id} : exec (.copyComplete p id) s = execCopyComplete p id s := rfl
theorem exec_inboxDelivery (s : State) {p slot val} : exec (.inboxDelivery p slot val) s = execInboxDelivery p slot val s := rfl
theorem exec_mailboxDelivery (s : State) {p cls lo hi} : exec (.mailboxDelivery p cls lo hi) s = execMailboxDelivery p cls lo hi s := rfl
theorem exec_queueTransfer (s : State) {p q} : exec (.queueTransfer p q) s = execQueueTransfer p q s := rfl
theorem exec_roamPacketArrival (s : State) {id} : exec (.roamPacketArrival id) s = execRoamPacketArrival id s := rfl
theorem exec_guestAdmit (s : State) {p} : exec (.guestAdmit p) s = execGuestAdmit p s := rfl
theorem exec_taskDispatch (s : State) {c} : exec (.taskDispatch c) s = execTaskDispatch c s := rfl
theorem exec_footprintFetchDone (s : State) {t} : exec (.footprintFetchDone t) s = execFootprintFetchDone t s := rfl
theorem exec_recordUrgent (s : State) {t} : exec (.recordUrgent t) s = execRecordUrgent t s := rfl
theorem exec_taskRetire (s : State) {t} : exec (.taskRetire t) s = execTaskRetire t s := rfl
theorem exec_groupMemberUpdate (s : State) {g code} : exec (.groupMemberUpdate g code) s = execGroupMemberUpdate g code s := rfl
theorem exec_confExitJobPost (s : State) {k} : exec (.confExitJobPost k) s = execConfExitJobPost k s := rfl
theorem exec_backfillJobStart (s : State) {c} : exec (.backfillJobStart c) s = execBackfillJobStart c s := rfl
theorem exec_backfillLayerDone (s : State) {j} : exec (.backfillLayerDone j) s = execBackfillLayerDone j s := rfl
theorem exec_backfillPlacementTimeout (s : State) {t} : exec (.backfillPlacementTimeout t) s = execBackfillPlacementTimeout t s := rfl
theorem exec_lqpush (s : State) {q v} : exec (.lqpush q v) s = execLqpush q v s := rfl
theorem exec_launchAdmit (s : State) : exec .launchAdmit s = execLaunchAdmit s := rfl
theorem exec_launchStartBroadcast (s : State) {lid} : exec (.launchStartBroadcast lid) s = execLaunchStartBroadcast lid s := rfl
theorem exec_launchEnd (s : State) {lid} : exec (.launchEnd lid) s = execLaunchEnd lid s := rfl
theorem exec_watchdogExpiry (s : State) {lid} : exec (.watchdogExpiry lid) s = execWatchdogExpiry lid s := rfl
theorem exec_greyOut (s : State) {lid} : exec (.greyOut lid) s = execGreyOut lid s := rfl
theorem exec_restore (s : State) {lid} : exec (.restore lid) s = execRestore lid s := rfl
theorem exec_faultQueuePost (s : State) {c} : exec (.faultQueuePost c) s = execFaultQueuePost c s := rfl
theorem exec_freply (s : State) {c v} : exec (.freply c v) s = execFreply c v s := rfl
theorem exec_fqheadWrite (s : State) {c v} : exec (.fqheadWrite c v) s = execFqheadWrite c v s := rfl
theorem exec_lrheadWrite (s : State) {v} : exec (.lrheadWrite v) s = execLrheadWrite v s := rfl
theorem exec_futnew (s : State) : exec .futnew s = execFutnew s := rfl
theorem exec_futfree (s : State) {v} : exec (.futfree v) s = execFutfree v s := rfl
theorem exec_pooldecWrite (s : State) {j v} : exec (.pooldecWrite j v) s = execPooldecWrite j v s := rfl
theorem exec_pcapWrite (s : State) {v} : exec (.pcapWrite v) s = execPcapWrite v s := rfl
theorem exec_attreq (s : State) {v} : exec (.attreq v) s = execAttreq v s := rfl
theorem exec_attestationDone (s : State) : exec .attestationDone s = execAttestationDone s := rfl
theorem exec_ckptSramImage (s : State) {v} : exec (.ckptSramImage v) s = execCkptSramImage v s := rfl
theorem exec_ckptWholeDeviceImage (s : State) {v} : exec (.ckptWholeDeviceImage v) s = execCkptWholeDeviceImage v s := rfl
theorem exec_ckptRestore (s : State) {v} : exec (.ckptRestore v) s = execCkptRestore v s := rfl
theorem exec_ckptDone (s : State) {result} : exec (.ckptDone result) s = execCkptDone result s := rfl
theorem exec_deviceRegisterWrite (s : State) {off v} : exec (.deviceRegisterWrite off v) s = execDeviceRegisterWrite off v s := rfl
theorem exec_migrationWindow (s : State) : exec .migrationWindow s = execMigrationWindow s := rfl
theorem exec_pageMigration (s : State) {asid page frame} : exec (.pageMigration asid page frame) s = execPageMigration asid page frame s := rfl
theorem exec_vaultRowRetire (s : State) {vault row} : exec (.vaultRowRetire vault row) s = execVaultRowRetire vault row s := rfl
theorem exec_linkFlitReceive (s : State) {dir flit} : exec (.linkFlitReceive dir flit) s = execLinkFlitReceive dir flit s := rfl
theorem exec_patchTableLoad (s : State) {image} : exec (.patchTableLoad image) s = execPatchTableLoad image s := rfl
@[simp] theorem exec_powerOnReset (origin : ResetOrigin) (s : State) :
    exec (.powerOnReset origin) s = execPowerOnReset origin s := rfl
theorem exec_thermalThrottle (s : State) {watts celsius} : exec (.thermalThrottle watts celsius) s = execThermalThrottle watts celsius s := rfl
theorem exec_thermalShutdown (s : State) : exec .thermalShutdown s = execThermalShutdown s := rfl
theorem exec_kydbHalt (s : State) {p} : exec (.kydbHalt p) s = execKydbHalt p s := rfl
theorem exec_kydbResume (s : State) {p} : exec (.kydbResume p) s = execKydbResume p s := rfl
theorem exec_fetchLineArrival (s : State) {k} : exec (.fetchLineArrival k) s = execFetchLineArrival k s := rfl
theorem exec_iflushComplete (s : State) {k} : exec (.iflushComplete k) s = execIflushComplete k s := rfl
theorem exec_tlbinvComplete (s : State) {k} : exec (.tlbinvComplete k) s = execTlbinvComplete k s := rfl
theorem exec_replicaRemovalDone (s : State) {asid page} : exec (.replicaRemovalDone asid page) s = execReplicaRemovalDone asid page s := rfl
theorem exec_liftTheFreeze (s : State) {lid} : exec (.liftTheFreeze lid) s = execLiftTheFreeze lid s := rfl
theorem exec_endLaunchAsHung (s : State) {lid} : exec (.endLaunchAsHung lid) s = execEndLaunchAsHung lid s := rfl
theorem exec_reservedCommand (s : State) {p e} : exec (.reservedCommand p e) s = execReservedCommand p e s := rfl

end Sys2Proof.Machine
end

