-- ==== Sys2Proof/Laws/Gate.lean ====
section
/-!
SUPPORT. What the shared frames of instructions do: once an instruction may run, its frame is its body; and every
ending is one next state.
-/

namespace Sys2Proof.Machine

theorem finish_ok (s t : State) : finish s (.ok t) = .next (keepHub s t) := rfl

theorem finish_trap (s : State) (c v : Nat) : finish s (trapNow c v) = .next (trapped s s c v) := rfl

theorem finish_trap_kept (s t : State) (c v : Nat) :
    finish s (.error (.trap c v (some t))) = .next (trapped s t c v) := rfl

/-- A strand that no word is on its way to has none to give back. -/
theorem letGo_idle {s : State} {k : Nat} (h : ∀ e ∈ s.rsvs, (e.2.forwarded && e.2.holder == some k) = false) :
    letGo s k = s := by
  rw [letGo, List.filter_eq_nil_iff.mpr fun e he => by simp [h e he], List.foldl_nil]

theorem finish_park (s : State) (w : Park) : finish s (parkNow w) = .next (keepHub s (parkStrand s s.cur w)) := rfl

theorem finish_park_kept (s t : State) (w : Park) :
    finish s (.error (.park w (some t))) = .next (keepHub s (parkStrand t s.cur w)) := rfl

theorem done_eq (s t : State) : done s t = .next (keepHub s t) := rfl

/-- Whatever an instruction of a strand does, it answers a next state. -/
theorem finish_next (s : State) (r : Res State) : ∃ t, finish s r = .next (keepHub s t) := ⟨_, rfl⟩

theorem finish_hub {s t : State} {r : Res State} (h : finish s r = .next t) : t.hub = s.hub := by
  cases h; rfl

theorem done_hub {s t u : State} (h : done s t = .next u) : u.hub = s.hub := by
  cases h; rfl

/-- An enabled instruction that has passed its static checks runs its body. -/
theorem gated_enabled {s : State} {cls : Cls} {g : Guard} {static supOnly : Bool} {body : List Nat → Res State}
    {lanes : List Nat} (he : Enabled s cls g lanes) (hs : static = true)
    (hm : supOnly = true → (curStrand s).sv = true) :
    gated s cls g static supOnly body = finish s (body lanes) := by
  obtain ⟨hn, hu, hl⟩ := he
  unfold gated
  cases cls with
  | uniform =>
    obtain ⟨hg, rfl⟩ := hu rfl
    cases supOnly <;> simp_all
  | lane =>
    obtain ⟨hr, rfl⟩ := hl rfl
    cases supOnly <;> simp_all

/-- A failed static check is ILLEGAL with the instruction word (R59). -/
theorem gated_illegal {s : State} {cls : Cls} {g : Guard} {static supOnly : Bool} {body : List Nat → Res State}
    (hs : static = false) : gated s cls g static supOnly body = finish s (illegal s) := by
  simp [gated, hs]

theorem uniformOp_ready {s s1 : State} {g : Guard} {supOnly static : Bool} {ds srcs : List NameIx}
    {di is : List NameInfo} {xs : List Src} {typesOk : List NameInfo → List NameInfo → Bool}
    {body : State → List NameInfo → List Src → Res State} (hr : UniformReady s g ds srcs di is s1 xs)
    (hs : static = true) (ht : typesOk di is = true) (hm : supOnly = true → (curStrand s).sv = true) :
    uniformOp s g supOnly static ds srcs typesOk body = finish s (body s1 di xs) := by
  obtain ⟨hn, hg, hd, hi, hdk, hsk, hrd⟩ := hr
  simp only [uniformOp, hd, hi]
  rw [gated_enabled (lanes := [0]) ⟨hn, fun _ => ⟨hg, rfl⟩, fun h => by cases h⟩ (by simp [hs, hdk, hsk, ht]) hm]
  rw [hrd]; rfl

theorem computed_ready {s s1 : State} {g : Guard} {cls : Cls} {static : Bool} {d : NameIx} {srcs : List NameIx}
    {di : NameInfo} {is : List NameInfo} {lanes : List Nat} {xs : List Src}
    {typesOk : NameInfo → List NameInfo → Bool} {f : NameInfo → List Src → Nat → LaneRes}
    (hr : ComputeReady s g cls d srcs di is lanes s1 xs) (hs : static = true) (ht : typesOk di is = true) :
    computed s g cls static d srcs typesOk f = finish s (do
      let (vals, flags) ← collect lanes (f di xs)
      let s'' ← writeDst s1 di lanes vals
      .ok (advance (setCur s'' fun t => setFlags t flags))) := by
  obtain ⟨he, hd, hi, hdk, hsk, hc, hrd⟩ := hr
  simp only [computed, hd, hi]
  rw [gated_enabled he (by
    simp only [hs, hdk, hsk, ht, Bool.true_and, Bool.and_true]; cases cls <;> exact hc) (by simp)]
  rw [hrd]; rfl

/-- A failed static check of a computing instruction is ILLEGAL, whatever its operands. -/
theorem computed_illegal {s : State} {g : Guard} {cls : Cls} {static : Bool} {d : NameIx} {srcs : List NameIx}
    {typesOk : NameInfo → List NameInfo → Bool} {f : NameInfo → List Src → Nat → LaneRes} (hs : static = false) :
    computed s g cls static d srcs typesOk f = finish s (illegal s) := by
  cases hd : nameInfo (curStrand s).map d <;> cases hi : infos (curStrand s) srcs <;> simp only [computed, hd, hi] <;>
    refine gated_illegal ?_ <;> simp [hs]

/-- A computing instruction that is ready completes with its result. -/
theorem computed_result {s s1 s2 : State} {g : Guard} {cls : Cls} {static : Bool} {d : NameIx}
    {srcs : List NameIx} {di : NameInfo} {is : List NameInfo} {lanes : List Nat} {xs : List Src}
    {typesOk : NameInfo → List NameInfo → Bool} {f : NameInfo → List Src → Nat → LaneRes} {vals : Nat → Nat}
    {flags : BitVec 8} (hr : ComputeReady s g cls d srcs di is lanes s1 xs) (hs : static = true)
    (ht : typesOk di is = true) (hv : collect lanes (f di xs) = .ok (vals, flags))
    (hw : writeDst s1 di lanes vals = .ok s2) :
    computed s g cls static d srcs typesOk f =
      .next (keepHub s (advance (setCur s2 fun t => setFlags t flags))) := by
  rw [computed_ready hr hs ht, hv]
  simp only [bind, Except.bind, hw]; rfl

theorem compared_ready {s s1 : State} {g : Guard} {d : Nat} {srcs : List NameIx} {ai : NameInfo}
    {is : List NameInfo} {cls : Cls} {lanes : List Nat} {xs : List Src} {typesOk : List NameInfo → Bool}
    {f : List Src → Nat → Bool} (hi : infos (curStrand s) srcs = some (ai :: is))
    (hk : (ai :: is).all (·.srcKind) = true) (hd : d ≠ 0) (hcls : cls = (if ai.isLane then .lane else .uniform))
    (hu : cls = .uniform → is.all (fun x => !x.isLane) = true) (he : Enabled s cls g lanes)
    (hr : readSrcs s (ai :: is) [] = .ok (s1, xs)) (ht : typesOk (ai :: is) = true) :
    compared s g d srcs typesOk f = .next (keepHub s (advance (writePred s1 cls lanes d (f xs)))) := by
  simp only [compared, hi]
  rw [← hcls]
  rw [gated_enabled he _ (by simp), hr]
  · rfl
  · simp only [hk, ht, Bool.true_and, Bool.and_true]
    cases cls with
    | uniform =>
      have := hu rfl
      by_cases ha : ai.isLane <;> simp_all
    | lane => simp [hd]

end Sys2Proof.Machine
end

