-- ==== Sys2Proof/Laws/Hub.lean ====
section
/-!
SUPPORT. The patch table at reset: no entry, and the hash of the image that says so (R417).
-/

namespace Sys2Proof.Machine

/-- The image of a table without entries. -/
theorem patchTable_empty : patchTable [0x4B50, 0] = some [] := by decide +kernel

/-- Its hash is the one PATCHHASH has at reset. -/
theorem patchHashOf_empty : patchHashOf [0x4B50, 0] = emptyPatchHash := by decide +kernel

end Sys2Proof.Machine
end

