-- ==== Sys2Proof/Laws/Table.lean ====
section
/-!
SUPPORT. Tables and the byte memory: reading after writing, and that every memory operation keeps the canonical form.
-/

namespace Sys2Proof.Machine

variable {β : Type}

/-! ### Tables -/

@[simp] theorem tget_tset_self (t : Table β) (k : Nat) (v : β) : tget (tset t k v) k = some v := by
  induction t with
  | nil => simp [tset, tget]
  | cons e r ih =>
    obtain ⟨a, w⟩ := e
    simp only [tset]
    split
    · simp [tget]
    · split
      · simp [tget]
      · rename_i h _; simp [tget, h, ih]

theorem tget_tset_ne (t : Table β) {k j : Nat} (v : β) (h : j ≠ k) : tget (tset t k v) j = tget t j := by
  induction t with
  | nil => simp [tset, tget, h.symm]
  | cons e r ih =>
    obtain ⟨a, w⟩ := e
    simp only [tset]
    split
    · rename_i ha; subst ha; simp [tget, h.symm]
    · split
      · simp [tget, h.symm]
      · simp [tget, ih]

@[simp] theorem tgetD_tset_self (t : Table β) (k : Nat) (v d : β) : tgetD (tset t k v) k d = v := by
  simp [tgetD]

theorem tgetD_tset_ne (t : Table β) {k j : Nat} (v d : β) (h : j ≠ k) : tgetD (tset t k v) j d = tgetD t j d := by
  simp [tgetD, tget_tset_ne t v h]

@[simp] theorem tget_tdel_self (t : Table β) (k : Nat) : tget (tdel t k) k = none := by
  induction t with
  | nil => rfl
  | cons e r ih =>
    obtain ⟨a, w⟩ := e
    by_cases h : a = k
    · simpa [tdel, h] using ih
    · simpa [tdel, h, tget] using ih

theorem tget_tdel_ne (t : Table β) {k j : Nat} (h : j ≠ k) : tget (tdel t k) j = tget t j := by
  induction t with
  | nil => rfl
  | cons e r ih =>
    obtain ⟨a, w⟩ := e
    by_cases ha : a = k
    · subst ha; simpa [tdel, tget, h.symm] using ih
    · by_cases hj : a = j <;> simp_all [tdel, tget]

theorem tget_tmap (t : Table β) (f : Nat → β → β) (k : Nat) : tget (tmap t f) k = (tget t k).map (f k) := by
  induction t with
  | nil => rfl
  | cons e r ih =>
    obtain ⟨a, w⟩ := e
    by_cases h : a = k
    · subst h; simp [tmap, tget]
    · simpa [tmap, tget, h] using ih

/-! ### Memory: reading after writing -/

theorem memGet_memSet_self {lo : Nat} (m : List Host.Cell) (h : memWfFrom lo m = true) (a : Nat) (b : Byte) :
    memGet (memSet m a b) a = b := by
  induction m generalizing lo with
  | nil => by_cases hb : b = unlistedByte <;> simp [memSet, memGet, tgetD, tget, hb]
  | cons e r ih =>
    obtain ⟨x, w⟩ := e
    simp only [memWfFrom, Bool.and_eq_true, decide_eq_true_eq] at h
    have above : ∀ {lo : Nat} (r : List Host.Cell) (a : Nat), memWfFrom lo r = true → a < lo → tget r a = none := by
      intro lo r a hr ha
      induction r generalizing lo with
      | nil => rfl
      | cons e q ihq =>
        obtain ⟨y, z⟩ := e
        simp only [memWfFrom, Bool.and_eq_true, decide_eq_true_eq] at hr
        have : y ≠ a := by omega
        simp [tget, this, ihq hr.2 (by omega)]
    simp only [memSet]
    by_cases hx : x = a
    · subst hx
      by_cases hb : b = unlistedByte
      · simp [hb, memGet, tgetD, above r x h.2 (by omega)]
      · simp [hb, memGet, tgetD, tget]
    · by_cases hl : a < x
      · by_cases hb : b = unlistedByte
        · simp [hx, hl, hb, memGet, tgetD, tget, above r a h.2 (by omega)]
        · simp [hx, hl, hb, memGet, tgetD, tget]
      · have := ih h.2
        simp [hx, hl, memGet, tgetD, tget] at this ⊢
        exact this

theorem memGet_memSet_ne (m : List Host.Cell) {a c : Nat} (b : Byte) (h : c ≠ a) :
    memGet (memSet m a b) c = memGet m c := by
  induction m with
  | nil => by_cases hb : b = unlistedByte <;> simp [memSet, memGet, tgetD, tget, hb, h.symm]
  | cons e r ih =>
    obtain ⟨x, w⟩ := e
    simp only [memSet]
    by_cases hx : x = a
    · subst hx
      by_cases hb : b = unlistedByte <;> simp [hb, memGet, tgetD, tget, h.symm]
    · by_cases hl : a < x
      · by_cases hb : b = unlistedByte <;> simp [hx, hl, hb, memGet, tgetD, tget, h.symm]
      · simp only [hx, hl, if_false]
        by_cases hc : x = c
        · simp [memGet, tgetD, tget, hc]
        · simpa [memGet, tgetD, tget, hc] using ih

/-- A write of several bytes leaves every byte outside them alone. -/
theorem memGet_memWrite_outside (n : Nat) : ∀ (m : List Host.Cell) (a v c : Nat), c < a ∨ a + n ≤ c →
    memGet (memWrite m a n v) c = memGet m c := by
  induction n with
  | zero => intros; rfl
  | succ n ih =>
    intro m a v c h
    simp only [memWrite]
    rw [ih _ _ _ _ (by omega), memGet_memSet_ne _ _ (by omega)]

/-! ### Memory keeps its canonical form -/

theorem memWfFrom_le {lo hi : Nat} (m : List Host.Cell) (h : memWfFrom hi m = true) (hl : lo ≤ hi) :
    memWfFrom lo m = true := by
  cases m with
  | nil => rfl
  | cons e r =>
    obtain ⟨a, b⟩ := e
    simp only [memWfFrom, Bool.and_eq_true, decide_eq_true_eq] at h ⊢
    exact ⟨⟨by omega, h.1.2⟩, h.2⟩

theorem memSet_wfFrom {lo : Nat} (m : List Host.Cell) (h : memWfFrom lo m = true) {a : Nat} (ha : lo ≤ a) (b : Byte) :
    memWfFrom lo (memSet m a b) = true := by
  induction m generalizing lo with
  | nil => by_cases hb : b = unlistedByte <;> simp [memSet, hb, memWfFrom, ha]
  | cons e r ih =>
    obtain ⟨x, w⟩ := e
    simp only [memWfFrom, Bool.and_eq_true, decide_eq_true_eq] at h
    simp only [memSet]
    by_cases hx : x = a
    · subst hx
      by_cases hb : b = unlistedByte
      · simp only [hb, if_true]; exact memWfFrom_le r h.2 (by omega)
      · simp [hb, memWfFrom, ha, h.2]
    · by_cases hl : a < x
      · by_cases hb : b = unlistedByte
        · simp [hx, hl, hb, memWfFrom, h.1.1, h.2]; simpa using h.1.2
        · have hw : w ≠ unlistedByte := by simpa using h.1.2
          simp [hx, hl, hb, memWfFrom, ha, h.2, hw]
      · simp only [hx, hl, if_false, memWfFrom, Bool.and_eq_true, decide_eq_true_eq]
        exact ⟨h.1, ih h.2 (by omega)⟩

/-- A write keeps memory canonical. -/
theorem memWrite_wf (n : Nat) : ∀ (m : List Host.Cell) (a v : Nat), Memory.wf m = true →
    Memory.wf (memWrite m a n v) = true := by
  induction n with
  | zero => intro m a v h; exact h
  | succ n ih => intro m a v h; exact ih _ _ _ (memSet_wfFrom m h (Nat.zero_le a) _)

theorem filter_wfFrom (p : Host.Cell → Bool) {lo : Nat} (m : List Host.Cell) (h : memWfFrom lo m = true) :
    memWfFrom lo (m.filter p) = true := by
  induction m generalizing lo with
  | nil => rfl
  | cons e r ih =>
    obtain ⟨x, w⟩ := e
    simp only [memWfFrom, Bool.and_eq_true, decide_eq_true_eq] at h
    by_cases hp : p (x, w)
    · simp only [List.filter_cons, hp, if_true, memWfFrom, Bool.and_eq_true, decide_eq_true_eq]
      exact ⟨h.1, ih h.2⟩
    · simp only [List.filter_cons, hp, Bool.false_eq_true, if_false]
      exact memWfFrom_le _ (ih h.2) (by omega)

/-- Clearing an interval keeps memory canonical. -/
theorem memClear_wf (m : List Host.Cell) (a n : Nat) (h : Memory.wf m = true) : Memory.wf (memClear m a n) = true :=
  filter_wfFrom _ m h

/-- Placing bytes keeps memory canonical. -/
theorem memPaste_wf (src : List Host.Cell) : ∀ (m : List Host.Cell) (a : Nat), Memory.wf m = true →
    Memory.wf (memPaste m a src) = true := by
  induction src with
  | nil => intro m a h; exact h
  | cons c r ih => intro m a h; exact ih _ a (memSet_wfFrom m h (Nat.zero_le _) _)

/-- The memory right after reset is canonical. -/
theorem reset_mem_wf : Memory.wf State.reset.mem = true := rfl

end Sys2Proof.Machine
end

