-- ==== Sys2Proof/Laws/State.lean ====
section
/-!
SUPPORT. What each update of the state leaves alone: one lemma per field per update, and reading back what it puts.
-/

namespace Sys2Proof.Machine

/-! ### setStrand -/

@[simp] theorem setStrand_hub (s : State) (k : Nat) (x : Strand) : (setStrand s k x).hub = s.hub := rfl
@[simp] theorem setStrand_mem (s : State) (k : Nat) (x : Strand) : (setStrand s k x).mem = s.mem := rfl
@[simp] theorem setStrand_empties (s : State) (k : Nat) (x : Strand) : (setStrand s k x).empties = s.empties := rfl
@[simp] theorem setStrand_cores (s : State) (k : Nat) (x : Strand) : (setStrand s k x).cores = s.cores := rfl
@[simp] theorem setStrand_clusters (s : State) (k : Nat) (x : Strand) : (setStrand s k x).clusters = s.clusters := rfl
@[simp] theorem setStrand_futures (s : State) (k : Nat) (x : Strand) : (setStrand s k x).futures = s.futures := rfl
@[simp] theorem setStrand_launches (s : State) (k : Nat) (x : Strand) : (setStrand s k x).launches = s.launches := rfl
@[simp] theorem setStrand_saved (s : State) (k : Nat) (x : Strand) : (setStrand s k x).saved = s.saved := rfl
@[simp] theorem setStrand_tasks (s : State) (k : Nat) (x : Strand) : (setStrand s k x).tasks = s.tasks := rfl
@[simp] theorem setStrand_nextTask (s : State) (k : Nat) (x : Strand) : (setStrand s k x).nextTask = s.nextTask := rfl
@[simp] theorem setStrand_jobs (s : State) (k : Nat) (x : Strand) : (setStrand s k x).jobs = s.jobs := rfl
@[simp] theorem setStrand_nextJob (s : State) (k : Nat) (x : Strand) : (setStrand s k x).nextJob = s.nextJob := rfl
@[simp] theorem setStrand_rsvs (s : State) (k : Nat) (x : Strand) : (setStrand s k x).rsvs = s.rsvs := rfl
@[simp] theorem setStrand_deferred (s : State) (k : Nat) (x : Strand) : (setStrand s k x).deferred = s.deferred := rfl
@[simp] theorem setStrand_packets (s : State) (k : Nat) (x : Strand) : (setStrand s k x).packets = s.packets := rfl
@[simp] theorem setStrand_nextPacket (s : State) (k : Nat) (x : Strand) : (setStrand s k x).nextPacket = s.nextPacket := rfl
@[simp] theorem setStrand_migrations (s : State) (k : Nat) (x : Strand) : (setStrand s k x).migrations = s.migrations := rfl
@[simp] theorem setStrand_replicas (s : State) (k : Nat) (x : Strand) : (setStrand s k x).replicas = s.replicas := rfl
@[simp] theorem setStrand_poison (s : State) (k : Nat) (x : Strand) : (setStrand s k x).poison = s.poison := rfl
@[simp] theorem setStrand_sectors (s : State) (k : Nat) (x : Strand) : (setStrand s k x).sectors = s.sectors := rfl
@[simp] theorem setStrand_shelf (s : State) (k : Nat) (x : Strand) : (setStrand s k x).shelf = s.shelf := rfl
@[simp] theorem setStrand_tolBlocks (s : State) (k : Nat) (x : Strand) : (setStrand s k x).tolBlocks = s.tolBlocks := rfl
@[simp] theorem setStrand_lq (s : State) (k : Nat) (x : Strand) : (setStrand s k x).lq = s.lq := rfl
@[simp] theorem setStrand_lrHead (s : State) (k : Nat) (x : Strand) : (setStrand s k x).lrHead = s.lrHead := rfl
@[simp] theorem setStrand_lrTail (s : State) (k : Nat) (x : Strand) : (setStrand s k x).lrTail = s.lrTail := rfl
@[simp] theorem setStrand_reports (s : State) (k : Nat) (x : Strand) : (setStrand s k x).reports = s.reports := rfl
@[simp] theorem setStrand_linkOut (s : State) (k : Nat) (x : Strand) : (setStrand s k x).linkOut = s.linkOut := rfl
@[simp] theorem setStrand_breaks (s : State) (k : Nat) (x : Strand) : (setStrand s k x).breaks = s.breaks := rfl
@[simp] theorem setStrand_kydb (s : State) (k : Nat) (x : Strand) : (setStrand s k x).kydb = s.kydb := rfl
@[simp] theorem setStrand_breaksOn (s : State) (k : Nat) (x : Strand) : (setStrand s k x).breaksOn = s.breaksOn := rfl
@[simp] theorem setStrand_told (s : State) (k : Nat) (x : Strand) : (setStrand s k x).told = s.told := rfl
@[simp] theorem setStrand_hist (s : State) (k : Nat) (x : Strand) : (setStrand s k x).hist = s.hist := rfl
@[simp] theorem setStrand_paired (s : State) (k : Nat) (x : Strand) : (setStrand s k x).paired = s.paired := rfl
@[simp] theorem setStrand_readySeq (s : State) (k : Nat) (x : Strand) : (setStrand s k x).readySeq = s.readySeq := rfl
@[simp] theorem setStrand_nextUid (s : State) (k : Nat) (x : Strand) : (setStrand s k x).nextUid = s.nextUid := rfl
@[simp] theorem setStrand_inputs (s : State) (k : Nat) (x : Strand) : (setStrand s k x).inputs = s.inputs := rfl
@[simp] theorem setStrand_cycle (s : State) (k : Nat) (x : Strand) : (setStrand s k x).cycle = s.cycle := rfl
@[simp] theorem setStrand_tick (s : State) (k : Nat) (x : Strand) : (setStrand s k x).tick = s.tick := rfl
@[simp] theorem setStrand_agenda (s : State) (k : Nat) (x : Strand) : (setStrand s k x).agenda = s.agenda := rfl
@[simp] theorem setStrand_cur (s : State) (k : Nat) (x : Strand) : (setStrand s k x).cur = s.cur := rfl
@[simp] theorem setStrand_ir (s : State) (k : Nat) (x : Strand) : (setStrand s k x).ir = s.ir := rfl

/-! ### setCur -/

@[simp] theorem setCur_hub (s : State) (f : Strand → Strand) : (setCur s f).hub = s.hub := rfl
@[simp] theorem setCur_mem (s : State) (f : Strand → Strand) : (setCur s f).mem = s.mem := rfl
@[simp] theorem setCur_empties (s : State) (f : Strand → Strand) : (setCur s f).empties = s.empties := rfl
@[simp] theorem setCur_cores (s : State) (f : Strand → Strand) : (setCur s f).cores = s.cores := rfl
@[simp] theorem setCur_clusters (s : State) (f : Strand → Strand) : (setCur s f).clusters = s.clusters := rfl
@[simp] theorem setCur_futures (s : State) (f : Strand → Strand) : (setCur s f).futures = s.futures := rfl
@[simp] theorem setCur_launches (s : State) (f : Strand → Strand) : (setCur s f).launches = s.launches := rfl
@[simp] theorem setCur_saved (s : State) (f : Strand → Strand) : (setCur s f).saved = s.saved := rfl
@[simp] theorem setCur_tasks (s : State) (f : Strand → Strand) : (setCur s f).tasks = s.tasks := rfl
@[simp] theorem setCur_nextTask (s : State) (f : Strand → Strand) : (setCur s f).nextTask = s.nextTask := rfl
@[simp] theorem setCur_jobs (s : State) (f : Strand → Strand) : (setCur s f).jobs = s.jobs := rfl
@[simp] theorem setCur_nextJob (s : State) (f : Strand → Strand) : (setCur s f).nextJob = s.nextJob := rfl
@[simp] theorem setCur_rsvs (s : State) (f : Strand → Strand) : (setCur s f).rsvs = s.rsvs := rfl
@[simp] theorem setCur_deferred (s : State) (f : Strand → Strand) : (setCur s f).deferred = s.deferred := rfl
@[simp] theorem setCur_packets (s : State) (f : Strand → Strand) : (setCur s f).packets = s.packets := rfl
@[simp] theorem setCur_nextPacket (s : State) (f : Strand → Strand) : (setCur s f).nextPacket = s.nextPacket := rfl
@[simp] theorem setCur_migrations (s : State) (f : Strand → Strand) : (setCur s f).migrations = s.migrations := rfl
@[simp] theorem setCur_replicas (s : State) (f : Strand → Strand) : (setCur s f).replicas = s.replicas := rfl
@[simp] theorem setCur_poison (s : State) (f : Strand → Strand) : (setCur s f).poison = s.poison := rfl
@[simp] theorem setCur_sectors (s : State) (f : Strand → Strand) : (setCur s f).sectors = s.sectors := rfl
@[simp] theorem setCur_shelf (s : State) (f : Strand → Strand) : (setCur s f).shelf = s.shelf := rfl
@[simp] theorem setCur_tolBlocks (s : State) (f : Strand → Strand) : (setCur s f).tolBlocks = s.tolBlocks := rfl
@[simp] theorem setCur_lq (s : State) (f : Strand → Strand) : (setCur s f).lq = s.lq := rfl
@[simp] theorem setCur_lrHead (s : State) (f : Strand → Strand) : (setCur s f).lrHead = s.lrHead := rfl
@[simp] theorem setCur_lrTail (s : State) (f : Strand → Strand) : (setCur s f).lrTail = s.lrTail := rfl
@[simp] theorem setCur_reports (s : State) (f : Strand → Strand) : (setCur s f).reports = s.reports := rfl
@[simp] theorem setCur_linkOut (s : State) (f : Strand → Strand) : (setCur s f).linkOut = s.linkOut := rfl
@[simp] theorem setCur_breaks (s : State) (f : Strand → Strand) : (setCur s f).breaks = s.breaks := rfl
@[simp] theorem setCur_kydb (s : State) (f : Strand → Strand) : (setCur s f).kydb = s.kydb := rfl
@[simp] theorem setCur_breaksOn (s : State) (f : Strand → Strand) : (setCur s f).breaksOn = s.breaksOn := rfl
@[simp] theorem setCur_told (s : State) (f : Strand → Strand) : (setCur s f).told = s.told := rfl
@[simp] theorem setCur_hist (s : State) (f : Strand → Strand) : (setCur s f).hist = s.hist := rfl
@[simp] theorem setCur_paired (s : State) (f : Strand → Strand) : (setCur s f).paired = s.paired := rfl
@[simp] theorem setCur_readySeq (s : State) (f : Strand → Strand) : (setCur s f).readySeq = s.readySeq := rfl
@[simp] theorem setCur_nextUid (s : State) (f : Strand → Strand) : (setCur s f).nextUid = s.nextUid := rfl
@[simp] theorem setCur_inputs (s : State) (f : Strand → Strand) : (setCur s f).inputs = s.inputs := rfl
@[simp] theorem setCur_cycle (s : State) (f : Strand → Strand) : (setCur s f).cycle = s.cycle := rfl
@[simp] theorem setCur_tick (s : State) (f : Strand → Strand) : (setCur s f).tick = s.tick := rfl
@[simp] theorem setCur_agenda (s : State) (f : Strand → Strand) : (setCur s f).agenda = s.agenda := rfl
@[simp] theorem setCur_cur (s : State) (f : Strand → Strand) : (setCur s f).cur = s.cur := rfl
@[simp] theorem setCur_ir (s : State) (f : Strand → Strand) : (setCur s f).ir = s.ir := rfl

/-! ### setCore -/

@[simp] theorem setCore_hub (s : State) (p : Nat) (x : Core) : (setCore s p x).hub = s.hub := rfl
@[simp] theorem setCore_mem (s : State) (p : Nat) (x : Core) : (setCore s p x).mem = s.mem := rfl
@[simp] theorem setCore_empties (s : State) (p : Nat) (x : Core) : (setCore s p x).empties = s.empties := rfl
@[simp] theorem setCore_strands (s : State) (p : Nat) (x : Core) : (setCore s p x).strands = s.strands := rfl
@[simp] theorem setCore_clusters (s : State) (p : Nat) (x : Core) : (setCore s p x).clusters = s.clusters := rfl
@[simp] theorem setCore_futures (s : State) (p : Nat) (x : Core) : (setCore s p x).futures = s.futures := rfl
@[simp] theorem setCore_launches (s : State) (p : Nat) (x : Core) : (setCore s p x).launches = s.launches := rfl
@[simp] theorem setCore_saved (s : State) (p : Nat) (x : Core) : (setCore s p x).saved = s.saved := rfl
@[simp] theorem setCore_tasks (s : State) (p : Nat) (x : Core) : (setCore s p x).tasks = s.tasks := rfl
@[simp] theorem setCore_nextTask (s : State) (p : Nat) (x : Core) : (setCore s p x).nextTask = s.nextTask := rfl
@[simp] theorem setCore_jobs (s : State) (p : Nat) (x : Core) : (setCore s p x).jobs = s.jobs := rfl
@[simp] theorem setCore_nextJob (s : State) (p : Nat) (x : Core) : (setCore s p x).nextJob = s.nextJob := rfl
@[simp] theorem setCore_rsvs (s : State) (p : Nat) (x : Core) : (setCore s p x).rsvs = s.rsvs := rfl
@[simp] theorem setCore_deferred (s : State) (p : Nat) (x : Core) : (setCore s p x).deferred = s.deferred := rfl
@[simp] theorem setCore_packets (s : State) (p : Nat) (x : Core) : (setCore s p x).packets = s.packets := rfl
@[simp] theorem setCore_nextPacket (s : State) (p : Nat) (x : Core) : (setCore s p x).nextPacket = s.nextPacket := rfl
@[simp] theorem setCore_migrations (s : State) (p : Nat) (x : Core) : (setCore s p x).migrations = s.migrations := rfl
@[simp] theorem setCore_replicas (s : State) (p : Nat) (x : Core) : (setCore s p x).replicas = s.replicas := rfl
@[simp] theorem setCore_poison (s : State) (p : Nat) (x : Core) : (setCore s p x).poison = s.poison := rfl
@[simp] theorem setCore_sectors (s : State) (p : Nat) (x : Core) : (setCore s p x).sectors = s.sectors := rfl
@[simp] theorem setCore_shelf (s : State) (p : Nat) (x : Core) : (setCore s p x).shelf = s.shelf := rfl
@[simp] theorem setCore_tolBlocks (s : State) (p : Nat) (x : Core) : (setCore s p x).tolBlocks = s.tolBlocks := rfl
@[simp] theorem setCore_lq (s : State) (p : Nat) (x : Core) : (setCore s p x).lq = s.lq := rfl
@[simp] theorem setCore_lrHead (s : State) (p : Nat) (x : Core) : (setCore s p x).lrHead = s.lrHead := rfl
@[simp] theorem setCore_lrTail (s : State) (p : Nat) (x : Core) : (setCore s p x).lrTail = s.lrTail := rfl
@[simp] theorem setCore_reports (s : State) (p : Nat) (x : Core) : (setCore s p x).reports = s.reports := rfl
@[simp] theorem setCore_linkOut (s : State) (p : Nat) (x : Core) : (setCore s p x).linkOut = s.linkOut := rfl
@[simp] theorem setCore_breaks (s : State) (p : Nat) (x : Core) : (setCore s p x).breaks = s.breaks := rfl
@[simp] theorem setCore_kydb (s : State) (p : Nat) (x : Core) : (setCore s p x).kydb = s.kydb := rfl
@[simp] theorem setCore_breaksOn (s : State) (p : Nat) (x : Core) : (setCore s p x).breaksOn = s.breaksOn := rfl
@[simp] theorem setCore_told (s : State) (p : Nat) (x : Core) : (setCore s p x).told = s.told := rfl
@[simp] theorem setCore_hist (s : State) (p : Nat) (x : Core) : (setCore s p x).hist = s.hist := rfl
@[simp] theorem setCore_paired (s : State) (p : Nat) (x : Core) : (setCore s p x).paired = s.paired := rfl
@[simp] theorem setCore_readySeq (s : State) (p : Nat) (x : Core) : (setCore s p x).readySeq = s.readySeq := rfl
@[simp] theorem setCore_nextUid (s : State) (p : Nat) (x : Core) : (setCore s p x).nextUid = s.nextUid := rfl
@[simp] theorem setCore_inputs (s : State) (p : Nat) (x : Core) : (setCore s p x).inputs = s.inputs := rfl
@[simp] theorem setCore_cycle (s : State) (p : Nat) (x : Core) : (setCore s p x).cycle = s.cycle := rfl
@[simp] theorem setCore_tick (s : State) (p : Nat) (x : Core) : (setCore s p x).tick = s.tick := rfl
@[simp] theorem setCore_agenda (s : State) (p : Nat) (x : Core) : (setCore s p x).agenda = s.agenda := rfl
@[simp] theorem setCore_cur (s : State) (p : Nat) (x : Core) : (setCore s p x).cur = s.cur := rfl
@[simp] theorem setCore_ir (s : State) (p : Nat) (x : Core) : (setCore s p x).ir = s.ir := rfl

/-! ### modCore -/

@[simp] theorem modCore_hub (s : State) (p : Nat) (f : Core → Core) : (modCore s p f).hub = s.hub := rfl
@[simp] theorem modCore_mem (s : State) (p : Nat) (f : Core → Core) : (modCore s p f).mem = s.mem := rfl
@[simp] theorem modCore_empties (s : State) (p : Nat) (f : Core → Core) : (modCore s p f).empties = s.empties := rfl
@[simp] theorem modCore_strands (s : State) (p : Nat) (f : Core → Core) : (modCore s p f).strands = s.strands := rfl
@[simp] theorem modCore_clusters (s : State) (p : Nat) (f : Core → Core) : (modCore s p f).clusters = s.clusters := rfl
@[simp] theorem modCore_futures (s : State) (p : Nat) (f : Core → Core) : (modCore s p f).futures = s.futures := rfl
@[simp] theorem modCore_launches (s : State) (p : Nat) (f : Core → Core) : (modCore s p f).launches = s.launches := rfl
@[simp] theorem modCore_saved (s : State) (p : Nat) (f : Core → Core) : (modCore s p f).saved = s.saved := rfl
@[simp] theorem modCore_tasks (s : State) (p : Nat) (f : Core → Core) : (modCore s p f).tasks = s.tasks := rfl
@[simp] theorem modCore_nextTask (s : State) (p : Nat) (f : Core → Core) : (modCore s p f).nextTask = s.nextTask := rfl
@[simp] theorem modCore_jobs (s : State) (p : Nat) (f : Core → Core) : (modCore s p f).jobs = s.jobs := rfl
@[simp] theorem modCore_nextJob (s : State) (p : Nat) (f : Core → Core) : (modCore s p f).nextJob = s.nextJob := rfl
@[simp] theorem modCore_rsvs (s : State) (p : Nat) (f : Core → Core) : (modCore s p f).rsvs = s.rsvs := rfl
@[simp] theorem modCore_deferred (s : State) (p : Nat) (f : Core → Core) : (modCore s p f).deferred = s.deferred := rfl
@[simp] theorem modCore_packets (s : State) (p : Nat) (f : Core → Core) : (modCore s p f).packets = s.packets := rfl
@[simp] theorem modCore_nextPacket (s : State) (p : Nat) (f : Core → Core) : (modCore s p f).nextPacket = s.nextPacket := rfl
@[simp] theorem modCore_migrations (s : State) (p : Nat) (f : Core → Core) : (modCore s p f).migrations = s.migrations := rfl
@[simp] theorem modCore_replicas (s : State) (p : Nat) (f : Core → Core) : (modCore s p f).replicas = s.replicas := rfl
@[simp] theorem modCore_poison (s : State) (p : Nat) (f : Core → Core) : (modCore s p f).poison = s.poison := rfl
@[simp] theorem modCore_sectors (s : State) (p : Nat) (f : Core → Core) : (modCore s p f).sectors = s.sectors := rfl
@[simp] theorem modCore_shelf (s : State) (p : Nat) (f : Core → Core) : (modCore s p f).shelf = s.shelf := rfl
@[simp] theorem modCore_tolBlocks (s : State) (p : Nat) (f : Core → Core) : (modCore s p f).tolBlocks = s.tolBlocks := rfl
@[simp] theorem modCore_lq (s : State) (p : Nat) (f : Core → Core) : (modCore s p f).lq = s.lq := rfl
@[simp] theorem modCore_lrHead (s : State) (p : Nat) (f : Core → Core) : (modCore s p f).lrHead = s.lrHead := rfl
@[simp] theorem modCore_lrTail (s : State) (p : Nat) (f : Core → Core) : (modCore s p f).lrTail = s.lrTail := rfl
@[simp] theorem modCore_reports (s : State) (p : Nat) (f : Core → Core) : (modCore s p f).reports = s.reports := rfl
@[simp] theorem modCore_linkOut (s : State) (p : Nat) (f : Core → Core) : (modCore s p f).linkOut = s.linkOut := rfl
@[simp] theorem modCore_breaks (s : State) (p : Nat) (f : Core → Core) : (modCore s p f).breaks = s.breaks := rfl
@[simp] theorem modCore_kydb (s : State) (p : Nat) (f : Core → Core) : (modCore s p f).kydb = s.kydb := rfl
@[simp] theorem modCore_breaksOn (s : State) (p : Nat) (f : Core → Core) : (modCore s p f).breaksOn = s.breaksOn := rfl
@[simp] theorem modCore_told (s : State) (p : Nat) (f : Core → Core) : (modCore s p f).told = s.told := rfl
@[simp] theorem modCore_hist (s : State) (p : Nat) (f : Core → Core) : (modCore s p f).hist = s.hist := rfl
@[simp] theorem modCore_paired (s : State) (p : Nat) (f : Core → Core) : (modCore s p f).paired = s.paired := rfl
@[simp] theorem modCore_readySeq (s : State) (p : Nat) (f : Core → Core) : (modCore s p f).readySeq = s.readySeq := rfl
@[simp] theorem modCore_nextUid (s : State) (p : Nat) (f : Core → Core) : (modCore s p f).nextUid = s.nextUid := rfl
@[simp] theorem modCore_inputs (s : State) (p : Nat) (f : Core → Core) : (modCore s p f).inputs = s.inputs := rfl
@[simp] theorem modCore_cycle (s : State) (p : Nat) (f : Core → Core) : (modCore s p f).cycle = s.cycle := rfl
@[simp] theorem modCore_tick (s : State) (p : Nat) (f : Core → Core) : (modCore s p f).tick = s.tick := rfl
@[simp] theorem modCore_agenda (s : State) (p : Nat) (f : Core → Core) : (modCore s p f).agenda = s.agenda := rfl
@[simp] theorem modCore_cur (s : State) (p : Nat) (f : Core → Core) : (modCore s p f).cur = s.cur := rfl
@[simp] theorem modCore_ir (s : State) (p : Nat) (f : Core → Core) : (modCore s p f).ir = s.ir := rfl

/-! ### setCluster -/

@[simp] theorem setCluster_hub (s : State) (c : Nat) (x : Cluster) : (setCluster s c x).hub = s.hub := rfl
@[simp] theorem setCluster_mem (s : State) (c : Nat) (x : Cluster) : (setCluster s c x).mem = s.mem := rfl
@[simp] theorem setCluster_empties (s : State) (c : Nat) (x : Cluster) : (setCluster s c x).empties = s.empties := rfl
@[simp] theorem setCluster_cores (s : State) (c : Nat) (x : Cluster) : (setCluster s c x).cores = s.cores := rfl
@[simp] theorem setCluster_strands (s : State) (c : Nat) (x : Cluster) : (setCluster s c x).strands = s.strands := rfl
@[simp] theorem setCluster_futures (s : State) (c : Nat) (x : Cluster) : (setCluster s c x).futures = s.futures := rfl
@[simp] theorem setCluster_launches (s : State) (c : Nat) (x : Cluster) : (setCluster s c x).launches = s.launches := rfl
@[simp] theorem setCluster_saved (s : State) (c : Nat) (x : Cluster) : (setCluster s c x).saved = s.saved := rfl
@[simp] theorem setCluster_tasks (s : State) (c : Nat) (x : Cluster) : (setCluster s c x).tasks = s.tasks := rfl
@[simp] theorem setCluster_nextTask (s : State) (c : Nat) (x : Cluster) : (setCluster s c x).nextTask = s.nextTask := rfl
@[simp] theorem setCluster_jobs (s : State) (c : Nat) (x : Cluster) : (setCluster s c x).jobs = s.jobs := rfl
@[simp] theorem setCluster_nextJob (s : State) (c : Nat) (x : Cluster) : (setCluster s c x).nextJob = s.nextJob := rfl
@[simp] theorem setCluster_rsvs (s : State) (c : Nat) (x : Cluster) : (setCluster s c x).rsvs = s.rsvs := rfl
@[simp] theorem setCluster_deferred (s : State) (c : Nat) (x : Cluster) : (setCluster s c x).deferred = s.deferred := rfl
@[simp] theorem setCluster_packets (s : State) (c : Nat) (x : Cluster) : (setCluster s c x).packets = s.packets := rfl
@[simp] theorem setCluster_nextPacket (s : State) (c : Nat) (x : Cluster) : (setCluster s c x).nextPacket = s.nextPacket := rfl
@[simp] theorem setCluster_migrations (s : State) (c : Nat) (x : Cluster) : (setCluster s c x).migrations = s.migrations := rfl
@[simp] theorem setCluster_replicas (s : State) (c : Nat) (x : Cluster) : (setCluster s c x).replicas = s.replicas := rfl
@[simp] theorem setCluster_poison (s : State) (c : Nat) (x : Cluster) : (setCluster s c x).poison = s.poison := rfl
@[simp] theorem setCluster_sectors (s : State) (c : Nat) (x : Cluster) : (setCluster s c x).sectors = s.sectors := rfl
@[simp] theorem setCluster_shelf (s : State) (c : Nat) (x : Cluster) : (setCluster s c x).shelf = s.shelf := rfl
@[simp] theorem setCluster_tolBlocks (s : State) (c : Nat) (x : Cluster) : (setCluster s c x).tolBlocks = s.tolBlocks := rfl
@[simp] theorem setCluster_lq (s : State) (c : Nat) (x : Cluster) : (setCluster s c x).lq = s.lq := rfl
@[simp] theorem setCluster_lrHead (s : State) (c : Nat) (x : Cluster) : (setCluster s c x).lrHead = s.lrHead := rfl
@[simp] theorem setCluster_lrTail (s : State) (c : Nat) (x : Cluster) : (setCluster s c x).lrTail = s.lrTail := rfl
@[simp] theorem setCluster_reports (s : State) (c : Nat) (x : Cluster) : (setCluster s c x).reports = s.reports := rfl
@[simp] theorem setCluster_linkOut (s : State) (c : Nat) (x : Cluster) : (setCluster s c x).linkOut = s.linkOut := rfl
@[simp] theorem setCluster_breaks (s : State) (c : Nat) (x : Cluster) : (setCluster s c x).breaks = s.breaks := rfl
@[simp] theorem setCluster_kydb (s : State) (c : Nat) (x : Cluster) : (setCluster s c x).kydb = s.kydb := rfl
@[simp] theorem setCluster_breaksOn (s : State) (c : Nat) (x : Cluster) : (setCluster s c x).breaksOn = s.breaksOn := rfl
@[simp] theorem setCluster_told (s : State) (c : Nat) (x : Cluster) : (setCluster s c x).told = s.told := rfl
@[simp] theorem setCluster_hist (s : State) (c : Nat) (x : Cluster) : (setCluster s c x).hist = s.hist := rfl
@[simp] theorem setCluster_paired (s : State) (c : Nat) (x : Cluster) : (setCluster s c x).paired = s.paired := rfl
@[simp] theorem setCluster_readySeq (s : State) (c : Nat) (x : Cluster) : (setCluster s c x).readySeq = s.readySeq := rfl
@[simp] theorem setCluster_nextUid (s : State) (c : Nat) (x : Cluster) : (setCluster s c x).nextUid = s.nextUid := rfl
@[simp] theorem setCluster_inputs (s : State) (c : Nat) (x : Cluster) : (setCluster s c x).inputs = s.inputs := rfl
@[simp] theorem setCluster_cycle (s : State) (c : Nat) (x : Cluster) : (setCluster s c x).cycle = s.cycle := rfl
@[simp] theorem setCluster_tick (s : State) (c : Nat) (x : Cluster) : (setCluster s c x).tick = s.tick := rfl
@[simp] theorem setCluster_agenda (s : State) (c : Nat) (x : Cluster) : (setCluster s c x).agenda = s.agenda := rfl
@[simp] theorem setCluster_cur (s : State) (c : Nat) (x : Cluster) : (setCluster s c x).cur = s.cur := rfl
@[simp] theorem setCluster_ir (s : State) (c : Nat) (x : Cluster) : (setCluster s c x).ir = s.ir := rfl

/-! ### setFut -/

@[simp] theorem setFut_hub (s : State) (i : Nat) (f : Future) : (setFut s i f).hub = s.hub := rfl
@[simp] theorem setFut_mem (s : State) (i : Nat) (f : Future) : (setFut s i f).mem = s.mem := rfl
@[simp] theorem setFut_empties (s : State) (i : Nat) (f : Future) : (setFut s i f).empties = s.empties := rfl
@[simp] theorem setFut_cores (s : State) (i : Nat) (f : Future) : (setFut s i f).cores = s.cores := rfl
@[simp] theorem setFut_strands (s : State) (i : Nat) (f : Future) : (setFut s i f).strands = s.strands := rfl
@[simp] theorem setFut_clusters (s : State) (i : Nat) (f : Future) : (setFut s i f).clusters = s.clusters := rfl
@[simp] theorem setFut_launches (s : State) (i : Nat) (f : Future) : (setFut s i f).launches = s.launches := rfl
@[simp] theorem setFut_saved (s : State) (i : Nat) (f : Future) : (setFut s i f).saved = s.saved := rfl
@[simp] theorem setFut_tasks (s : State) (i : Nat) (f : Future) : (setFut s i f).tasks = s.tasks := rfl
@[simp] theorem setFut_nextTask (s : State) (i : Nat) (f : Future) : (setFut s i f).nextTask = s.nextTask := rfl
@[simp] theorem setFut_jobs (s : State) (i : Nat) (f : Future) : (setFut s i f).jobs = s.jobs := rfl
@[simp] theorem setFut_nextJob (s : State) (i : Nat) (f : Future) : (setFut s i f).nextJob = s.nextJob := rfl
@[simp] theorem setFut_rsvs (s : State) (i : Nat) (f : Future) : (setFut s i f).rsvs = s.rsvs := rfl
@[simp] theorem setFut_deferred (s : State) (i : Nat) (f : Future) : (setFut s i f).deferred = s.deferred := rfl
@[simp] theorem setFut_packets (s : State) (i : Nat) (f : Future) : (setFut s i f).packets = s.packets := rfl
@[simp] theorem setFut_nextPacket (s : State) (i : Nat) (f : Future) : (setFut s i f).nextPacket = s.nextPacket := rfl
@[simp] theorem setFut_migrations (s : State) (i : Nat) (f : Future) : (setFut s i f).migrations = s.migrations := rfl
@[simp] theorem setFut_replicas (s : State) (i : Nat) (f : Future) : (setFut s i f).replicas = s.replicas := rfl
@[simp] theorem setFut_poison (s : State) (i : Nat) (f : Future) : (setFut s i f).poison = s.poison := rfl
@[simp] theorem setFut_sectors (s : State) (i : Nat) (f : Future) : (setFut s i f).sectors = s.sectors := rfl
@[simp] theorem setFut_shelf (s : State) (i : Nat) (f : Future) : (setFut s i f).shelf = s.shelf := rfl
@[simp] theorem setFut_tolBlocks (s : State) (i : Nat) (f : Future) : (setFut s i f).tolBlocks = s.tolBlocks := rfl
@[simp] theorem setFut_lq (s : State) (i : Nat) (f : Future) : (setFut s i f).lq = s.lq := rfl
@[simp] theorem setFut_lrHead (s : State) (i : Nat) (f : Future) : (setFut s i f).lrHead = s.lrHead := rfl
@[simp] theorem setFut_lrTail (s : State) (i : Nat) (f : Future) : (setFut s i f).lrTail = s.lrTail := rfl
@[simp] theorem setFut_reports (s : State) (i : Nat) (f : Future) : (setFut s i f).reports = s.reports := rfl
@[simp] theorem setFut_linkOut (s : State) (i : Nat) (f : Future) : (setFut s i f).linkOut = s.linkOut := rfl
@[simp] theorem setFut_breaks (s : State) (i : Nat) (f : Future) : (setFut s i f).breaks = s.breaks := rfl
@[simp] theorem setFut_kydb (s : State) (i : Nat) (f : Future) : (setFut s i f).kydb = s.kydb := rfl
@[simp] theorem setFut_breaksOn (s : State) (i : Nat) (f : Future) : (setFut s i f).breaksOn = s.breaksOn := rfl
@[simp] theorem setFut_told (s : State) (i : Nat) (f : Future) : (setFut s i f).told = s.told := rfl
@[simp] theorem setFut_hist (s : State) (i : Nat) (f : Future) : (setFut s i f).hist = s.hist := rfl
@[simp] theorem setFut_paired (s : State) (i : Nat) (f : Future) : (setFut s i f).paired = s.paired := rfl
@[simp] theorem setFut_readySeq (s : State) (i : Nat) (f : Future) : (setFut s i f).readySeq = s.readySeq := rfl
@[simp] theorem setFut_nextUid (s : State) (i : Nat) (f : Future) : (setFut s i f).nextUid = s.nextUid := rfl
@[simp] theorem setFut_inputs (s : State) (i : Nat) (f : Future) : (setFut s i f).inputs = s.inputs := rfl
@[simp] theorem setFut_cycle (s : State) (i : Nat) (f : Future) : (setFut s i f).cycle = s.cycle := rfl
@[simp] theorem setFut_tick (s : State) (i : Nat) (f : Future) : (setFut s i f).tick = s.tick := rfl
@[simp] theorem setFut_agenda (s : State) (i : Nat) (f : Future) : (setFut s i f).agenda = s.agenda := rfl
@[simp] theorem setFut_cur (s : State) (i : Nat) (f : Future) : (setFut s i f).cur = s.cur := rfl
@[simp] theorem setFut_ir (s : State) (i : Nat) (f : Future) : (setFut s i f).ir = s.ir := rfl

/-! ### setTask -/

@[simp] theorem setTask_hub (s : State) (t : Nat) (x : Task) : (setTask s t x).hub = s.hub := rfl
@[simp] theorem setTask_mem (s : State) (t : Nat) (x : Task) : (setTask s t x).mem = s.mem := rfl
@[simp] theorem setTask_empties (s : State) (t : Nat) (x : Task) : (setTask s t x).empties = s.empties := rfl
@[simp] theorem setTask_cores (s : State) (t : Nat) (x : Task) : (setTask s t x).cores = s.cores := rfl
@[simp] theorem setTask_strands (s : State) (t : Nat) (x : Task) : (setTask s t x).strands = s.strands := rfl
@[simp] theorem setTask_clusters (s : State) (t : Nat) (x : Task) : (setTask s t x).clusters = s.clusters := rfl
@[simp] theorem setTask_futures (s : State) (t : Nat) (x : Task) : (setTask s t x).futures = s.futures := rfl
@[simp] theorem setTask_launches (s : State) (t : Nat) (x : Task) : (setTask s t x).launches = s.launches := rfl
@[simp] theorem setTask_saved (s : State) (t : Nat) (x : Task) : (setTask s t x).saved = s.saved := rfl
@[simp] theorem setTask_nextTask (s : State) (t : Nat) (x : Task) : (setTask s t x).nextTask = s.nextTask := rfl
@[simp] theorem setTask_jobs (s : State) (t : Nat) (x : Task) : (setTask s t x).jobs = s.jobs := rfl
@[simp] theorem setTask_nextJob (s : State) (t : Nat) (x : Task) : (setTask s t x).nextJob = s.nextJob := rfl
@[simp] theorem setTask_rsvs (s : State) (t : Nat) (x : Task) : (setTask s t x).rsvs = s.rsvs := rfl
@[simp] theorem setTask_deferred (s : State) (t : Nat) (x : Task) : (setTask s t x).deferred = s.deferred := rfl
@[simp] theorem setTask_packets (s : State) (t : Nat) (x : Task) : (setTask s t x).packets = s.packets := rfl
@[simp] theorem setTask_nextPacket (s : State) (t : Nat) (x : Task) : (setTask s t x).nextPacket = s.nextPacket := rfl
@[simp] theorem setTask_migrations (s : State) (t : Nat) (x : Task) : (setTask s t x).migrations = s.migrations := rfl
@[simp] theorem setTask_replicas (s : State) (t : Nat) (x : Task) : (setTask s t x).replicas = s.replicas := rfl
@[simp] theorem setTask_poison (s : State) (t : Nat) (x : Task) : (setTask s t x).poison = s.poison := rfl
@[simp] theorem setTask_sectors (s : State) (t : Nat) (x : Task) : (setTask s t x).sectors = s.sectors := rfl
@[simp] theorem setTask_shelf (s : State) (t : Nat) (x : Task) : (setTask s t x).shelf = s.shelf := rfl
@[simp] theorem setTask_tolBlocks (s : State) (t : Nat) (x : Task) : (setTask s t x).tolBlocks = s.tolBlocks := rfl
@[simp] theorem setTask_lq (s : State) (t : Nat) (x : Task) : (setTask s t x).lq = s.lq := rfl
@[simp] theorem setTask_lrHead (s : State) (t : Nat) (x : Task) : (setTask s t x).lrHead = s.lrHead := rfl
@[simp] theorem setTask_lrTail (s : State) (t : Nat) (x : Task) : (setTask s t x).lrTail = s.lrTail := rfl
@[simp] theorem setTask_reports (s : State) (t : Nat) (x : Task) : (setTask s t x).reports = s.reports := rfl
@[simp] theorem setTask_linkOut (s : State) (t : Nat) (x : Task) : (setTask s t x).linkOut = s.linkOut := rfl
@[simp] theorem setTask_breaks (s : State) (t : Nat) (x : Task) : (setTask s t x).breaks = s.breaks := rfl
@[simp] theorem setTask_kydb (s : State) (t : Nat) (x : Task) : (setTask s t x).kydb = s.kydb := rfl
@[simp] theorem setTask_breaksOn (s : State) (t : Nat) (x : Task) : (setTask s t x).breaksOn = s.breaksOn := rfl
@[simp] theorem setTask_told (s : State) (t : Nat) (x : Task) : (setTask s t x).told = s.told := rfl
@[simp] theorem setTask_hist (s : State) (t : Nat) (x : Task) : (setTask s t x).hist = s.hist := rfl
@[simp] theorem setTask_paired (s : State) (t : Nat) (x : Task) : (setTask s t x).paired = s.paired := rfl
@[simp] theorem setTask_readySeq (s : State) (t : Nat) (x : Task) : (setTask s t x).readySeq = s.readySeq := rfl
@[simp] theorem setTask_nextUid (s : State) (t : Nat) (x : Task) : (setTask s t x).nextUid = s.nextUid := rfl
@[simp] theorem setTask_inputs (s : State) (t : Nat) (x : Task) : (setTask s t x).inputs = s.inputs := rfl
@[simp] theorem setTask_cycle (s : State) (t : Nat) (x : Task) : (setTask s t x).cycle = s.cycle := rfl
@[simp] theorem setTask_tick (s : State) (t : Nat) (x : Task) : (setTask s t x).tick = s.tick := rfl
@[simp] theorem setTask_agenda (s : State) (t : Nat) (x : Task) : (setTask s t x).agenda = s.agenda := rfl
@[simp] theorem setTask_cur (s : State) (t : Nat) (x : Task) : (setTask s t x).cur = s.cur := rfl
@[simp] theorem setTask_ir (s : State) (t : Nat) (x : Task) : (setTask s t x).ir = s.ir := rfl

/-! ### addEvent -/

@[simp] theorem addEvent_hub (s : State) (e : Instr) : (addEvent s e).hub = s.hub := rfl
@[simp] theorem addEvent_mem (s : State) (e : Instr) : (addEvent s e).mem = s.mem := rfl
@[simp] theorem addEvent_empties (s : State) (e : Instr) : (addEvent s e).empties = s.empties := rfl
@[simp] theorem addEvent_cores (s : State) (e : Instr) : (addEvent s e).cores = s.cores := rfl
@[simp] theorem addEvent_strands (s : State) (e : Instr) : (addEvent s e).strands = s.strands := rfl
@[simp] theorem addEvent_clusters (s : State) (e : Instr) : (addEvent s e).clusters = s.clusters := rfl
@[simp] theorem addEvent_futures (s : State) (e : Instr) : (addEvent s e).futures = s.futures := rfl
@[simp] theorem addEvent_launches (s : State) (e : Instr) : (addEvent s e).launches = s.launches := rfl
@[simp] theorem addEvent_saved (s : State) (e : Instr) : (addEvent s e).saved = s.saved := rfl
@[simp] theorem addEvent_tasks (s : State) (e : Instr) : (addEvent s e).tasks = s.tasks := rfl
@[simp] theorem addEvent_nextTask (s : State) (e : Instr) : (addEvent s e).nextTask = s.nextTask := rfl
@[simp] theorem addEvent_jobs (s : State) (e : Instr) : (addEvent s e).jobs = s.jobs := rfl
@[simp] theorem addEvent_nextJob (s : State) (e : Instr) : (addEvent s e).nextJob = s.nextJob := rfl
@[simp] theorem addEvent_rsvs (s : State) (e : Instr) : (addEvent s e).rsvs = s.rsvs := rfl
@[simp] theorem addEvent_deferred (s : State) (e : Instr) : (addEvent s e).deferred = s.deferred := rfl
@[simp] theorem addEvent_packets (s : State) (e : Instr) : (addEvent s e).packets = s.packets := rfl
@[simp] theorem addEvent_nextPacket (s : State) (e : Instr) : (addEvent s e).nextPacket = s.nextPacket := rfl
@[simp] theorem addEvent_migrations (s : State) (e : Instr) : (addEvent s e).migrations = s.migrations := rfl
@[simp] theorem addEvent_replicas (s : State) (e : Instr) : (addEvent s e).replicas = s.replicas := rfl
@[simp] theorem addEvent_poison (s : State) (e : Instr) : (addEvent s e).poison = s.poison := rfl
@[simp] theorem addEvent_sectors (s : State) (e : Instr) : (addEvent s e).sectors = s.sectors := rfl
@[simp] theorem addEvent_shelf (s : State) (e : Instr) : (addEvent s e).shelf = s.shelf := rfl
@[simp] theorem addEvent_tolBlocks (s : State) (e : Instr) : (addEvent s e).tolBlocks = s.tolBlocks := rfl
@[simp] theorem addEvent_lq (s : State) (e : Instr) : (addEvent s e).lq = s.lq := rfl
@[simp] theorem addEvent_lrHead (s : State) (e : Instr) : (addEvent s e).lrHead = s.lrHead := rfl
@[simp] theorem addEvent_lrTail (s : State) (e : Instr) : (addEvent s e).lrTail = s.lrTail := rfl
@[simp] theorem addEvent_reports (s : State) (e : Instr) : (addEvent s e).reports = s.reports := rfl
@[simp] theorem addEvent_linkOut (s : State) (e : Instr) : (addEvent s e).linkOut = s.linkOut := rfl
@[simp] theorem addEvent_breaks (s : State) (e : Instr) : (addEvent s e).breaks = s.breaks := rfl
@[simp] theorem addEvent_kydb (s : State) (e : Instr) : (addEvent s e).kydb = s.kydb := rfl
@[simp] theorem addEvent_breaksOn (s : State) (e : Instr) : (addEvent s e).breaksOn = s.breaksOn := rfl
@[simp] theorem addEvent_told (s : State) (e : Instr) : (addEvent s e).told = s.told := rfl
@[simp] theorem addEvent_hist (s : State) (e : Instr) : (addEvent s e).hist = s.hist := rfl
@[simp] theorem addEvent_paired (s : State) (e : Instr) : (addEvent s e).paired = s.paired := rfl
@[simp] theorem addEvent_readySeq (s : State) (e : Instr) : (addEvent s e).readySeq = s.readySeq := rfl
@[simp] theorem addEvent_nextUid (s : State) (e : Instr) : (addEvent s e).nextUid = s.nextUid := rfl
@[simp] theorem addEvent_inputs (s : State) (e : Instr) : (addEvent s e).inputs = s.inputs := rfl
@[simp] theorem addEvent_cycle (s : State) (e : Instr) : (addEvent s e).cycle = s.cycle := rfl
@[simp] theorem addEvent_tick (s : State) (e : Instr) : (addEvent s e).tick = s.tick := rfl
@[simp] theorem addEvent_cur (s : State) (e : Instr) : (addEvent s e).cur = s.cur := rfl
@[simp] theorem addEvent_ir (s : State) (e : Instr) : (addEvent s e).ir = s.ir := rfl

/-! ### addNext -/

@[simp] theorem addNext_hub (s : State) (e : Instr) : (addNext s e).hub = s.hub := rfl
@[simp] theorem addNext_mem (s : State) (e : Instr) : (addNext s e).mem = s.mem := rfl
@[simp] theorem addNext_empties (s : State) (e : Instr) : (addNext s e).empties = s.empties := rfl
@[simp] theorem addNext_cores (s : State) (e : Instr) : (addNext s e).cores = s.cores := rfl
@[simp] theorem addNext_strands (s : State) (e : Instr) : (addNext s e).strands = s.strands := rfl
@[simp] theorem addNext_clusters (s : State) (e : Instr) : (addNext s e).clusters = s.clusters := rfl
@[simp] theorem addNext_futures (s : State) (e : Instr) : (addNext s e).futures = s.futures := rfl
@[simp] theorem addNext_launches (s : State) (e : Instr) : (addNext s e).launches = s.launches := rfl
@[simp] theorem addNext_saved (s : State) (e : Instr) : (addNext s e).saved = s.saved := rfl
@[simp] theorem addNext_tasks (s : State) (e : Instr) : (addNext s e).tasks = s.tasks := rfl
@[simp] theorem addNext_nextTask (s : State) (e : Instr) : (addNext s e).nextTask = s.nextTask := rfl
@[simp] theorem addNext_jobs (s : State) (e : Instr) : (addNext s e).jobs = s.jobs := rfl
@[simp] theorem addNext_nextJob (s : State) (e : Instr) : (addNext s e).nextJob = s.nextJob := rfl
@[simp] theorem addNext_rsvs (s : State) (e : Instr) : (addNext s e).rsvs = s.rsvs := rfl
@[simp] theorem addNext_deferred (s : State) (e : Instr) : (addNext s e).deferred = s.deferred := rfl
@[simp] theorem addNext_packets (s : State) (e : Instr) : (addNext s e).packets = s.packets := rfl
@[simp] theorem addNext_nextPacket (s : State) (e : Instr) : (addNext s e).nextPacket = s.nextPacket := rfl
@[simp] theorem addNext_migrations (s : State) (e : Instr) : (addNext s e).migrations = s.migrations := rfl
@[simp] theorem addNext_replicas (s : State) (e : Instr) : (addNext s e).replicas = s.replicas := rfl
@[simp] theorem addNext_poison (s : State) (e : Instr) : (addNext s e).poison = s.poison := rfl
@[simp] theorem addNext_sectors (s : State) (e : Instr) : (addNext s e).sectors = s.sectors := rfl
@[simp] theorem addNext_shelf (s : State) (e : Instr) : (addNext s e).shelf = s.shelf := rfl
@[simp] theorem addNext_tolBlocks (s : State) (e : Instr) : (addNext s e).tolBlocks = s.tolBlocks := rfl
@[simp] theorem addNext_lq (s : State) (e : Instr) : (addNext s e).lq = s.lq := rfl
@[simp] theorem addNext_lrHead (s : State) (e : Instr) : (addNext s e).lrHead = s.lrHead := rfl
@[simp] theorem addNext_lrTail (s : State) (e : Instr) : (addNext s e).lrTail = s.lrTail := rfl
@[simp] theorem addNext_reports (s : State) (e : Instr) : (addNext s e).reports = s.reports := rfl
@[simp] theorem addNext_linkOut (s : State) (e : Instr) : (addNext s e).linkOut = s.linkOut := rfl
@[simp] theorem addNext_breaks (s : State) (e : Instr) : (addNext s e).breaks = s.breaks := rfl
@[simp] theorem addNext_kydb (s : State) (e : Instr) : (addNext s e).kydb = s.kydb := rfl
@[simp] theorem addNext_breaksOn (s : State) (e : Instr) : (addNext s e).breaksOn = s.breaksOn := rfl
@[simp] theorem addNext_told (s : State) (e : Instr) : (addNext s e).told = s.told := rfl
@[simp] theorem addNext_cycle (s : State) (e : Instr) : (addNext s e).cycle = s.cycle := rfl
@[simp] theorem addNext_hist (s : State) (e : Instr) : (addNext s e).hist = s.hist := rfl
@[simp] theorem addNext_paired (s : State) (e : Instr) : (addNext s e).paired = s.paired := rfl
@[simp] theorem addNext_readySeq (s : State) (e : Instr) : (addNext s e).readySeq = s.readySeq := rfl
@[simp] theorem addNext_nextUid (s : State) (e : Instr) : (addNext s e).nextUid = s.nextUid := rfl
@[simp] theorem addNext_inputs (s : State) (e : Instr) : (addNext s e).inputs = s.inputs := rfl
@[simp] theorem addNext_tick (s : State) (e : Instr) : (addNext s e).tick = s.tick := rfl
@[simp] theorem addNext_agenda (s : State) (e : Instr) : (addNext s e).agenda = e :: s.agenda := rfl
@[simp] theorem addNext_cur (s : State) (e : Instr) : (addNext s e).cur = s.cur := rfl
@[simp] theorem addNext_ir (s : State) (e : Instr) : (addNext s e).ir = s.ir := rfl

/-! ### setFull -/

@[simp] theorem setFull_hub (s : State) (a : Nat) (b : Bool) : (setFull s a b).hub = s.hub := rfl
@[simp] theorem setFull_mem (s : State) (a : Nat) (b : Bool) : (setFull s a b).mem = s.mem := rfl
@[simp] theorem setFull_cores (s : State) (a : Nat) (b : Bool) : (setFull s a b).cores = s.cores := rfl
@[simp] theorem setFull_strands (s : State) (a : Nat) (b : Bool) : (setFull s a b).strands = s.strands := rfl
@[simp] theorem setFull_clusters (s : State) (a : Nat) (b : Bool) : (setFull s a b).clusters = s.clusters := rfl
@[simp] theorem setFull_futures (s : State) (a : Nat) (b : Bool) : (setFull s a b).futures = s.futures := rfl
@[simp] theorem setFull_launches (s : State) (a : Nat) (b : Bool) : (setFull s a b).launches = s.launches := rfl
@[simp] theorem setFull_saved (s : State) (a : Nat) (b : Bool) : (setFull s a b).saved = s.saved := rfl
@[simp] theorem setFull_tasks (s : State) (a : Nat) (b : Bool) : (setFull s a b).tasks = s.tasks := rfl
@[simp] theorem setFull_nextTask (s : State) (a : Nat) (b : Bool) : (setFull s a b).nextTask = s.nextTask := rfl
@[simp] theorem setFull_jobs (s : State) (a : Nat) (b : Bool) : (setFull s a b).jobs = s.jobs := rfl
@[simp] theorem setFull_nextJob (s : State) (a : Nat) (b : Bool) : (setFull s a b).nextJob = s.nextJob := rfl
@[simp] theorem setFull_rsvs (s : State) (a : Nat) (b : Bool) : (setFull s a b).rsvs = s.rsvs := rfl
@[simp] theorem setFull_deferred (s : State) (a : Nat) (b : Bool) : (setFull s a b).deferred = s.deferred := rfl
@[simp] theorem setFull_packets (s : State) (a : Nat) (b : Bool) : (setFull s a b).packets = s.packets := rfl
@[simp] theorem setFull_nextPacket (s : State) (a : Nat) (b : Bool) : (setFull s a b).nextPacket = s.nextPacket := rfl
@[simp] theorem setFull_migrations (s : State) (a : Nat) (b : Bool) : (setFull s a b).migrations = s.migrations := rfl
@[simp] theorem setFull_replicas (s : State) (a : Nat) (b : Bool) : (setFull s a b).replicas = s.replicas := rfl
@[simp] theorem setFull_poison (s : State) (a : Nat) (b : Bool) : (setFull s a b).poison = s.poison := rfl
@[simp] theorem setFull_sectors (s : State) (a : Nat) (b : Bool) : (setFull s a b).sectors = s.sectors := rfl
@[simp] theorem setFull_shelf (s : State) (a : Nat) (b : Bool) : (setFull s a b).shelf = s.shelf := rfl
@[simp] theorem setFull_tolBlocks (s : State) (a : Nat) (b : Bool) : (setFull s a b).tolBlocks = s.tolBlocks := rfl
@[simp] theorem setFull_lq (s : State) (a : Nat) (b : Bool) : (setFull s a b).lq = s.lq := rfl
@[simp] theorem setFull_lrHead (s : State) (a : Nat) (b : Bool) : (setFull s a b).lrHead = s.lrHead := rfl
@[simp] theorem setFull_lrTail (s : State) (a : Nat) (b : Bool) : (setFull s a b).lrTail = s.lrTail := rfl
@[simp] theorem setFull_reports (s : State) (a : Nat) (b : Bool) : (setFull s a b).reports = s.reports := rfl
@[simp] theorem setFull_linkOut (s : State) (a : Nat) (b : Bool) : (setFull s a b).linkOut = s.linkOut := rfl
@[simp] theorem setFull_breaks (s : State) (a : Nat) (b : Bool) : (setFull s a b).breaks = s.breaks := rfl
@[simp] theorem setFull_kydb (s : State) (a : Nat) (b : Bool) : (setFull s a b).kydb = s.kydb := rfl
@[simp] theorem setFull_breaksOn (s : State) (a : Nat) (b : Bool) : (setFull s a b).breaksOn = s.breaksOn := rfl
@[simp] theorem setFull_told (s : State) (a : Nat) (b : Bool) : (setFull s a b).told = s.told := rfl
@[simp] theorem setFull_hist (s : State) (a : Nat) (b : Bool) : (setFull s a b).hist = s.hist := rfl
@[simp] theorem setFull_paired (s : State) (a : Nat) (b : Bool) : (setFull s a b).paired = s.paired := rfl
@[simp] theorem setFull_readySeq (s : State) (a : Nat) (b : Bool) : (setFull s a b).readySeq = s.readySeq := rfl
@[simp] theorem setFull_nextUid (s : State) (a : Nat) (b : Bool) : (setFull s a b).nextUid = s.nextUid := rfl
@[simp] theorem setFull_inputs (s : State) (a : Nat) (b : Bool) : (setFull s a b).inputs = s.inputs := rfl
@[simp] theorem setFull_cycle (s : State) (a : Nat) (b : Bool) : (setFull s a b).cycle = s.cycle := rfl
@[simp] theorem setFull_tick (s : State) (a : Nat) (b : Bool) : (setFull s a b).tick = s.tick := rfl
@[simp] theorem setFull_agenda (s : State) (a : Nat) (b : Bool) : (setFull s a b).agenda = s.agenda := rfl
@[simp] theorem setFull_cur (s : State) (a : Nat) (b : Bool) : (setFull s a b).cur = s.cur := rfl
@[simp] theorem setFull_ir (s : State) (a : Nat) (b : Bool) : (setFull s a b).ir = s.ir := rfl

/-! ### progress -/

@[simp] theorem progress_hub (s : State) (lid : Nat) : (progress s lid).hub = s.hub := rfl
@[simp] theorem progress_mem (s : State) (lid : Nat) : (progress s lid).mem = s.mem := rfl
@[simp] theorem progress_empties (s : State) (lid : Nat) : (progress s lid).empties = s.empties := rfl
@[simp] theorem progress_cores (s : State) (lid : Nat) : (progress s lid).cores = s.cores := rfl
@[simp] theorem progress_strands (s : State) (lid : Nat) : (progress s lid).strands = s.strands := rfl
@[simp] theorem progress_clusters (s : State) (lid : Nat) : (progress s lid).clusters = s.clusters := rfl
@[simp] theorem progress_futures (s : State) (lid : Nat) : (progress s lid).futures = s.futures := rfl
@[simp] theorem progress_saved (s : State) (lid : Nat) : (progress s lid).saved = s.saved := rfl
@[simp] theorem progress_tasks (s : State) (lid : Nat) : (progress s lid).tasks = s.tasks := rfl
@[simp] theorem progress_nextTask (s : State) (lid : Nat) : (progress s lid).nextTask = s.nextTask := rfl
@[simp] theorem progress_jobs (s : State) (lid : Nat) : (progress s lid).jobs = s.jobs := rfl
@[simp] theorem progress_nextJob (s : State) (lid : Nat) : (progress s lid).nextJob = s.nextJob := rfl
@[simp] theorem progress_rsvs (s : State) (lid : Nat) : (progress s lid).rsvs = s.rsvs := rfl
@[simp] theorem progress_deferred (s : State) (lid : Nat) : (progress s lid).deferred = s.deferred := rfl
@[simp] theorem progress_packets (s : State) (lid : Nat) : (progress s lid).packets = s.packets := rfl
@[simp] theorem progress_nextPacket (s : State) (lid : Nat) : (progress s lid).nextPacket = s.nextPacket := rfl
@[simp] theorem progress_migrations (s : State) (lid : Nat) : (progress s lid).migrations = s.migrations := rfl
@[simp] theorem progress_replicas (s : State) (lid : Nat) : (progress s lid).replicas = s.replicas := rfl
@[simp] theorem progress_poison (s : State) (lid : Nat) : (progress s lid).poison = s.poison := rfl
@[simp] theorem progress_sectors (s : State) (lid : Nat) : (progress s lid).sectors = s.sectors := rfl
@[simp] theorem progress_shelf (s : State) (lid : Nat) : (progress s lid).shelf = s.shelf := rfl
@[simp] theorem progress_tolBlocks (s : State) (lid : Nat) : (progress s lid).tolBlocks = s.tolBlocks := rfl
@[simp] theorem progress_lq (s : State) (lid : Nat) : (progress s lid).lq = s.lq := rfl
@[simp] theorem progress_lrHead (s : State) (lid : Nat) : (progress s lid).lrHead = s.lrHead := rfl
@[simp] theorem progress_lrTail (s : State) (lid : Nat) : (progress s lid).lrTail = s.lrTail := rfl
@[simp] theorem progress_reports (s : State) (lid : Nat) : (progress s lid).reports = s.reports := rfl
@[simp] theorem progress_linkOut (s : State) (lid : Nat) : (progress s lid).linkOut = s.linkOut := rfl
@[simp] theorem progress_breaks (s : State) (lid : Nat) : (progress s lid).breaks = s.breaks := rfl
@[simp] theorem progress_kydb (s : State) (lid : Nat) : (progress s lid).kydb = s.kydb := rfl
@[simp] theorem progress_breaksOn (s : State) (lid : Nat) : (progress s lid).breaksOn = s.breaksOn := rfl
@[simp] theorem progress_told (s : State) (lid : Nat) : (progress s lid).told = s.told := rfl
@[simp] theorem progress_hist (s : State) (lid : Nat) : (progress s lid).hist = s.hist := rfl
@[simp] theorem progress_paired (s : State) (lid : Nat) : (progress s lid).paired = s.paired := rfl
@[simp] theorem progress_readySeq (s : State) (lid : Nat) : (progress s lid).readySeq = s.readySeq := rfl
@[simp] theorem progress_nextUid (s : State) (lid : Nat) : (progress s lid).nextUid = s.nextUid := rfl
@[simp] theorem progress_inputs (s : State) (lid : Nat) : (progress s lid).inputs = s.inputs := rfl
@[simp] theorem progress_cycle (s : State) (lid : Nat) : (progress s lid).cycle = s.cycle := rfl
@[simp] theorem progress_tick (s : State) (lid : Nat) : (progress s lid).tick = s.tick := rfl
@[simp] theorem progress_agenda (s : State) (lid : Nat) : (progress s lid).agenda = s.agenda := rfl
@[simp] theorem progress_cur (s : State) (lid : Nat) : (progress s lid).cur = s.cur := rfl
@[simp] theorem progress_ir (s : State) (lid : Nat) : (progress s lid).ir = s.ir := rfl

/-! ### keepHub -/

@[simp] theorem keepHub_mem (s t : State) : (keepHub s t).mem = t.mem := rfl
@[simp] theorem keepHub_empties (s t : State) : (keepHub s t).empties = t.empties := rfl
@[simp] theorem keepHub_cores (s t : State) : (keepHub s t).cores = t.cores := rfl
@[simp] theorem keepHub_strands (s t : State) : (keepHub s t).strands = t.strands := rfl
@[simp] theorem keepHub_clusters (s t : State) : (keepHub s t).clusters = t.clusters := rfl
@[simp] theorem keepHub_futures (s t : State) : (keepHub s t).futures = t.futures := rfl
@[simp] theorem keepHub_launches (s t : State) : (keepHub s t).launches = t.launches := rfl
@[simp] theorem keepHub_saved (s t : State) : (keepHub s t).saved = t.saved := rfl
@[simp] theorem keepHub_tasks (s t : State) : (keepHub s t).tasks = t.tasks := rfl
@[simp] theorem keepHub_nextTask (s t : State) : (keepHub s t).nextTask = t.nextTask := rfl
@[simp] theorem keepHub_jobs (s t : State) : (keepHub s t).jobs = t.jobs := rfl
@[simp] theorem keepHub_nextJob (s t : State) : (keepHub s t).nextJob = t.nextJob := rfl
@[simp] theorem keepHub_rsvs (s t : State) : (keepHub s t).rsvs = t.rsvs := rfl
@[simp] theorem keepHub_deferred (s t : State) : (keepHub s t).deferred = t.deferred := rfl
@[simp] theorem keepHub_packets (s t : State) : (keepHub s t).packets = t.packets := rfl
@[simp] theorem keepHub_nextPacket (s t : State) : (keepHub s t).nextPacket = t.nextPacket := rfl
@[simp] theorem keepHub_migrations (s t : State) : (keepHub s t).migrations = t.migrations := rfl
@[simp] theorem keepHub_replicas (s t : State) : (keepHub s t).replicas = t.replicas := rfl
@[simp] theorem keepHub_poison (s t : State) : (keepHub s t).poison = t.poison := rfl
@[simp] theorem keepHub_sectors (s t : State) : (keepHub s t).sectors = t.sectors := rfl
@[simp] theorem keepHub_shelf (s t : State) : (keepHub s t).shelf = t.shelf := rfl
@[simp] theorem keepHub_tolBlocks (s t : State) : (keepHub s t).tolBlocks = t.tolBlocks := rfl
@[simp] theorem keepHub_lq (s t : State) : (keepHub s t).lq = t.lq := rfl
@[simp] theorem keepHub_lrHead (s t : State) : (keepHub s t).lrHead = t.lrHead := rfl
@[simp] theorem keepHub_lrTail (s t : State) : (keepHub s t).lrTail = t.lrTail := rfl
@[simp] theorem keepHub_reports (s t : State) : (keepHub s t).reports = t.reports := rfl
@[simp] theorem keepHub_linkOut (s t : State) : (keepHub s t).linkOut = t.linkOut := rfl
@[simp] theorem keepHub_breaks (s t : State) : (keepHub s t).breaks = t.breaks := rfl
@[simp] theorem keepHub_kydb (s t : State) : (keepHub s t).kydb = t.kydb := rfl
@[simp] theorem keepHub_breaksOn (s t : State) : (keepHub s t).breaksOn = t.breaksOn := rfl
@[simp] theorem keepHub_told (s t : State) : (keepHub s t).told = t.told := rfl
@[simp] theorem keepHub_hist (s t : State) : (keepHub s t).hist = t.hist := rfl
@[simp] theorem keepHub_paired (s t : State) : (keepHub s t).paired = t.paired := rfl
@[simp] theorem keepHub_readySeq (s t : State) : (keepHub s t).readySeq = t.readySeq := rfl
@[simp] theorem keepHub_nextUid (s t : State) : (keepHub s t).nextUid = t.nextUid := rfl
@[simp] theorem keepHub_inputs (s t : State) : (keepHub s t).inputs = t.inputs := rfl
@[simp] theorem keepHub_cycle (s t : State) : (keepHub s t).cycle = t.cycle := rfl
@[simp] theorem keepHub_tick (s t : State) : (keepHub s t).tick = t.tick := rfl
@[simp] theorem keepHub_agenda (s t : State) : (keepHub s t).agenda = t.agenda := rfl
@[simp] theorem keepHub_cur (s t : State) : (keepHub s t).cur = t.cur := rfl
@[simp] theorem keepHub_ir (s t : State) : (keepHub s t).ir = t.ir := rfl

/-! ### advance -/

@[simp] theorem advance_hub (s : State) : (advance s).hub = s.hub := rfl
@[simp] theorem advance_mem (s : State) : (advance s).mem = s.mem := rfl
@[simp] theorem advance_empties (s : State) : (advance s).empties = s.empties := rfl
@[simp] theorem advance_cores (s : State) : (advance s).cores = s.cores := rfl
@[simp] theorem advance_clusters (s : State) : (advance s).clusters = s.clusters := rfl
@[simp] theorem advance_futures (s : State) : (advance s).futures = s.futures := rfl
@[simp] theorem advance_launches (s : State) : (advance s).launches = s.launches := rfl
@[simp] theorem advance_saved (s : State) : (advance s).saved = s.saved := rfl
@[simp] theorem advance_tasks (s : State) : (advance s).tasks = s.tasks := rfl
@[simp] theorem advance_nextTask (s : State) : (advance s).nextTask = s.nextTask := rfl
@[simp] theorem advance_jobs (s : State) : (advance s).jobs = s.jobs := rfl
@[simp] theorem advance_nextJob (s : State) : (advance s).nextJob = s.nextJob := rfl
@[simp] theorem advance_rsvs (s : State) : (advance s).rsvs = s.rsvs := rfl
@[simp] theorem advance_deferred (s : State) : (advance s).deferred = s.deferred := rfl
@[simp] theorem advance_packets (s : State) : (advance s).packets = s.packets := rfl
@[simp] theorem advance_nextPacket (s : State) : (advance s).nextPacket = s.nextPacket := rfl
@[simp] theorem advance_migrations (s : State) : (advance s).migrations = s.migrations := rfl
@[simp] theorem advance_replicas (s : State) : (advance s).replicas = s.replicas := rfl
@[simp] theorem advance_poison (s : State) : (advance s).poison = s.poison := rfl
@[simp] theorem advance_sectors (s : State) : (advance s).sectors = s.sectors := rfl
@[simp] theorem advance_shelf (s : State) : (advance s).shelf = s.shelf := rfl
@[simp] theorem advance_tolBlocks (s : State) : (advance s).tolBlocks = s.tolBlocks := rfl
@[simp] theorem advance_lq (s : State) : (advance s).lq = s.lq := rfl
@[simp] theorem advance_lrHead (s : State) : (advance s).lrHead = s.lrHead := rfl
@[simp] theorem advance_lrTail (s : State) : (advance s).lrTail = s.lrTail := rfl
@[simp] theorem advance_reports (s : State) : (advance s).reports = s.reports := rfl
@[simp] theorem advance_linkOut (s : State) : (advance s).linkOut = s.linkOut := rfl
@[simp] theorem advance_breaks (s : State) : (advance s).breaks = s.breaks := rfl
@[simp] theorem advance_kydb (s : State) : (advance s).kydb = s.kydb := rfl
@[simp] theorem advance_breaksOn (s : State) : (advance s).breaksOn = s.breaksOn := rfl
@[simp] theorem advance_told (s : State) : (advance s).told = s.told := rfl
@[simp] theorem advance_hist (s : State) : (advance s).hist = s.hist := rfl
@[simp] theorem advance_paired (s : State) : (advance s).paired = s.paired := rfl
@[simp] theorem advance_readySeq (s : State) : (advance s).readySeq = s.readySeq := rfl
@[simp] theorem advance_nextUid (s : State) : (advance s).nextUid = s.nextUid := rfl
@[simp] theorem advance_inputs (s : State) : (advance s).inputs = s.inputs := rfl
@[simp] theorem advance_cycle (s : State) : (advance s).cycle = s.cycle := rfl
@[simp] theorem advance_tick (s : State) : (advance s).tick = s.tick := rfl
@[simp] theorem advance_agenda (s : State) : (advance s).agenda = s.agenda := rfl
@[simp] theorem advance_cur (s : State) : (advance s).cur = s.cur := rfl
@[simp] theorem advance_ir (s : State) : (advance s).ir = s.ir := rfl

/-! ### jump -/

@[simp] theorem jump_hub (s : State) (pc : BitVec 48) : (jump s pc).hub = s.hub := rfl
@[simp] theorem jump_mem (s : State) (pc : BitVec 48) : (jump s pc).mem = s.mem := rfl
@[simp] theorem jump_empties (s : State) (pc : BitVec 48) : (jump s pc).empties = s.empties := rfl
@[simp] theorem jump_cores (s : State) (pc : BitVec 48) : (jump s pc).cores = s.cores := rfl
@[simp] theorem jump_clusters (s : State) (pc : BitVec 48) : (jump s pc).clusters = s.clusters := rfl
@[simp] theorem jump_futures (s : State) (pc : BitVec 48) : (jump s pc).futures = s.futures := rfl
@[simp] theorem jump_launches (s : State) (pc : BitVec 48) : (jump s pc).launches = s.launches := rfl
@[simp] theorem jump_saved (s : State) (pc : BitVec 48) : (jump s pc).saved = s.saved := rfl
@[simp] theorem jump_tasks (s : State) (pc : BitVec 48) : (jump s pc).tasks = s.tasks := rfl
@[simp] theorem jump_nextTask (s : State) (pc : BitVec 48) : (jump s pc).nextTask = s.nextTask := rfl
@[simp] theorem jump_jobs (s : State) (pc : BitVec 48) : (jump s pc).jobs = s.jobs := rfl
@[simp] theorem jump_nextJob (s : State) (pc : BitVec 48) : (jump s pc).nextJob = s.nextJob := rfl
@[simp] theorem jump_rsvs (s : State) (pc : BitVec 48) : (jump s pc).rsvs = s.rsvs := rfl
@[simp] theorem jump_deferred (s : State) (pc : BitVec 48) : (jump s pc).deferred = s.deferred := rfl
@[simp] theorem jump_packets (s : State) (pc : BitVec 48) : (jump s pc).packets = s.packets := rfl
@[simp] theorem jump_nextPacket (s : State) (pc : BitVec 48) : (jump s pc).nextPacket = s.nextPacket := rfl
@[simp] theorem jump_migrations (s : State) (pc : BitVec 48) : (jump s pc).migrations = s.migrations := rfl
@[simp] theorem jump_replicas (s : State) (pc : BitVec 48) : (jump s pc).replicas = s.replicas := rfl
@[simp] theorem jump_poison (s : State) (pc : BitVec 48) : (jump s pc).poison = s.poison := rfl
@[simp] theorem jump_sectors (s : State) (pc : BitVec 48) : (jump s pc).sectors = s.sectors := rfl
@[simp] theorem jump_shelf (s : State) (pc : BitVec 48) : (jump s pc).shelf = s.shelf := rfl
@[simp] theorem jump_tolBlocks (s : State) (pc : BitVec 48) : (jump s pc).tolBlocks = s.tolBlocks := rfl
@[simp] theorem jump_lq (s : State) (pc : BitVec 48) : (jump s pc).lq = s.lq := rfl
@[simp] theorem jump_lrHead (s : State) (pc : BitVec 48) : (jump s pc).lrHead = s.lrHead := rfl
@[simp] theorem jump_lrTail (s : State) (pc : BitVec 48) : (jump s pc).lrTail = s.lrTail := rfl
@[simp] theorem jump_reports (s : State) (pc : BitVec 48) : (jump s pc).reports = s.reports := rfl
@[simp] theorem jump_linkOut (s : State) (pc : BitVec 48) : (jump s pc).linkOut = s.linkOut := rfl
@[simp] theorem jump_breaks (s : State) (pc : BitVec 48) : (jump s pc).breaks = s.breaks := rfl
@[simp] theorem jump_kydb (s : State) (pc : BitVec 48) : (jump s pc).kydb = s.kydb := rfl
@[simp] theorem jump_breaksOn (s : State) (pc : BitVec 48) : (jump s pc).breaksOn = s.breaksOn := rfl
@[simp] theorem jump_told (s : State) (pc : BitVec 48) : (jump s pc).told = s.told := rfl
@[simp] theorem jump_hist (s : State) (pc : BitVec 48) : (jump s pc).hist = s.hist := rfl
@[simp] theorem jump_paired (s : State) (pc : BitVec 48) : (jump s pc).paired = s.paired := rfl
@[simp] theorem jump_readySeq (s : State) (pc : BitVec 48) : (jump s pc).readySeq = s.readySeq := rfl
@[simp] theorem jump_nextUid (s : State) (pc : BitVec 48) : (jump s pc).nextUid = s.nextUid := rfl
@[simp] theorem jump_inputs (s : State) (pc : BitVec 48) : (jump s pc).inputs = s.inputs := rfl
@[simp] theorem jump_cycle (s : State) (pc : BitVec 48) : (jump s pc).cycle = s.cycle := rfl
@[simp] theorem jump_tick (s : State) (pc : BitVec 48) : (jump s pc).tick = s.tick := rfl
@[simp] theorem jump_agenda (s : State) (pc : BitVec 48) : (jump s pc).agenda = s.agenda := rfl
@[simp] theorem jump_cur (s : State) (pc : BitVec 48) : (jump s pc).cur = s.cur := rfl
@[simp] theorem jump_ir (s : State) (pc : BitVec 48) : (jump s pc).ir = s.ir := rfl

/-! ### parkStrand -/

@[simp] theorem parkStrand_hub (s : State) (k : Nat) (w : Park) : (parkStrand s k w).hub = s.hub := rfl
@[simp] theorem parkStrand_mem (s : State) (k : Nat) (w : Park) : (parkStrand s k w).mem = s.mem := rfl
@[simp] theorem parkStrand_empties (s : State) (k : Nat) (w : Park) : (parkStrand s k w).empties = s.empties := rfl
@[simp] theorem parkStrand_cores (s : State) (k : Nat) (w : Park) : (parkStrand s k w).cores = s.cores := rfl
@[simp] theorem parkStrand_clusters (s : State) (k : Nat) (w : Park) : (parkStrand s k w).clusters = s.clusters := rfl
@[simp] theorem parkStrand_futures (s : State) (k : Nat) (w : Park) : (parkStrand s k w).futures = s.futures := rfl
@[simp] theorem parkStrand_launches (s : State) (k : Nat) (w : Park) : (parkStrand s k w).launches = s.launches := rfl
@[simp] theorem parkStrand_saved (s : State) (k : Nat) (w : Park) : (parkStrand s k w).saved = s.saved := rfl
@[simp] theorem parkStrand_tasks (s : State) (k : Nat) (w : Park) : (parkStrand s k w).tasks = s.tasks := rfl
@[simp] theorem parkStrand_nextTask (s : State) (k : Nat) (w : Park) : (parkStrand s k w).nextTask = s.nextTask := rfl
@[simp] theorem parkStrand_jobs (s : State) (k : Nat) (w : Park) : (parkStrand s k w).jobs = s.jobs := rfl
@[simp] theorem parkStrand_nextJob (s : State) (k : Nat) (w : Park) : (parkStrand s k w).nextJob = s.nextJob := rfl
@[simp] theorem parkStrand_rsvs (s : State) (k : Nat) (w : Park) : (parkStrand s k w).rsvs = s.rsvs := rfl
@[simp] theorem parkStrand_deferred (s : State) (k : Nat) (w : Park) : (parkStrand s k w).deferred = s.deferred := rfl
@[simp] theorem parkStrand_packets (s : State) (k : Nat) (w : Park) : (parkStrand s k w).packets = s.packets := rfl
@[simp] theorem parkStrand_nextPacket (s : State) (k : Nat) (w : Park) : (parkStrand s k w).nextPacket = s.nextPacket := rfl
@[simp] theorem parkStrand_migrations (s : State) (k : Nat) (w : Park) : (parkStrand s k w).migrations = s.migrations := rfl
@[simp] theorem parkStrand_replicas (s : State) (k : Nat) (w : Park) : (parkStrand s k w).replicas = s.replicas := rfl
@[simp] theorem parkStrand_poison (s : State) (k : Nat) (w : Park) : (parkStrand s k w).poison = s.poison := rfl
@[simp] theorem parkStrand_sectors (s : State) (k : Nat) (w : Park) : (parkStrand s k w).sectors = s.sectors := rfl
@[simp] theorem parkStrand_shelf (s : State) (k : Nat) (w : Park) : (parkStrand s k w).shelf = s.shelf := rfl
@[simp] theorem parkStrand_tolBlocks (s : State) (k : Nat) (w : Park) : (parkStrand s k w).tolBlocks = s.tolBlocks := rfl
@[simp] theorem parkStrand_lq (s : State) (k : Nat) (w : Park) : (parkStrand s k w).lq = s.lq := rfl
@[simp] theorem parkStrand_lrHead (s : State) (k : Nat) (w : Park) : (parkStrand s k w).lrHead = s.lrHead := rfl
@[simp] theorem parkStrand_lrTail (s : State) (k : Nat) (w : Park) : (parkStrand s k w).lrTail = s.lrTail := rfl
@[simp] theorem parkStrand_reports (s : State) (k : Nat) (w : Park) : (parkStrand s k w).reports = s.reports := rfl
@[simp] theorem parkStrand_linkOut (s : State) (k : Nat) (w : Park) : (parkStrand s k w).linkOut = s.linkOut := rfl
@[simp] theorem parkStrand_breaks (s : State) (k : Nat) (w : Park) : (parkStrand s k w).breaks = s.breaks := rfl
@[simp] theorem parkStrand_kydb (s : State) (k : Nat) (w : Park) : (parkStrand s k w).kydb = s.kydb := rfl
@[simp] theorem parkStrand_breaksOn (s : State) (k : Nat) (w : Park) : (parkStrand s k w).breaksOn = s.breaksOn := rfl
@[simp] theorem parkStrand_told (s : State) (k : Nat) (w : Park) : (parkStrand s k w).told = s.told := rfl
@[simp] theorem parkStrand_hist (s : State) (k : Nat) (w : Park) : (parkStrand s k w).hist = s.hist := rfl
@[simp] theorem parkStrand_paired (s : State) (k : Nat) (w : Park) : (parkStrand s k w).paired = s.paired := rfl
@[simp] theorem parkStrand_readySeq (s : State) (k : Nat) (w : Park) : (parkStrand s k w).readySeq = s.readySeq := rfl
@[simp] theorem parkStrand_nextUid (s : State) (k : Nat) (w : Park) : (parkStrand s k w).nextUid = s.nextUid := rfl
@[simp] theorem parkStrand_inputs (s : State) (k : Nat) (w : Park) : (parkStrand s k w).inputs = s.inputs := rfl
@[simp] theorem parkStrand_cycle (s : State) (k : Nat) (w : Park) : (parkStrand s k w).cycle = s.cycle := rfl
@[simp] theorem parkStrand_tick (s : State) (k : Nat) (w : Park) : (parkStrand s k w).tick = s.tick := rfl
@[simp] theorem parkStrand_agenda (s : State) (k : Nat) (w : Park) : (parkStrand s k w).agenda = s.agenda := rfl
@[simp] theorem parkStrand_cur (s : State) (k : Nat) (w : Park) : (parkStrand s k w).cur = s.cur := rfl
@[simp] theorem parkStrand_ir (s : State) (k : Nat) (w : Park) : (parkStrand s k w).ir = s.ir := rfl

/-! ### report -/

@[simp] theorem report_hub (s : State) (l a b c : Nat) : (report s l a b c).hub = s.hub := rfl
@[simp] theorem report_mem (s : State) (l a b c : Nat) : (report s l a b c).mem = s.mem := rfl
@[simp] theorem report_empties (s : State) (l a b c : Nat) : (report s l a b c).empties = s.empties := rfl
@[simp] theorem report_cores (s : State) (l a b c : Nat) : (report s l a b c).cores = s.cores := rfl
@[simp] theorem report_strands (s : State) (l a b c : Nat) : (report s l a b c).strands = s.strands := rfl
@[simp] theorem report_clusters (s : State) (l a b c : Nat) : (report s l a b c).clusters = s.clusters := rfl
@[simp] theorem report_futures (s : State) (l a b c : Nat) : (report s l a b c).futures = s.futures := rfl
@[simp] theorem report_launches (s : State) (l a b c : Nat) : (report s l a b c).launches = s.launches := rfl
@[simp] theorem report_saved (s : State) (l a b c : Nat) : (report s l a b c).saved = s.saved := rfl
@[simp] theorem report_tasks (s : State) (l a b c : Nat) : (report s l a b c).tasks = s.tasks := rfl
@[simp] theorem report_nextTask (s : State) (l a b c : Nat) : (report s l a b c).nextTask = s.nextTask := rfl
@[simp] theorem report_jobs (s : State) (l a b c : Nat) : (report s l a b c).jobs = s.jobs := rfl
@[simp] theorem report_nextJob (s : State) (l a b c : Nat) : (report s l a b c).nextJob = s.nextJob := rfl
@[simp] theorem report_rsvs (s : State) (l a b c : Nat) : (report s l a b c).rsvs = s.rsvs := rfl
@[simp] theorem report_deferred (s : State) (l a b c : Nat) : (report s l a b c).deferred = s.deferred := rfl
@[simp] theorem report_packets (s : State) (l a b c : Nat) : (report s l a b c).packets = s.packets := rfl
@[simp] theorem report_nextPacket (s : State) (l a b c : Nat) : (report s l a b c).nextPacket = s.nextPacket := rfl
@[simp] theorem report_migrations (s : State) (l a b c : Nat) : (report s l a b c).migrations = s.migrations := rfl
@[simp] theorem report_replicas (s : State) (l a b c : Nat) : (report s l a b c).replicas = s.replicas := rfl
@[simp] theorem report_poison (s : State) (l a b c : Nat) : (report s l a b c).poison = s.poison := rfl
@[simp] theorem report_sectors (s : State) (l a b c : Nat) : (report s l a b c).sectors = s.sectors := rfl
@[simp] theorem report_shelf (s : State) (l a b c : Nat) : (report s l a b c).shelf = s.shelf := rfl
@[simp] theorem report_tolBlocks (s : State) (l a b c : Nat) : (report s l a b c).tolBlocks = s.tolBlocks := rfl
@[simp] theorem report_lq (s : State) (l a b c : Nat) : (report s l a b c).lq = s.lq := rfl
@[simp] theorem report_lrHead (s : State) (l a b c : Nat) : (report s l a b c).lrHead = s.lrHead := rfl
@[simp] theorem report_lrTail (s : State) (l a b c : Nat) : (report s l a b c).lrTail = s.lrTail := rfl
@[simp] theorem report_linkOut (s : State) (l a b c : Nat) : (report s l a b c).linkOut = s.linkOut := rfl
@[simp] theorem report_breaks (s : State) (l a b c : Nat) : (report s l a b c).breaks = s.breaks := rfl
@[simp] theorem report_kydb (s : State) (l a b c : Nat) : (report s l a b c).kydb = s.kydb := rfl
@[simp] theorem report_breaksOn (s : State) (l a b c : Nat) : (report s l a b c).breaksOn = s.breaksOn := rfl
@[simp] theorem report_told (s : State) (l a b c : Nat) : (report s l a b c).told = s.told := rfl
@[simp] theorem report_hist (s : State) (l a b c : Nat) : (report s l a b c).hist = s.hist := rfl
@[simp] theorem report_paired (s : State) (l a b c : Nat) : (report s l a b c).paired = s.paired := rfl
@[simp] theorem report_readySeq (s : State) (l a b c : Nat) : (report s l a b c).readySeq = s.readySeq := rfl
@[simp] theorem report_nextUid (s : State) (l a b c : Nat) : (report s l a b c).nextUid = s.nextUid := rfl
@[simp] theorem report_inputs (s : State) (l a b c : Nat) : (report s l a b c).inputs = s.inputs := rfl
@[simp] theorem report_cycle (s : State) (l a b c : Nat) : (report s l a b c).cycle = s.cycle := rfl
@[simp] theorem report_tick (s : State) (l a b c : Nat) : (report s l a b c).tick = s.tick := rfl
@[simp] theorem report_agenda (s : State) (l a b c : Nat) : (report s l a b c).agenda = s.agenda := rfl
@[simp] theorem report_cur (s : State) (l a b c : Nat) : (report s l a b c).cur = s.cur := rfl
@[simp] theorem report_ir (s : State) (l a b c : Nat) : (report s l a b c).ir = s.ir := rfl

/-! ### What an update puts -/

@[simp] theorem keepHub_hub (s t : State) : (keepHub s t).hub = s.hub := rfl

@[simp] theorem addEvent_agenda (s : State) (e : Instr) : (addEvent s e).agenda = s.agenda ++ [e] := rfl

@[simp] theorem setStrand_strands (s : State) (k : Nat) (x : Strand) :
    (setStrand s k x).strands = tset s.strands k x := rfl

@[simp] theorem setCore_cores (s : State) (p : Nat) (x : Core) : (setCore s p x).cores = tset s.cores p x := rfl

@[simp] theorem setFut_futures (s : State) (i : Nat) (f : Future) : (setFut s i f).futures = tset s.futures i f := rfl

@[simp] theorem strandAt_setStrand_self (s : State) (k : Nat) (x : Strand) : strandAt (setStrand s k x) k = x := by
  simp [strandAt]

theorem strandAt_setStrand_ne (s : State) {j k : Nat} (x : Strand) (h : j ≠ k) :
    strandAt (setStrand s k x) j = strandAt s j := by
  simp [strandAt, tgetD_tset_ne _ _ _ h]

@[simp] theorem coreAt_setCore_self (s : State) (p : Nat) (x : Core) : coreAt (setCore s p x) p = x := by
  simp [coreAt]

theorem coreAt_setCore_ne (s : State) {q p : Nat} (x : Core) (h : q ≠ p) : coreAt (setCore s p x) q = coreAt s q := by
  simp [coreAt, tgetD_tset_ne _ _ _ h]

@[simp] theorem coreAt_modCore_self (s : State) (p : Nat) (f : Core → Core) :
    coreAt (modCore s p f) p = f (coreAt s p) := by simp [modCore]

@[simp] theorem futAt_setFut_self (s : State) (i : Nat) (f : Future) : futAt (setFut s i f) i = f := by simp [futAt]

@[simp] theorem curStrand_setCur (s : State) (f : Strand → Strand) : curStrand (setCur s f) = f (curStrand s) := by
  simp [curStrand, setCur]

@[simp] theorem strandAt_addEvent (s : State) (e : Instr) (k : Nat) : strandAt (addEvent s e) k = strandAt s k := rfl

@[simp] theorem coreAt_addEvent (s : State) (e : Instr) (p : Nat) : coreAt (addEvent s e) p = coreAt s p := rfl

@[simp] theorem coreAt_setStrand (s : State) (k p : Nat) (x : Strand) : coreAt (setStrand s k x) p = coreAt s p := rfl

@[simp] theorem coreAt_setCur (s : State) (f : Strand → Strand) (p : Nat) : coreAt (setCur s f) p = coreAt s p := rfl

@[simp] theorem curP_setCur (s : State) (f : Strand → Strand) : curP (setCur s f) = curP s := rfl

@[simp] theorem strandAt_setCore (s : State) (p k : Nat) (x : Core) : strandAt (setCore s p x) k = strandAt s k := rfl

/-! ### The hub survives every operation on strands and memory -/

@[simp] theorem wake_hub (s : State) (k : Nat) : (wake s k).hub = s.hub := by
  unfold wake; split
  · split <;> rfl
  · rfl

@[simp] theorem wakeWhere_hub (s : State) (f : Nat → Strand → Park → Bool) : (wakeWhere s f).hub = s.hub := by
  unfold wakeWhere
  generalize s.strands = l
  suffices h : ∀ (l : Table Strand) (a : State), (l.foldl (fun acc e =>
      match e.2.run with
      | .parked c => if f e.1 e.2 c then wake acc e.1 else acc
      | _ => acc) a).hub = a.hub from h l s
  intro l
  induction l with
  | nil => intro a; rfl
  | cons e r ih =>
    intro a
    simp only [List.foldl_cons]
    rw [ih]
    split
    · split
      · exact wake_hub a e.1
      · rfl
    · rfl

@[simp] theorem fireMonitors_hub (s : State) (w : Option Nat) (lo hi : Nat) : (fireMonitors s w lo hi).hub = s.hub := by
  have key : ∀ (l : List (Nat × Nat × Nat)) (a : State), (l.foldl (fun acc h =>
      let t := strandAt acc h.2.1
      let ms := t.mons.zipIdx.map fun m => if m.2 = h.2.2 then { m.1 with fired := true } else m.1
      addEvent (setStrand acc h.2.1 { t with mons := ms }) (.monitorNotice h.2.1 h.2.2)) a).hub = a.hub := by
    intro l
    induction l with
    | nil => intro a; rfl
    | cons e r ih => intro a; simp only [List.foldl_cons]; rw [ih]; rfl
  unfold fireMonitors
  refine (key _ _).trans ?_
  by_cases h : s.saved.isEmpty <;> simp [h, fireSaved]

@[simp] theorem wakeEntries_hub (s : State) (pa n : Nat) : (wakeEntries s pa n).hub = s.hub := by
  have key : ∀ (l : Table Core) (a : State), (l.foldl (fun acc e => match e.2.vx.stalled with
      | some x => if pa ≤ x && x < pa + n then addEvent acc (.vtkvEntryWake e.1) else acc
      | none => acc) a).hub = a.hub := by
    intro l
    induction l with
    | nil => intro a; rfl
    | cons e r ih =>
      intro a
      simp only [List.foldl_cons]
      rw [ih]
      split
      · split <;> rfl
      · rfl
  unfold wakeEntries
  exact (key _ _).trans (wakeWhere_hub _ _)

@[simp] theorem storePhys_hub (s : State) (w : Option Nat) (pa n v : Nat) : (storePhys s w pa n v).hub = s.hub := by
  unfold storePhys
  by_cases h : n = 0 <;> simp [h]

end Sys2Proof.Machine
end

