-- ==== Sys2Proof/Tests/Slice0.lean ====
section
/-!
SUPPORT. Tests: words of each family, ill-formed terms, one-step results worked out by hand from the spec, and for every
statement a state and operands that meet its hypotheses.
-/

set_option Elab.async false

namespace Sys2Proof.Tests

open Sys2Proof Sys2Proof.Machine Sys2Proof.Claims

/-! ### A small machine: launch 1 on core 0, its control strand about to issue -/

/-- A map entry: kind, type, width, mode (R24). -/
def ent (kind ty width mode : Nat) : BitVec 32 :=
  BitVec.ofNat 32 (width - 1 + kind * 2 ^ 6 + ty * 2 ^ 9 + mode * 2 ^ 12)

/-- Names: 1, 2 unsigned 64; 3 signed 8 saturating; 4 signed 64; 5, 6, 7 fp32; 8, 9 lane signed 16; 10 the link of a
roam map. -/
def names : List (BitVec 32) :=
  [ent 0 0 64 0, ent 0 0 64 0, ent 0 1 8 1, ent 0 1 64 0, ent 0 3 32 0, ent 0 3 32 0, ent 0 3 32 0, ent 1 1 16 0,
   ent 1 1 16 0, ent 6 0 48 0]

/-- The strand that issues. -/
def str : Strand :=
  { Strand.blank with
      pc := 0x4000_0000, lid := 1, map := ⟨0, names⟩, tvec := 0x4000_1000, usize := 448, lsize := 64 }

/-- Core 0 with values in names: name, lane, value. -/
def core (vals : List (NameIx × Nat × Nat)) : Core :=
  vals.foldl (fun c v => ((nameInfo str.map v.1).map fun i => rowWrite c str i v.2.1 v.2.2).getD c)
    { Core.reset with lid := 1 }

/-- The machine with values in names and a change to the strand. -/
def mach (vals : List (NameIx × Nat × Nat)) (f : Strand → Strand := id) : State :=
  { State.reset with strands := [(0, f str)], cores := [(0, core vals)], launches := [(1, probeLaunch)] }

/-- No guard. -/
def g0 : Guard := ⟨false, 0⟩

/-- What an outcome leaves in a name of the strand, in a lane. -/
def outName (o : Out) (n : NameIx) (l : Nat := 0) : Option Nat :=
  match o with
  | .next s => (nameInfo (curStrand s).map n).map fun i => rowRead (coreAt s (curP s)) (curStrand s) i l
  | _ => none

/-- Something of the next state. -/
def out {α : Type} (o : Out) (f : State → α) : Option α :=
  match o with
  | .next s => some (f s)
  | _ => none

/-- The PC, the sticky flags, the cause. -/
def outPc (o : Out) : Option (BitVec 48) := out o fun s => (curStrand s).pc
def outFlags (o : Out) : Option Nat := out o fun s => fieldN (curStrand s).pword.toNat 8 8
def outCause (o : Out) : Option (Nat × Nat) := out o fun s => ((curStrand s).ecause.toNat, (curStrand s).eval.toNat)

/-! ### Naming what a computation answers -/

/-- The computation answers a value. -/
def isOk {ε α : Type} : Except ε α → Bool
  | .ok _ => true
  | .error _ => false

/-- That value. -/
def okV {ε α : Type} : (r : Except ε α) → isOk r = true → α
  | .ok a, _ => a
  | .error _, h => nomatch h

theorem ok_of {ε α : Type} {r : Except ε α} (h : isOk r = true) : r = .ok (okV r h) := by
  cases r with
  | ok a => rfl
  | error e => cases h

/-- A computation that answers none ends early. -/
theorem error_of {ε α : Type} {r : Except ε α} (h : isOk r = false) : ∃ e, r = .error e := by
  cases r with
  | ok a => cases h
  | error e => exact ⟨e, rfl⟩

theorem ok_pair {ε α β : Type} {r : Except ε (α × β)} (h : isOk r = true) : r = .ok ((okV r h).1, (okV r h).2) := ok_of h

theorem ok_unit {ε : Type} {r : Except ε Unit} (h : isOk r = true) : r = .ok () := ok_of h

theorem ok_snd {ε α β : Type} {r : Except ε (α × β)} {b : β} (h : isOk r = true) (hb : (okV r h).2 = b) :
    r = .ok ((okV r h).1, b) := by rw [← hb]; exact ok_of h

/-- Sources are equal that read the same of the same names. -/
theorem srcs_eq {a b : List Src} (h : a.map (fun x => (x.info, x.vals)) = b.map fun x => (x.info, x.vals)) : a = b := by
  refine List.map_injective_iff.mpr ?_ h
  rintro ⟨i, v⟩ ⟨j, w⟩ e
  simpa using e

/-- Outside a replay every event may happen. -/
theorem gate_of {s : State} {op place : Nat} (h : rrMode s (curStrand s).lid ≠ 2) : rrGate s op place = .ok s := by
  simp [rrGate, rrAllow, h]

theorem ok_triple {ε α β γ : Type} {r : Except ε (α × β × γ)} (h : isOk r = true) :
    r = .ok ((okV r h).1, (okV r h).2.1, (okV r h).2.2) := ok_of h

/-- What the computation answers, read off. -/
theorem ok_is {ε α : Type} {r : Except ε α} {a : α} (h : r.toOption = some a) : r = .ok a := by
  cases r with
  | ok b => exact congrArg Except.ok (Option.some.inj h)
  | error e => cases h

/-! ### Integer and floating-point arithmetic -/

-- R87: 100 + 100 in a signed 8-bit saturating name: 127 with f1
theorem test_add_saturates : outName (exec (.add g0 3 1 2 0) (mach [(1, 0, 100), (2, 0, 100)])) 3 = some 127 ∧
    outFlags (exec (.add g0 3 1 2 0) (mach [(1, 0, 100), (2, 0, 100)])) = some 2 := by decide +kernel
-- R84, R276: the same with the trap override: WIDTH with the exact sum
theorem test_add_traps : outCause (exec (.add g0 3 1 2 3) (mach [(1, 0, 100), (2, 0, 100)])) = some (2, 200) := by decide +kernel
-- 5 - 7 wraps in 64 bits, and the PC goes on by 4
theorem test_sub_wraps : outName (exec (.sub g0 1 1 2 0) (mach [(1, 0, 5), (2, 0, 7)])) 1 = some 0xFFFF_FFFF_FFFF_FFFE ∧
    outPc (exec (.sub g0 1 1 2 0) (mach [(1, 0, 5), (2, 0, 7)])) = some 0x4000_0004 := by decide +kernel
theorem test_mul : outName (exec (.mul g0 3 1 2 1) (mach [(1, 0, 20), (2, 0, 13)])) 3 = some 4 := by decide +kernel
theorem test_mulh : outName (exec (.mulh g0 1 1 2 0) (mach [(1, 0, 2 ^ 63), (2, 0, 6)])) 1 = some 3 := by decide +kernel
theorem test_and : outName (exec (.and g0 1 1 3 0) (mach [(1, 0, 0xF0F0), (3, 0, 0xFC)])) 1 = some 0xF0F0 := by decide +kernel
theorem test_or : outName (exec (.or g0 1 1 2 0) (mach [(1, 0, 5), (2, 0, 2)])) 1 = some 7 := by decide +kernel
theorem test_xor : outName (exec (.xor g0 1 1 2 0) (mach [(1, 0, 5), (2, 0, 3)])) 1 = some 6 := by decide +kernel
theorem test_andn : outName (exec (.andn g0 1 1 2 0) (mach [(1, 0, 7), (2, 0, 2)])) 1 = some 5 := by decide +kernel
-- a count of 65 is 1
theorem test_shl : outName (exec (.shl g0 1 1 2 0) (mach [(1, 0, 3), (2, 0, 65)])) 1 = some 6 := by decide +kernel
theorem test_shr : outName (exec (.shr g0 1 3 2 0) (mach [(3, 0, 0x80), (2, 0, 4)])) 1 = some 8 := by decide +kernel
theorem test_sha : outName (exec (.sha g0 3 3 2 0) (mach [(3, 0, 0x80), (2, 0, 4)])) 3 = some 0xF8 := by decide +kernel
theorem test_rot : outName (exec (.rot g0 3 3 2 0) (mach [(3, 0, 0x81), (2, 0, 4)])) 3 = some 0x18 := by decide +kernel
theorem test_min : outName (exec (.min g0 3 3 2 0) (mach [(3, 0, 0xFF), (2, 0, 4)])) 3 = some 0xFF := by decide +kernel
theorem test_max : outName (exec (.max g0 3 3 2 0) (mach [(3, 0, 0xFF), (2, 0, 4)])) 3 = some 4 := by decide +kernel
theorem test_absd : outName (exec (.absd g0 1 3 2 0) (mach [(3, 0, 0xFF), (2, 0, 4)])) 1 = some 5 := by decide +kernel
-- -7 / 2 is -3, and the remainder -1
theorem test_div : outName (exec (.div g0 3 3 2 0) (mach [(3, 0, 0xF9), (2, 0, 2)])) 3 = some 0xFD := by decide +kernel
theorem test_rem : outName (exec (.rem g0 3 3 2 0) (mach [(3, 0, 0xF9), (2, 0, 2)])) 3 = some 0xFF := by decide +kernel
theorem test_div_zero : outCause (exec (.div g0 3 3 2 0) (mach [(3, 0, 0xF9)])) = some (4, 2 ^ 64 - 7) := by decide +kernel
theorem test_mac : outName (exec (.mac g0 1 1 2 0) (mach [(1, 0, 5), (2, 0, 7)])) 1 = some 40 := by decide +kernel
theorem test_addi : outName (exec (.addi g0 1 1 ⟨none, 0x1FF⟩) (mach [(1, 0, 5)])) 1 = some 4 := by decide +kernel
theorem test_muli : outName (exec (.muli g0 1 1 ⟨none, 3⟩) (mach [(1, 0, 5)])) 1 = some 15 := by decide +kernel
theorem test_andi : outName (exec (.andi g0 1 1 ⟨none, 0x1FC⟩) (mach [(1, 0, 0xFFFF)])) 1 = some 0x1FC := by decide +kernel
theorem test_ori : outName (exec (.ori g0 1 1 ⟨none, 2⟩) (mach [(1, 0, 5)])) 1 = some 7 := by decide +kernel
theorem test_xori : outName (exec (.xori g0 1 1 ⟨none, 3⟩) (mach [(1, 0, 5)])) 1 = some 6 := by decide +kernel
theorem test_shli : outName (exec (.shli g0 1 1 ⟨none, 4⟩) (mach [(1, 0, 5)])) 1 = some 80 := by decide +kernel
theorem test_shri : outName (exec (.shri g0 1 1 ⟨none, 1⟩) (mach [(1, 0, 5)])) 1 = some 2 := by decide +kernel
theorem test_shai : outName (exec (.shai g0 3 3 ⟨none, 1⟩) (mach [(3, 0, 0xF9)])) 3 = some 0xFC := by decide +kernel
theorem test_roti : outName (exec (.roti g0 3 3 ⟨none, 1⟩) (mach [(3, 0, 0x81)])) 3 = some 3 := by decide +kernel
theorem test_roti_count : outCause (exec (.roti g0 3 3 ⟨none, 64⟩) (mach [])) = some (1, 0) := by decide +kernel
theorem test_mini : outName (exec (.mini g0 1 1 ⟨none, 3⟩) (mach [(1, 0, 5)])) 1 = some 3 := by decide +kernel
theorem test_maxi : outName (exec (.maxi g0 3 3 ⟨none, 0x1FF⟩) (mach [(3, 0, 0x80)])) 3 = some 0xFF := by decide +kernel
theorem test_li : outName (exec (.li g0 4 ⟨none, 0x7FFF⟩) (mach [])) 4 = some (2 ^ 64 - 1) := by decide +kernel
theorem test_lih : outName (exec (.lih g0 1 ⟨none, 2⟩) (mach [(1, 0, 5)])) 1 = some (2 ^ 41 + 5) := by decide +kernel
theorem test_sel : outName (exec (.sel g0 1 1 2 3) (mach [(1, 0, 5), (2, 0, 6)])) 1 = some 6 := by decide +kernel
theorem test_mov : outName (exec (.mov g0 3 1 2) (mach [(1, 0, 300)])) 3 = some 127 := by decide +kernel
theorem test_ext : outName (exec (.ext g0 3 1 4) (mach [(1, 0, 0xABC0)])) 3 = some 0xBC := by decide +kernel
theorem test_ins : outName (exec (.ins g0 1 3 8) (mach [(1, 0, 0x1_1111), (3, 0, 0xAB)])) 1 = some 0x1_AB11 := by decide +kernel
-- 1.5 + 2.25 = 3.75; 1.5 - 2.25 = -0.75; 1.5 * 2.25 = 3.375
theorem test_fadd : outName (exec (.fadd g0 7 5 6 0) (mach [(5, 0, 0x3FC0_0000), (6, 0, 0x4010_0000)])) 7 = some 0x4070_0000 := by decide +kernel
theorem test_fsub : outName (exec (.fsub g0 7 5 6 0) (mach [(5, 0, 0x3FC0_0000), (6, 0, 0x4010_0000)])) 7 = some 0xBF40_0000 := by decide +kernel
theorem test_fmul : outName (exec (.fmul g0 7 5 6 0) (mach [(5, 0, 0x3FC0_0000), (6, 0, 0x4010_0000)])) 7 = some 0x4058_0000 := by decide +kernel
theorem test_ffma : outName (exec (.ffma g0 7 5 6 0) (mach [(5, 0, 0x3FC0_0000), (6, 0, 0x4010_0000), (7, 0, 0x3F80_0000)])) 7 = some 0x408C_0000 := by decide +kernel
theorem test_fmin : outName (exec (.fmin g0 7 5 6) (mach [(5, 0, 0x8000_0000), (6, 0, 0)])) 7 = some 0x8000_0000 := by decide +kernel
theorem test_fmax : outName (exec (.fmax g0 7 5 6) (mach [(5, 0, 0x3FC0_0000), (6, 0, 0x4010_0000)])) 7 = some 0x4010_0000 := by decide +kernel
theorem test_fcvt : outName (exec (.fcvt g0 3 5 0) (mach [(5, 0, 0x4020_0000)])) 3 = some 2 := by decide +kernel
theorem test_fcmp : out (exec (.fcmp g0 2 5 6 2) (mach [(5, 0, 0x3FC0_0000), (6, 0, 0x4010_0000)])) (fun s => predP (curStrand s) 2) = some true := by decide +kernel
theorem test_cmp : out (exec (.cmp g0 2 3 1 2) (mach [(3, 0, 0xFF), (1, 0, 1)])) (fun s => predP (curStrand s) 2) = some true := by decide +kernel
theorem test_cmpi : out (exec (.cmpi g0 2 3 3 ⟨none, 0x1FF⟩) (mach [(3, 0, 0xFF)])) (fun s => predP (curStrand s) 3) = some false := by decide +kernel

/-! ### Lane transfer, predicates, widths and branches -/

/-- The strand's q1 set in lanes 0, 1 and 3. -/
def inThree (t : Strand) : Strand := [0, 1, 3].foldl (fun t l => setQ t l 1 true) t

/-- v = 3, -1, 4, 1 in lanes 0 to 3 (R118's example). -/
def lanesV : List (NameIx × Nat × Nat) := [(8, 0, 3), (8, 1, 0xFFFF), (8, 2, 4), (8, 3, 1)]

theorem test_vscan_example : outName (exec (.vscan ⟨false, 1⟩ 8 8 1 0) (mach lanesV inThree)) 8 3 = some 3 ∧
    outName (exec (.vscan ⟨false, 1⟩ 8 8 1 0) (mach lanesV inThree)) 8 2 = some 4 := by decide +kernel
theorem test_vscan_total : outName (exec (.vscan ⟨false, 1⟩ 8 8 1 0) (mach lanesV inThree)) 1 = some 3 := by decide +kernel
theorem test_vred_add : outName (exec (.vred ⟨false, 1⟩ 4 8 0) (mach lanesV inThree)) 4 = some 3 := by decide +kernel
-- R114: min over no lane is the largest value of the destination
theorem test_vred_empty : outName (exec (.vred ⟨false, 2⟩ 3 8 4) (mach lanesV inThree)) 3 = some 127 := by decide +kernel
theorem test_vfirst : outName (exec (.vfirst ⟨false, 1⟩ 4 8 2) (mach lanesV inThree)) 4 = some 3 ∧
    out (exec (.vfirst ⟨false, 1⟩ 4 8 2) (mach lanesV inThree)) (fun s => predP (curStrand s) 2) = some true := by decide +kernel
theorem test_vlane : outName (exec (.vlane ⟨false, 1⟩ 4 8 1 2) (mach ((1, 0, 1) :: lanesV) inThree)) 4 = some (2 ^ 64 - 1) := by decide +kernel
theorem test_vlane_disabled : out (exec (.vlane ⟨false, 1⟩ 4 8 1 2) (mach ((1, 0, 2) :: lanesV) inThree))
    (fun s => predP (curStrand s) 2) = some false := by decide +kernel
theorem test_vpredAny : out (exec (.vpredAny ⟨false, 0⟩ 3 1) (mach [] inThree)) (fun s => predP (curStrand s) 3) = some true := by decide +kernel
theorem test_vpredAll : out (exec (.vpredAll ⟨false, 0⟩ 3 1) (mach [] inThree)) (fun s => predP (curStrand s) 3) = some false := by decide +kernel
theorem test_vpredCount : outName (exec (.vpredCount ⟨false, 0⟩ 1 1) (mach [] inThree)) 1 = some 3 := by decide +kernel
theorem test_vidx : outName (exec (.vidx ⟨false, 1⟩ 8 0) (mach lanesV inThree)) 8 3 = some 3 ∧
    outName (exec (.vidx ⟨false, 1⟩ 8 0) (mach lanesV inThree)) 8 2 = some 4 := by decide +kernel
theorem test_vshuf : outName (exec (.vshuf ⟨false, 1⟩ 8 8 1 0) (mach ((1, 0, 18) :: lanesV) inThree)) 8 3 = some 4 := by decide +kernel
theorem test_plog : out (exec (.plog g0 2 0 8 0) (mach [])) (fun s => (curStrand s).pword) = some 1 := by decide +kernel
theorem test_plogMov : out (exec (.plogMov g0 2 0) (mach [])) (fun s => (curStrand s).pword) = some 5 := by decide +kernel
theorem test_pmovR : outName (exec (.pmovR g0 1) (mach [] fun t => { t with pword := 0x8103 })) 1 = some 0x8103 := by decide +kernel
theorem test_pmovW : out (exec (.pmovW g0 1 1) (mach [(1, 0, 0xFFF0)])) (fun s => (curStrand s).pword) = some 0xF1 := by decide +kernel
theorem test_pmovFc : out (exec (.pmovFc g0 3) (mach [] fun t => { t with pword := 0xFF01 })) (fun s => (curStrand s).pword) = some 0xFC01 := by decide +kernel
theorem test_br_back : outPc (exec (.br g0 ⟨none, 0x1F_FFFD⟩) (mach [])) = some 0x3FFF_FFF4 := by decide +kernel
theorem test_br_guarded : outPc (exec (.br ⟨false, 3⟩ ⟨none, 0x1F_FFFD⟩) (mach [])) = some 0x4000_0004 := by decide +kernel

/-- The strand with a roam map, whose last name is the link. -/
def roam (t : Strand) : Strand := { t with map := ⟨2 ^ 33, names⟩ }

theorem test_call : outName (exec (.call g0 ⟨none, 16⟩) (mach [] roam)) 10 = some 0x4000_0004 ∧
    outPc (exec (.call g0 ⟨none, 16⟩) (mach [] roam)) = some 0x4000_0040 := by decide +kernel
theorem test_jr : outPc (exec (.jr g0 1) (mach [(1, 0, 0x5000)])) = some 0x5000 := by decide +kernel
theorem test_jr_align : outCause (exec (.jr g0 1) (mach [(1, 0, 0x5002)])) = some (5, 0x5002) := by decide +kernel
-- R120: callr lr jumps to the old link
theorem test_callr : outPc (exec (.callr g0 10) (mach [(10, 0, 0x5000)] roam)) = some 0x5000 ∧
    outName (exec (.callr g0 10) (mach [(10, 0, 0x5000)] roam)) 10 = some 0x4000_0004 := by decide +kernel
theorem test_loop_again : outPc (exec (.loop g0 1 ⟨none, 3⟩) (mach [(1, 0, 2)])) = some 0x3FFF_FFF4 := by decide +kernel
theorem test_loop_ends : outPc (exec (.loop g0 1 ⟨none, 3⟩) (mach [(1, 0, 1)])) = some 0x4000_0004 := by decide +kernel
theorem test_brany : outPc (exec (.brany ⟨false, 1⟩ ⟨none, 5⟩) (mach [] inThree)) = some 0x4000_0014 := by decide +kernel
theorem test_brall : outPc (exec (.brall ⟨false, 1⟩ ⟨none, 8⟩) (mach [] inThree)) = some 0x4000_0004 := by decide +kernel
theorem test_ipf : outPc (exec (.ipf g0 ⟨none, 64⟩) (mach [])) = some 0x4000_0004 := by decide +kernel
theorem test_widq : outName (exec (.widq g0 1 0 3) (mach [])) 1 = some 8 := by decide +kernel

/-! ### Loads, stores, full/empty words, atomics: local store of core 0, at 0x100 -/

/-- The machine with 8 bytes at 0x100 of the local store; name 1 holds 0x100. -/
def machM (v : Nat) (vals : List (NameIx × Nat × Nat)) (f : Strand → Strand := id) : State :=
  { mach ((1, 0, 0x100) :: vals) f with mem := memWrite [] (lsBase 0 + 0x100) 8 v }

/-- The 8 bytes at 0x100 afterwards. -/
def outMem (o : Out) : Option Nat := out o fun s => loadPhys s (lsBase 0 + 0x100) 8

theorem test_ldb : outName (exec (.ldb g0 2 1 ⟨none, 1⟩) (machM 0x1122334455667788 [])) 2 = some 0x77 := by decide +kernel
theorem test_ldh : outName (exec (.ldh g0 2 1 ⟨none, 1⟩) (machM 0x1122334455667788 [])) 2 = some 0x5566 := by decide +kernel
theorem test_ldw : outName (exec (.ldw g0 2 1 ⟨none, 1⟩) (machM 0x1122334455667788 [])) 2 = some 0x11223344 := by decide +kernel
-- R164: eight bytes with the top bit set saturate in a signed 8-bit name
theorem test_ldd : outName (exec (.ldd g0 2 1 ⟨none, 0⟩) (machM 0x1122334455667788 [])) 2 = some 0x1122334455667788 ∧
    outPc (exec (.ldd g0 2 1 ⟨none, 0⟩) (machM 0x1122334455667788 [])) = some 0x4000_0004 := by decide +kernel
theorem test_ldd_align : outCause (exec (.ldd g0 2 1 ⟨none, 0⟩) (mach [(1, 0, 0x104)])) = some (5, 0x104) := by decide +kernel
theorem test_ldx : outName (exec (.ldx g0 2 1 4 1) (machM 0x1122334455667788 [(4, 0, 2)])) 2 = some 0x3344 := by decide +kernel
theorem test_ldg : outName (exec (.ldg ⟨false, 1⟩ 8 1 9 1) (machM 0x1122334455667788 [(9, 1, 3)] inThree)) 8 1 = some 0x1122 := by decide +kernel
theorem test_ldo : outName (exec (.ldo g0 2 1 0 0 2) (machM 0x1122334455667788 [])) 2 = some 0x55667788 := by decide +kernel
theorem test_stb : outMem (exec (.stb g0 2 1 ⟨none, 1⟩) (machM 0x1122334455667788 [(2, 0, 0xAB)])) = some 0x112233445566AB88 := by decide +kernel
theorem test_sth : outMem (exec (.sth g0 2 1 ⟨none, 1⟩) (machM 0x1122334455667788 [(2, 0, 0xAB)])) = some 0x1122334400AB7788 := by decide +kernel
theorem test_stw : outMem (exec (.stw g0 2 1 ⟨none, 1⟩) (machM 0x1122334455667788 [(2, 0, 0xAB)])) = some 0x000000AB55667788 := by decide +kernel
theorem test_std : outMem (exec (.std g0 2 1 ⟨none, 0⟩) (machM 5 [(2, 0, 2 ^ 64 - 2)])) = some (2 ^ 64 - 2) := by decide +kernel
theorem test_stx : outMem (exec (.stx g0 2 1 4 1) (machM 0x1122334455667788 [(2, 0, 0xAB), (4, 0, 2)])) = some 0x112200AB55667788 := by decide +kernel
theorem test_sts : outMem (exec (.sts ⟨false, 1⟩ 8 1 9 1) (machM 0x1122334455667788 ((9, 1, 3) :: (9, 3, 1) :: lanesV) inThree)) =
    some 0xFFFF334400010003 := by decide +kernel
theorem test_sto : outMem (exec (.sto g0 2 1 4 1 3) (machM 5 [(2, 0, 9)])) = some 9 := by decide +kernel
theorem test_pref : outPc (exec (.pref g0 1 ⟨none, 0⟩) (machM 5 [])) = some 0x4000_0004 := by decide +kernel
theorem test_ldt : outName (exec (.ldt g0 2 1 ⟨none, 0⟩) (machM 77 [])) 2 = some 77 ∧
    out (exec (.ldt g0 2 1 ⟨none, 0⟩) (machM 77 [])) (fun s => wordFull s (lsBase 0 + 0x100)) = some false := by decide +kernel
theorem test_put : outMem (exec (.put g0 2 1 ⟨none, 0⟩) (emptyWord (machM 5 [(2, 0, 9)]) (lsBase 0 + 0x100))) = some 9 ∧
    out (exec (.put g0 2 1 ⟨none, 0⟩) (emptyWord (machM 5 [(2, 0, 9)]) (lsBase 0 + 0x100)))
      (fun s => wordFull s (lsBase 0 + 0x100)) = some true := by decide +kernel
theorem test_feset : out (exec (.feset g0 0 1 ⟨none, 0⟩) (machM 77 [])) (fun s => wordFull s (lsBase 0 + 0x100)) = some false := by decide +kernel
theorem test_fetest : out (exec (.fetest g0 2 1 ⟨none, 0⟩) (machM 77 [])) (fun s => predP (curStrand s) 2) = some true := by decide +kernel
theorem test_faa : outMem (exec (.faa g0 2 1 4) (machM 5 [(4, 0, 2 ^ 64 - 7)])) = some (2 ^ 64 - 2) ∧
    outName (exec (.faa g0 2 1 4) (machM 5 [(4, 0, 2 ^ 64 - 7)])) 2 = some 5 := by decide +kernel
theorem test_swp : outMem (exec (.swp g0 2 1 4) (machM 5 [(4, 0, 8)])) = some 8 ∧
    outName (exec (.swp g0 2 1 4) (machM 5 [(4, 0, 8)])) 2 = some 5 := by decide +kernel
theorem test_cas_equal : outMem (exec (.cas g0 2 1 4) (machM 5 [(4, 0, 8), (2, 0, 5)])) = some 8 := by decide +kernel
theorem test_cas_differs : outMem (exec (.cas g0 2 1 4) (machM 5 [(4, 0, 8), (2, 0, 6)])) = some 5 ∧
    outName (exec (.cas g0 2 1 4) (machM 5 [(4, 0, 8), (2, 0, 6)])) 2 = some 5 := by decide +kernel
theorem test_rsv : outName (exec (.rsv g0 2 1 ⟨none, 0⟩) (machM 5 [])) 2 = some 5 ∧
    out (exec (.rsv g0 2 1 ⟨none, 0⟩) (machM 5 [])) (fun s => (curStrand s).holds) =
      some (some (lsBase 0 + 0x100, 0x100, 0)) := by decide +kernel
theorem test_rel : outMem (exec (.rel g0 2 1 ⟨none, 0⟩) (machM 5 [(2, 0, 9)] fun t =>
      { t with holds := some (lsBase 0 + 0x100, 0x100, 0) })) = some 9 ∧
    out (exec (.rel g0 2 1 ⟨none, 0⟩) (machM 5 [(2, 0, 9)] fun t =>
      { t with holds := some (lsBase 0 + 0x100, 0x100, 0) })) (fun s => (curStrand s).holds) = some none := by decide +kernel

/-! ### Strands, monitors, barriers, traps, control registers -/

theorem test_nop : outPc (exec (.nop g0) (mach [])) = some 0x4000_0004 := by decide +kernel
theorem test_yield : outPc (exec (.yield g0) (mach [])) = some 0x4000_0004 := by decide +kernel
theorem test_exit : out (exec (.exit g0) (mach [])) (fun s => slotFree s 0 0) = some true := by decide +kernel
theorem test_join_nobody : outPc (exec (.join g0 1) (mach [(1, 0, 3)])) = some 0x4000_0004 := by decide +kernel
theorem test_bind : out (exec (.bind g0 1 2) (mach [])) (fun s => (coreAt s 0).binds) = some [(2, 0)] := by decide +kernel
theorem test_unbind : out (exec (.unbind g0 1 2) (mach [])) (fun s => (coreAt s 0).binds) = some [] := by decide +kernel
-- R132: WAITMSG with no class bound traps ILLEGAL
theorem test_waitmsg_unbound : outCause (exec (.waitmsg g0) (mach [])) = some (1, 0) := by decide +kernel
theorem test_mon : out (exec (.mon g0 1 2) (machM 5 [])) (fun s => (monAt (curStrand s) 2).line) =
    some ((lsBase 0 + 0x100) / 64) := by decide +kernel
-- R133, R159: MONX parks until the arming is recorded, and writes the word its access loaded when it reissues
theorem test_monx : out (exec (.monx g0 2 1 0) (machM 5 [])) (fun s => ((curStrand s).run, (curStrand s).answer)) =
      some (.parked .arming, some (.armed 0x100 5)) ∧
    outName (exec (.monx g0 2 1 0) (machM 9 [] fun t => { t with answer := some (.armed 0x100 5) })) 2 = some 5 := by
  decide +kernel
theorem test_waita_parks : out (exec (.waita g0 2 1) (mach [(1, 0, 100)])) (fun s => (curStrand s).run) =
    some (.parked (.waitA 2 1 (some 100) 4)) := by decide +kernel
theorem test_trap : outCause (exec (.trap g0 ⟨none, 300⟩) (mach [])) = some (14, 300) ∧
    outPc (exec (.trap g0 ⟨none, 300⟩) (mach [])) = some 0x4000_1000 := by decide +kernel
theorem test_rtt : outPc (exec (.rtt g0) (mach [] fun t => { t with sv := true, epc := 0x5000, tsl := true })) = some 0x5000 := by decide +kernel
-- R60: PROTECT with the instruction word and bit 63
theorem test_rtt_user : outCause (exec (.rtt g0) (mach [])) = some (6, 2 ^ 63) := by decide +kernel
theorem test_unassigned : outCause (exec (.unassignedOpcode 0xFC00_0000) (mach [])) = some (1, 0xFC00_0000) := by decide +kernel
theorem test_ctlr_tvec : outName (exec (.ctlr g0 1 1) (mach [])) 1 = some 0x4000_1000 := by decide +kernel
theorem test_ctlw_user : outCause (exec (.ctlw g0 1 1) (mach [])) = some (6, 2 ^ 63) := by decide +kernel
theorem test_ctlx : outName (exec (.ctlx g0 2 1 1) (mach [(1, 0, 0x6003)] fun t => { t with sv := true })) 2 = some 0x4000_1000 ∧
    out (exec (.ctlx g0 2 1 1) (mach [(1, 0, 0x6003)] fun t => { t with sv := true })) (fun s => (curStrand s).tvec) =
      some 0x6000 := by decide +kernel
theorem test_fence : outPc (exec (.fence g0 15 15 5) (mach [])) = some 0x4000_0004 := by decide +kernel
theorem test_dbrk : outPc (exec (.dbrk g0 7) (mach [])) = some 0x4000_0004 := by decide +kernel
-- BRECT0 holds no rectangle that the core lies in
theorem test_bara_outside : outCause (exec (.bara g0 0) (mach [] fun t => t)) = some (1, 0) := by decide +kernel
theorem test_iflushAll : out (exec (.iflushAll g0) (mach [])) (fun s => (curStrand s).run) = some (.parked .flush) := by decide +kernel
theorem test_tlbinvAll_user : outCause (exec (.tlbinvAll g0) (mach [])) = some (6, 2 ^ 63) := by decide +kernel
theorem test_grey_unknown : outPc (exec (.grey g0 1) (mach [(1, 0, 7)] fun t => { t with sv := true })) = some 0x4000_0004 := by decide +kernel
theorem test_conf : out (exec (.conf g0 2 5 6) (mach [(5, 0, 0x4000_0000)])) (fun s => (curStrand s).pword) = some 5 := by decide +kernel

/-! ### Futures, engine queues, copies, messages -/

/-- Entry 5 of core 0's die PENDING with generation 0, owned by launch 1: handle 5. -/
def machF (vals : List (NameIx × Nat × Nat)) (f : Future := { Future.reset with st := .pending, owner := 1 }) : State :=
  { mach ((1, 0, 5) :: vals) with futures := [(5, f)] }

/-- Entry 5 afterwards. -/
def outFut (o : Out) : Option Future := out o fun s => futAt s 5

theorem test_fset : (outFut (exec (.fset g0 1 2) (machF [(2, 0, 9)]))).map (fun f => (f.st, f.value, f.shade)) =
    some (.resolved, 9, 15) := by decide +kernel
theorem test_fset_twice : out (exec (.fset g0 1 2) (machF [(2, 0, 9)] { Future.reset with st := .resolved, value := 3 }))
    (fun s => ((futAt s 5).value, predP (curStrand s) 1)) = some (3, false) := by decide +kernel
theorem test_fset_stale : outCause (exec (.fset g0 1 2) (mach [(1, 0, 5)])) = some (8, 5) := by decide +kernel
theorem test_fexp : (outFut (exec (.fexp g0 1 2) (machF [(2, 0, 9)]))).map (·.count) = some 9 := by decide +kernel
theorem test_fdec : (outFut (exec (.fdec g0 1) (machF [] { Future.reset with st := .pending, count := 2 }))).map (·.count) =
    some 1 := by decide +kernel
theorem test_fdec_last : (outFut (exec (.fdec g0 1) (machF [] { Future.reset with st := .pending, count := 1 }))).map (·.st) =
    some .resolved := by decide +kernel
theorem test_pubsh : (outFut (exec (.pubsh g0 1 2) (machF [(2, 0, 3)]))).map (fun f => (f.shade, f.pub)) = some (3, true) := by decide +kernel
theorem test_stopref : (outFut (exec (.stopref g0 1) (machF []))).map (·.stop) = some true := by decide +kernel
theorem test_fcancel : (outFut (exec (.fcancel g0 1 2) (machF [(2, 0, 7)]))).map (fun f => (f.st, f.value)) =
    some (.cancelled, 7) := by decide +kernel
theorem test_settle_resolved : out (exec (.settle g0 1) (machF [] { Future.reset with st := .resolved }))
    (fun s => predP (curStrand s) 1) = some true := by decide +kernel
theorem test_fget_value : outName (exec (.fget g0 2 1 0) (machF [] { Future.reset with st := .resolved, value := 77, pub := true, shade := 15 })) 2 =
    some 77 := by decide +kernel
theorem test_fget_parks : out (exec (.fget g0 2 1 0) (machF [])) (fun s => (curStrand s).run) = some (.parked (.future 5 0)) := by decide +kernel
theorem test_cxset : out (exec (.cxset g0 1 3) (mach [(1, 0, 77)])) (fun s => (coreAt s 0).cx) = some [(3, 77)] := by decide +kernel
theorem test_cxgo : outName (exec (.cxgo g0 1) (mach [])) 1 = some 1 := by decide +kernel
theorem test_epeek_empty : outName (exec (.epeek g0 1 0) (mach [(1, 0, 5)])) 1 = some 0 := by decide +kernel
-- with no command enqueued and no element there POP traps ILLEGAL
theorem test_pop_nothing : outCause (exec (.pop g0 1 0) (mach [])) = some (1, 0) := by decide +kernel
theorem test_enq : out (exec (.enq g0 1 0) (machM 5 [])) (fun s => (coreAt s 0).mx.executing.isSome) = some true := by decide +kernel
theorem test_mrecv : outName (exec (.mrecv g0 1 2 1) { mach [] with cores := [(0, { core [] with mailbox := [⟨1, 7, 8⟩], binds := [(1, 0)] })] }) 2 =
    some 8 := by decide +kernel
theorem test_qctl : outName (exec (.qctl g0 1 2 0) (mach [(1, 0, 9), (2, 0, 5)])) 1 = some 0 := by decide +kernel
theorem test_getid : outName (exec (.getid g0 1 0) (mach [(1, 0, 5)])) 1 = some 0 := by decide +kernel

/-! ### Words of the encoding tables: guard !p3 (GN 1, GP 3), then the fields of the format with values of their own -/

-- Integer operations (R61, R62)
theorem test_words_integer :
    decodeWord 0b0000000_1_011_000101001001010010001 = .ok (.add ⟨true, 3⟩ 5 9 18 1) ∧
    decodeWord 0b0000001_1_011_000101001001010010001 = .ok (.sub ⟨true, 3⟩ 5 9 18 1) ∧
    decodeWord 0b0000010_1_011_000101001001010010001 = .ok (.mul ⟨true, 3⟩ 5 9 18 1) ∧
    decodeWord 0b0000011_1_011_000101001001010010001 = .ok (.mulh ⟨true, 3⟩ 5 9 18 1) ∧
    decodeWord 0b0000100_1_011_000101001001010010001 = .ok (.div ⟨true, 3⟩ 5 9 18 1) ∧
    decodeWord 0b0000101_1_011_000101001001010010001 = .ok (.rem ⟨true, 3⟩ 5 9 18 1) ∧
    decodeWord 0b0000110_1_011_000101001001010010001 = .ok (.and ⟨true, 3⟩ 5 9 18 1) ∧
    decodeWord 0b0000111_1_011_000101001001010010001 = .ok (.or ⟨true, 3⟩ 5 9 18 1) ∧
    decodeWord 0b0001000_1_011_000101001001010010001 = .ok (.xor ⟨true, 3⟩ 5 9 18 1) ∧
    decodeWord 0b0001001_1_011_000101001001010010001 = .ok (.andn ⟨true, 3⟩ 5 9 18 1) ∧
    decodeWord 0b0001010_1_011_000101001001010010001 = .ok (.shl ⟨true, 3⟩ 5 9 18 1) ∧
    decodeWord 0b0001011_1_011_000101001001010010001 = .ok (.shr ⟨true, 3⟩ 5 9 18 1) ∧
    decodeWord 0b0001100_1_011_000101001001010010001 = .ok (.sha ⟨true, 3⟩ 5 9 18 1) ∧
    decodeWord 0b0001101_1_011_000101001001010010001 = .ok (.rot ⟨true, 3⟩ 5 9 18 1) ∧
    decodeWord 0b0001110_1_011_000101001001010010001 = .ok (.min ⟨true, 3⟩ 5 9 18 1) ∧
    decodeWord 0b0001111_1_011_000101001001010010001 = .ok (.max ⟨true, 3⟩ 5 9 18 1) := by decide +kernel
-- Immediates, SEL, ABSD, MAC (R62)
theorem test_words_immediate :
    decodeWord 0b0010000_1_011_000101001001101010101 = .ok (.addi ⟨true, 3⟩ 5 9 ⟨none, 341⟩) ∧
    decodeWord 0b0010001_1_011_000101001001101010101 = .ok (.muli ⟨true, 3⟩ 5 9 ⟨none, 341⟩) ∧
    decodeWord 0b0010010_1_011_000101001001101010101 = .ok (.andi ⟨true, 3⟩ 5 9 ⟨none, 341⟩) ∧
    decodeWord 0b0010011_1_011_000101001001101010101 = .ok (.ori ⟨true, 3⟩ 5 9 ⟨none, 341⟩) ∧
    decodeWord 0b0010100_1_011_000101001001101010101 = .ok (.xori ⟨true, 3⟩ 5 9 ⟨none, 341⟩) ∧
    decodeWord 0b0010101_1_011_000101001001000101010 = .ok (.shli ⟨true, 3⟩ 5 9 ⟨none, 42⟩) ∧
    decodeWord 0b0010110_1_011_000101001001000101010 = .ok (.shri ⟨true, 3⟩ 5 9 ⟨none, 42⟩) ∧
    decodeWord 0b0010111_1_011_000101001001000101010 = .ok (.shai ⟨true, 3⟩ 5 9 ⟨none, 42⟩) ∧
    decodeWord 0b0011000_1_011_000101001001000101010 = .ok (.roti ⟨true, 3⟩ 5 9 ⟨none, 42⟩) ∧
    decodeWord 0b0011001_1_011_000101001001101010101 = .ok (.mini ⟨true, 3⟩ 5 9 ⟨none, 341⟩) ∧
    decodeWord 0b0011010_1_011_000101001001101010101 = .ok (.maxi ⟨true, 3⟩ 5 9 ⟨none, 341⟩) ∧
    decodeWord 0b0011011_1_011_000101101010101010101 = .ok (.li ⟨true, 3⟩ 5 ⟨none, 21845⟩) ∧
    decodeWord 0b0011100_1_011_000101101010101010101 = .ok (.lih ⟨true, 3⟩ 5 ⟨none, 21845⟩) ∧
    decodeWord 0b0011101_1_011_000101001001010010001 = .ok (.sel ⟨true, 3⟩ 5 9 18 1) ∧
    decodeWord 0b0011110_1_011_000101001001010010001 = .ok (.absd ⟨true, 3⟩ 5 9 18 1) ∧
    decodeWord 0b0011111_1_011_000101001001010010001 = .ok (.mac ⟨true, 3⟩ 5 9 18 1) := by decide +kernel
-- Floating point, widths, compares (R63)
theorem test_words_fp :
    decodeWord 0b0100000_1_011_000101001001010010001 = .ok (.fadd ⟨true, 3⟩ 5 9 18 1) ∧
    decodeWord 0b0100001_1_011_000101001001010010001 = .ok (.fsub ⟨true, 3⟩ 5 9 18 1) ∧
    decodeWord 0b0100010_1_011_000101001001010010001 = .ok (.fmul ⟨true, 3⟩ 5 9 18 1) ∧
    decodeWord 0b0100011_1_011_000101001001010010001 = .ok (.ffma ⟨true, 3⟩ 5 9 18 1) ∧
    decodeWord 0b0100100_1_011_000101001001010010000 = .ok (.fmin ⟨true, 3⟩ 5 9 18) ∧
    decodeWord 0b0100101_1_011_000101001001010010000 = .ok (.fmax ⟨true, 3⟩ 5 9 18) ∧
    decodeWord 0b0100110_1_011_000101001001000000001 = .ok (.fcvt ⟨true, 3⟩ 5 9 1) ∧
    decodeWord 0b0100111_1_011_000101001001000000001 = .ok (.funOp ⟨true, 3⟩ 5 9 1) ∧
    decodeWord 0b0101000_1_011_000101001001010010001 = .ok (.fcmp ⟨true, 3⟩ 5 9 18 1) ∧
    decodeWord 0b0101001_1_011_000101000000101010101 = .ok (.rsz ⟨true, 3⟩ 5 1 1 21) ∧
    decodeWord 0b0101010_1_011_000101000000001010101 = .ok (.widq ⟨true, 3⟩ 5 1 21) ∧
    decodeWord 0b0101011_1_011_000101001001000000010 = .ok (.ext ⟨true, 3⟩ 5 9 2) ∧
    decodeWord 0b0101100_1_011_000101001001000000010 = .ok (.ins ⟨true, 3⟩ 5 9 2) ∧
    decodeWord 0b0101101_1_011_000101001001000000001 = .ok (.bitc ⟨true, 3⟩ 5 9 1) ∧
    decodeWord 0b0101110_1_011_000101001001010010001 = .ok (.cmp ⟨true, 3⟩ 5 9 18 1) ∧
    decodeWord 0b0101111_1_011_001101001001101010101 = .ok (.cmpi ⟨true, 3⟩ 1 5 9 ⟨none, 341⟩) := by decide +kernel
-- Moves, lane operations, branches (R63, R64)
theorem test_words_names :
    decodeWord 0b0110000_1_011_000101001001000000001 = .ok (.mov ⟨true, 3⟩ 5 9 1) ∧
    decodeWord 0b0110001_1_011_000101001001000000001 = .ok (.vfirst ⟨true, 3⟩ 5 9 1) ∧
    decodeWord 0b0110010_1_011_000101001001010010001 = .ok (.vlane ⟨true, 3⟩ 5 9 18 1) ∧
    decodeWord 0b0110011_1_011_000101001001000000001 = .ok (.vred ⟨true, 3⟩ 5 9 1) ∧
    decodeWord 0b0110100_1_011_000101001001000000000 = .ok (.vpredAny ⟨true, 3⟩ 5 9) ∧
    decodeWord 0b0110100_1_011_000101001001000000001 = .ok (.vpredAll ⟨true, 3⟩ 5 9) ∧
    decodeWord 0b0110100_1_011_000101001001000000010 = .ok (.vpredCount ⟨true, 3⟩ 5 9) ∧
    decodeWord 0b0110101_1_011_000101000000000000001 = .ok (.vidx ⟨true, 3⟩ 5 1) ∧
    decodeWord 0b0110110_1_011_000101001001010010001 = .ok (.vshuf ⟨true, 3⟩ 5 9 18 1) ∧
    decodeWord 0b0110111_1_011_000101001001010010001 = .ok (.vscan ⟨true, 3⟩ 5 9 18 1) ∧
    decodeWord 0b0111000_1_011_101010101010101010101 = .ok (.br ⟨true, 3⟩ ⟨none, 1398101⟩) ∧
    decodeWord 0b0111001_1_011_101010101010101010101 = .ok (.call ⟨true, 3⟩ ⟨none, 1398101⟩) ∧
    decodeWord 0b0111010_1_011_000000001001000000000 = .ok (.jr ⟨true, 3⟩ 9) ∧
    decodeWord 0b0111011_1_011_000000001001000000000 = .ok (.callr ⟨true, 3⟩ 9) ∧
    decodeWord 0b0111100_1_011_000101000000101010101 = .ok (.loop ⟨true, 3⟩ 5 ⟨none, 341⟩) ∧
    decodeWord 0b0111101_1_011_101010101010101010101 = .ok (.brany ⟨true, 3⟩ ⟨none, 1398101⟩) ∧
    decodeWord 0b0111110_1_011_101010101010101010101 = .ok (.brall ⟨true, 3⟩ ⟨none, 1398101⟩) ∧
    decodeWord 0b0111111_1_011_101010101010101010101 = .ok (.ipf ⟨true, 3⟩ ⟨none, 1398101⟩) := by decide +kernel
-- Loads, PLOG, PMOV (R21, R22, R64, R65)
theorem test_words_branchLoad :
    decodeWord 0b1000000_1_011_000101001001101010101 = .ok (.ldb ⟨true, 3⟩ 5 9 ⟨none, 341⟩) ∧
    decodeWord 0b1000001_1_011_000101001001101010101 = .ok (.ldh ⟨true, 3⟩ 5 9 ⟨none, 341⟩) ∧
    decodeWord 0b1000010_1_011_000101001001101010101 = .ok (.ldw ⟨true, 3⟩ 5 9 ⟨none, 341⟩) ∧
    decodeWord 0b1000011_1_011_000101001001101010101 = .ok (.ldd ⟨true, 3⟩ 5 9 ⟨none, 341⟩) ∧
    decodeWord 0b1000100_1_011_000101001001010010010 = .ok (.ldx ⟨true, 3⟩ 5 9 18 2) ∧
    decodeWord 0b1000101_1_011_000101001001010010010 = .ok (.ldg ⟨true, 3⟩ 5 9 18 2) ∧
    decodeWord 0b1000110_1_011_000101001001001000110 = .ok (.ldo ⟨true, 3⟩ 5 9 4 1 2) ∧
    decodeWord 0b1000111_1_011_000101001001101010101 = .ok (.ldt ⟨true, 3⟩ 5 9 ⟨none, 341⟩) ∧
    decodeWord 0b1001000_1_011_000101001001101010101 = .ok (.ldk ⟨true, 3⟩ 5 9 ⟨none, 341⟩) ∧
    decodeWord 0b1001001_1_011_000000001001101010101 = .ok (.pref ⟨true, 3⟩ 9 ⟨none, 341⟩) ∧
    decodeWord 0b1001110_1_011_000101001001000010001 = .ok (.plog ⟨true, 3⟩ 5 9 2 1) ∧
    decodeWord 0b1001110_1_011_000101001001000000011 = .ok (.plogMov ⟨true, 3⟩ 5 9) ∧
    decodeWord 0b1001111_1_011_000101000000000000000 = .ok (.pmovR ⟨true, 3⟩ 5) ∧
    decodeWord 0b1001111_1_011_000000001001000000101 = .ok (.pmovW ⟨true, 3⟩ 9 1) ∧
    decodeWord 0b1001111_1_011_000000000000000000110 = .ok (.pmovFc ⟨true, 3⟩ 1) := by decide +kernel
-- Stores, atomics, full/empty (R64, R65)
theorem test_words_store :
    decodeWord 0b1010000_1_011_000101001001101010101 = .ok (.stb ⟨true, 3⟩ 5 9 ⟨none, 341⟩) ∧
    decodeWord 0b1010001_1_011_000101001001101010101 = .ok (.sth ⟨true, 3⟩ 5 9 ⟨none, 341⟩) ∧
    decodeWord 0b1010010_1_011_000101001001101010101 = .ok (.stw ⟨true, 3⟩ 5 9 ⟨none, 341⟩) ∧
    decodeWord 0b1010011_1_011_000101001001101010101 = .ok (.std ⟨true, 3⟩ 5 9 ⟨none, 341⟩) ∧
    decodeWord 0b1010100_1_011_000101001001010010010 = .ok (.stx ⟨true, 3⟩ 5 9 18 2) ∧
    decodeWord 0b1010101_1_011_000101001001010010010 = .ok (.sts ⟨true, 3⟩ 5 9 18 2) ∧
    decodeWord 0b1010110_1_011_000101001001001000110 = .ok (.sto ⟨true, 3⟩ 5 9 4 1 2) ∧
    decodeWord 0b1010111_1_011_000101001001101010101 = .ok (.put ⟨true, 3⟩ 5 9 ⟨none, 341⟩) ∧
    decodeWord 0b1011000_1_011_000101001001101010101 = .ok (.rsv ⟨true, 3⟩ 5 9 ⟨none, 341⟩) ∧
    decodeWord 0b1011001_1_011_000101001001101010101 = .ok (.rel ⟨true, 3⟩ 5 9 ⟨none, 341⟩) ∧
    decodeWord 0b1011010_1_011_000101001001010010000 = .ok (.faa ⟨true, 3⟩ 5 9 18) ∧
    decodeWord 0b1011011_1_011_000101001001010010000 = .ok (.swp ⟨true, 3⟩ 5 9 18) ∧
    decodeWord 0b1011100_1_011_000101001001010010000 = .ok (.cas ⟨true, 3⟩ 5 9 18) ∧
    decodeWord 0b1011101_1_011_000000001001101010101 = .ok (.feset ⟨true, 3⟩ 0 9 ⟨none, 341⟩) ∧
    decodeWord 0b1011110_1_011_000101001001101010101 = .ok (.fetest ⟨true, 3⟩ 5 9 ⟨none, 341⟩) := by decide +kernel
-- Queues, copies, messages, futures (R66)
theorem test_words_future :
    decodeWord 0b1100000_1_011_000000001001000000001 = .ok (.enq ⟨true, 3⟩ 9 1) ∧
    decodeWord 0b1100001_1_011_000101000000000000001 = .ok (.pop ⟨true, 3⟩ 5 1) ∧
    decodeWord 0b1100010_1_011_000101000000000000001 = .ok (.epeek ⟨true, 3⟩ 5 1) ∧
    decodeWord 0b1100011_1_011_000000001001000001001 = .ok (.cxset ⟨true, 3⟩ 9 9) ∧
    decodeWord 0b1100100_1_011_000101000000000000000 = .ok (.cxgo ⟨true, 3⟩ 5) ∧
    decodeWord 0b1100101_1_011_000000001001010010001 = .ok (.send ⟨true, 3⟩ 9 18 1) ∧
    decodeWord 0b1100110_1_011_000101001001000000001 = .ok (.mrecv ⟨true, 3⟩ 5 9 1) ∧
    decodeWord 0b1100111_1_011_000101001001000000010 = .ok (.qctl ⟨true, 3⟩ 5 9 2) ∧
    decodeWord 0b1101000_1_011_000101001001000000000 = .ok (.fnew ⟨true, 3⟩ 5 9) ∧
    decodeWord 0b1101001_1_011_000000001001010010000 = .ok (.fset ⟨true, 3⟩ 9 18) ∧
    decodeWord 0b1101010_1_011_000101001001000000010 = .ok (.fget ⟨true, 3⟩ 5 9 2) ∧
    decodeWord 0b1101011_1_011_000000001001010010000 = .ok (.fexp ⟨true, 3⟩ 9 18) ∧
    decodeWord 0b1101100_1_011_000000001001000000000 = .ok (.fdec ⟨true, 3⟩ 9) ∧
    decodeWord 0b1101101_1_011_000101001001000000001 = .ok (.post ⟨true, 3⟩ 5 9 1) ∧
    decodeWord 0b1101110_1_011_000000001001000000000 = .ok (.roam ⟨true, 3⟩ 9) ∧
    decodeWord 0b1101111_1_011_000000001001010010000 = .ok (.pubsh ⟨true, 3⟩ 9 18) ∧
    decodeWord 0b1101111_1_011_000000001001000000001 = .ok (.stopref ⟨true, 3⟩ 9) ∧
    decodeWord 0b1101111_1_011_000000001001000000010 = .ok (.settle ⟨true, 3⟩ 9) ∧
    decodeWord 0b1101111_1_011_000000001001010010011 = .ok (.fcancel ⟨true, 3⟩ 9 18) := by decide +kernel
-- Synchronization, strands, control registers, SYS (R66, R68)
theorem test_words_system :
    decodeWord 0b1110000_1_011_000000001001000000001 = .ok (.mon ⟨true, 3⟩ 9 1) ∧
    decodeWord 0b1110000_1_011_000101001001000000101 = .ok (.monx ⟨true, 3⟩ 5 9 1) ∧
    decodeWord 0b1110001_1_011_000101001001000000000 = .ok (.waita ⟨true, 3⟩ 5 9) ∧
    decodeWord 0b1110010_1_011_000000000000000000001 = .ok (.bara ⟨true, 3⟩ 1) ∧
    decodeWord 0b1110010_1_011_000000000000000000101 = .ok (.barw ⟨true, 3⟩ 1) ∧
    decodeWord 0b1110011_1_011_000101001001000000010 = .ok (.fence ⟨true, 3⟩ 5 9 2) ∧
    decodeWord 0b1110100_1_011_000101001001010010000 = .ok (.start ⟨true, 3⟩ 5 9 18) ∧
    decodeWord 0b1110101_1_011_000000001001000000000 = .ok (.join ⟨true, 3⟩ 9) ∧
    decodeWord 0b1110110_1_011_000000000000000000000 = .ok (.exit ⟨true, 3⟩) ∧
    decodeWord 0b1110110_1_011_000000000000000000001 = .ok (.yield ⟨true, 3⟩) ∧
    decodeWord 0b1110111_1_011_000000000000000000000 = .ok (.waitmsg ⟨true, 3⟩) ∧
    decodeWord 0b1111000_1_011_000000101010101010101 = .ok (.trap ⟨true, 3⟩ ⟨none, 21845⟩) ∧
    decodeWord 0b1111001_1_011_000101000000000001001 = .ok (.ctlr ⟨true, 3⟩ 5 9) ∧
    decodeWord 0b1111001_1_011_000000001001010001001 = .ok (.ctlw ⟨true, 3⟩ 9 9) ∧
    decodeWord 0b1111001_1_011_000101001001100001001 = .ok (.ctlx ⟨true, 3⟩ 5 9 9) ∧
    decodeWord 0b1111010_1_011_000000001001101010101 = .ok (.mapld ⟨true, 3⟩ 9 ⟨none, 341⟩) ∧
    decodeWord 0b1111011_1_011_000000000000000000000 = .ok (.rtt ⟨true, 3⟩) ∧
    decodeWord 0b1111100_1_011_000101001001010010000 = .ok (.conf ⟨true, 3⟩ 5 9 18) ∧
    decodeWord 0b1111100_1_011_000101001001010010001 = .ok (.confExit ⟨true, 3⟩ 5 9 18) ∧
    decodeWord 0b1111101_1_011_000000000000000000000 = .ok (.nop ⟨true, 3⟩) ∧
    decodeWord 0b1111101_1_011_000000001001000000001 = .ok (.iflush ⟨true, 3⟩ 9) ∧
    decodeWord 0b1111101_1_011_000000000000000001001 = .ok (.iflushAll ⟨true, 3⟩) ∧
    decodeWord 0b1111101_1_011_000000001001000000010 = .ok (.tlbinvPage ⟨true, 3⟩ 9) ∧
    decodeWord 0b1111101_1_011_000000001001000001010 = .ok (.tlbinvAsid ⟨true, 3⟩ 9) ∧
    decodeWord 0b1111101_1_011_000000000000000010010 = .ok (.tlbinvAll ⟨true, 3⟩) ∧
    decodeWord 0b1111101_1_011_000000000000000001011 = .ok (.dbrk ⟨true, 3⟩ 1) ∧
    decodeWord 0b1111101_1_011_000101000000000001100 = .ok (.getid ⟨true, 3⟩ 5 1) ∧
    decodeWord 0b1111101_1_011_000000001001000001101 = .ok (.bind ⟨true, 3⟩ 9 1) ∧
    decodeWord 0b1111101_1_011_000000001001000101101 = .ok (.unbind ⟨true, 3⟩ 9 1) ∧
    decodeWord 0b1111101_1_011_000000001001000000110 = .ok (.grey ⟨true, 3⟩ 9) ∧
    decodeWord 0b1111101_1_011_000000000000000001111 = .ok (.eres ⟨true, 3⟩ 1) := by decide +kernel
-- R56: a LIMM before an I-format word; R69: an unassigned opcode
theorem test_words_limm :
    decodePair 0x24 0b0010000_1_011_000101_001001_101010101 = .ok (.limm 0x24 0b0010000_1_011_000101_001001_101010101) ∧
    decodeWord 0b1001010_0_000_000000_000000_000000000 = .ok (.unassignedOpcode 0b1001010_0_000_000000_000000_000000000) := by
  decide +kernel

/-! ### Terms that break one check of `wellFormed` each -/

def ill0 : List Instr :=
   [.add g0 1 1 1 4, .sub g0 1 1 1 4, .mul g0 1 1 1 4, .mulh g0 1 1 1 4, .div g0 1 1 1 4, .rem g0 1 1 1 4,
    .and g0 1 1 1 4, .or g0 1 1 1 4, .xor g0 1 1 1 4, .andn g0 1 1 1 4, .shl g0 1 1 1 4, .shr g0 1 1 1 4,
    .sha g0 1 1 1 4, .rot g0 1 1 1 4, .min g0 1 1 1 4, .max g0 1 1 1 4, .addi g0 1 1 ⟨some 0, 1⟩,
    .muli g0 1 1 ⟨some 0, 1⟩, .andi g0 1 1 ⟨some 0, 1⟩, .ori g0 1 1 ⟨some 0, 1⟩, .xori g0 1 1 ⟨some 0, 1⟩,
    .shli g0 1 1 ⟨some 0, 1⟩, .shli g0 1 1 ⟨none, 64⟩, .shri g0 1 1 ⟨some 0, 1⟩, .shri g0 1 1 ⟨none, 64⟩,
    .shai g0 1 1 ⟨some 0, 1⟩, .shai g0 1 1 ⟨none, 64⟩, .roti g0 1 1 ⟨some 0, 1⟩, .roti g0 1 1 ⟨none, 64⟩,
    .mini g0 1 1 ⟨some 0, 1⟩, .maxi g0 1 1 ⟨some 0, 1⟩, .li g0 1 ⟨some 0, 1⟩, .lih g0 1 ⟨some 0, 1⟩,
    .absd g0 1 1 1 4, .mac g0 1 1 1 4, .fadd g0 1 1 1 4, .fsub g0 1 1 1 4, .fmul g0 1 1 1 4, .ffma g0 1 1 1 4,
    .fcvt g0 1 1 4]

def ill1 : List Instr :=
   [.funOp g0 1 1 6, .fcmp g0 0 1 1 1, .rsz g0 1 1 3 1, .rsz g0 1 0 1 1, .widq g0 1 2 1, .widq g0 1 2 1,
    .bitc g0 1 1 4, .cmp g0 0 1 1 1, .cmpi g0 1 1 1 ⟨some 0, 1⟩, .cmpi g0 1 0 1 ⟨none, 1⟩, .mov g0 1 1 4,
    .vfirst g0 1 1 0, .vlane g0 1 1 1 0, .vred g0 1 1 6, .vpredAny g0 0 1, .vpredAll g0 0 1, .vidx g0 1 4,
    .vshuf g0 1 1 1 4, .vscan g0 1 1 1 6, .br g0 ⟨some 0, 1⟩, .call g0 ⟨some 0, 1⟩, .loop g0 1 ⟨some 0, 1⟩,
    .brany g0 ⟨some 0, 1⟩, .brall g0 ⟨some 0, 1⟩, .ipf g0 ⟨some 0, 1⟩, .ldb g0 1 1 ⟨some 0, 1⟩,
    .ldh g0 1 1 ⟨some 0, 1⟩, .ldw g0 1 1 ⟨some 0, 1⟩, .ldd g0 1 1 ⟨some 0, 1⟩, .ldo g0 1 1 6 1 1, .ldo g0 1 1 1 3 1,
    .ldt g0 1 1 ⟨some 0, 1⟩, .ldk g0 1 1 ⟨some 0, 1⟩, .pref g0 1 ⟨some 0, 1⟩, .plog g0 1 1 1 3, .plog g0 8 1 1 1,
    .plogMov g0 8 1, .stb g0 1 1 ⟨some 0, 1⟩, .sth g0 1 1 ⟨some 0, 1⟩, .stw g0 1 1 ⟨some 0, 1⟩]

def ill2 : List Instr :=
   [.std g0 1 1 ⟨some 0, 1⟩, .sto g0 1 1 6 1 1, .sto g0 1 1 1 3 1, .put g0 1 1 ⟨some 0, 1⟩, .rsv g0 1 1 ⟨some 0, 1⟩,
    .rel g0 1 1 ⟨some 0, 1⟩, .feset g0 1 1 ⟨some 0, 1⟩, .fetest g0 1 1 ⟨some 0, 1⟩, .fetest g0 0 1 ⟨none, 1⟩,
    .cxset g0 1 10, .qctl g0 1 1 12, .fence g0 1 1 6, .trap g0 ⟨some 0, 1⟩, .ctlr g0 1 5, .ctlr g0 1 40,
    .ctlw g0 1 24, .ctlw g0 1 32, .ctlx g0 1 1 24, .ctlx g0 1 1 32, .mapld g0 1 ⟨some 0, 1⟩, .conf g0 0 1 1,
    .confExit g0 0 1 1, .getid g0 1 6, .eres g0 3, .limm 1 0, .unassignedOpcode 0, .patchSubstitute 256,
    .accessReply (16 * Config.physicalCores), .strandRejoin (16 * Config.physicalCores),
    .repackRowWrite Config.physicalCores, .repackUnlock Config.physicalCores, .monitorNotice 1 4,
    .monitorNotice (16 * Config.physicalCores) 1, .waitaTimeout (16 * Config.physicalCores) 1,
    .barrierArrival Config.physicalCores 1 1 1, .barrierArrival 1 4 1 1, .barrierRelease 1 4 1,
    .barrierRelease 0 1 1, .barrierRelease 65536 1 1, .takeResend (16 * Config.physicalCores)]

def ill3 : List Instr :=
   [.rsvholdTimeout (16 * Config.physicalCores) 1 1, .mma Config.physicalCores, .mmas Config.physicalCores,
    .mmaq Config.physicalCores, .mmat Config.physicalCores, .accz Config.physicalCores, .accld Config.physicalCores,
    .accst Config.physicalCores, .accadd Config.physicalCores, .vtmap Config.physicalCores,
    .vtbin Config.physicalCores, .vtred Config.physicalCores, .vtsmax Config.physicalCores,
    .vtnorm Config.physicalCores, .vtcvt Config.physicalCores, .vthaar Config.physicalCores,
    .vtihaar Config.physicalCores, .vtconf Config.physicalCores, .vtkvLoad Config.physicalCores,
    .vtkvStore Config.physicalCores, .mmaqSlotTake Config.physicalCores, .vtkvEntryWake Config.physicalCores,
    .engineFaultTrap (16 * Config.physicalCores) 1, .copy2 Config.physicalCores 1, .copy3 Config.physicalCores 1,
    .slab Config.physicalCores 1, .gather Config.physicalCores 1, .scatter Config.physicalCores 1,
    .bcast Config.physicalCores 1, .reduce Config.physicalCores 1, .table Config.physicalCores 1,
    .tableSlotWrite Config.physicalCores 1, .copyChunk Config.physicalCores 1, .copyComplete Config.physicalCores 1,
    .inboxDelivery Config.physicalCores 1 1, .inboxDelivery 1 32 1, .mailboxDelivery Config.physicalCores 1 1 1,
    .mailboxDelivery 1 4 1 1, .queueTransfer Config.physicalCores 1, .queueTransfer 1 4]

def ill4 : List Instr :=
   [.guestAdmit Config.physicalCores, .taskDispatch Config.clusters, .confExitJobPost (16 * Config.physicalCores),
    .backfillJobStart Config.clusters, .lqpush 5 1, .launchStartBroadcast 0, .launchStartBroadcast 65536,
    .launchEnd 0, .launchEnd 65536, .watchdogExpiry 0, .watchdogExpiry 65536, .greyOut 0, .greyOut 65536, .restore 0,
    .restore 65536, .faultQueuePost Config.clusters, .freply Config.clusters 1, .fqheadWrite Config.clusters 1,
    .pooldecWrite 64 1, .kydbHalt Config.physicalCores, .kydbResume Config.physicalCores,
    .fetchLineArrival (16 * Config.physicalCores), .iflushComplete (16 * Config.physicalCores),
    .tlbinvComplete (16 * Config.physicalCores), .liftTheFreeze 0, .liftTheFreeze 65536, .endLaunchAsHung 0,
    .endLaunchAsHung 65536, .reservedCommand Config.physicalCores 1, .reservedCommand 1 2]

theorem test_wellFormed_refuses :
    (ill0 ++ ill1 ++ ill2 ++ ill3 ++ ill4).all (fun i => !i.wellFormed) = true := by decide +kernel
-- and terms that break none
theorem test_wellFormed_accepts : ([.add g0 63 63 63 3, .shli g0 1 1 ⟨none, 63⟩, .cxset g0 1 9, .ctlr g0 1 0x27, .ctlw g0 1 0x17,
    .sto g0 1 1 5 2 3, .rsz g0 1 1 2 63, .widq g0 1 3 0, .eres g0 2, .waitaTimeout (16 * 67584 - 1) 0, .lqpush 4 0,
    .kydbHalt 67583] : List Instr).all Instr.wellFormed = true := by decide +kernel

/-! ### The step, and events with values worked out by hand -/

-- A placed word runs as the first instruction: NOP (R68), LI of 42 into index 0 of a launch without a map (ILLEGAL, R70)
theorem test_fetch : out (step (State.reset.withFetchWord 32 0xFA00_0000)) (fun s => ((curStrand s).pc, s.ir.word)) =
    some (0x4000_0004, 0xFA00_0000) := by decide +kernel
theorem test_decodeTable : decodeTableWord 32 0xFA00_0000 = some (.nop g0) ∧
    decodeTableWord 32 0x7400_8000 = none := by decide +kernel
-- FIPS 180-4: SHA-256 of "abc"; the CRC-32 check value of "123456789"
theorem test_sha256 : sha256 [0x61, 0x62, 0x63] =
    0xAD1500F261FF10B49C7A1796A36103B02322AE5DDE404141EACF018FBF1678BA := by decide +kernel
theorem test_crc32 : crc32 [0x31, 0x32, 0x33, 0x34, 0x35, 0x36, 0x37, 0x38, 0x39] = 0xCBF43926 := by decide +kernel

/-! ### States that meet the hypotheses of the statements -/

def i1 : NameInfo := ⟨1, 0, 0, 64, 0, 0⟩
def i2 : NameInfo := ⟨2, 0, 0, 64, 0, 0⟩
def i3 : NameInfo := ⟨3, 0, 1, 8, 1, 0⟩
def i4 : NameInfo := ⟨4, 0, 1, 64, 0, 0⟩
def i5 : NameInfo := ⟨5, 0, 3, 32, 0, 0⟩
def i6 : NameInfo := ⟨6, 0, 3, 32, 0, 0⟩
def i7 : NameInfo := ⟨7, 0, 3, 32, 0, 0⟩
def i8 : NameInfo := ⟨8, 1, 1, 16, 0, 0⟩
def i9 : NameInfo := ⟨9, 1, 1, 16, 0, 0⟩
def i10 : NameInfo := ⟨10, 6, 0, 48, 0, 0⟩

/-- Values for the arithmetic. -/
def mA : State := mach [(1, 0, 100), (2, 0, 27), (3, 0, 5), (5, 0, 0x3FC0_0000), (6, 0, 0x4010_0000)]

/-- Lanes 0, 1 and 3 enabled by q1, with values. -/
def mL : State := mach ((1, 0, 1) :: lanesV) inThree

-- IntegerResultsAreExactThenFitted, its first part: a value at the ends of the range, beyond them, and index 0
theorem witness_fit : i3.ty < 2 ∧ 1 ≤ i3.width ∧ i3.kind ≠ 8 ∧ (-128 : Int) = (if i3.ty = 1 then -2 ^ (i3.width - 1) else 0) ∧
    (127 : Int) = (if i3.ty = 1 then 2 ^ (i3.width - 1) - 1 else 2 ^ i3.width - 1) ∧ NameInfo.zero.kind = 8 ∧
    NameInfo.zero.ty < 2 ∧ 1 ≤ NameInfo.zero.width := by decide
-- and its second: every operation, in the uniform path and in the lanes
theorem witness_integerResults : ∃ s1 xs vals fl s2, ComputeReady mA g0 (clsD mA 3) 3 [1, 2] i3 [i1, i2] [0] s1 xs ∧
    (0 : BitVec 3).toNat < 4 ∧ allInt [i3, i1, i2] = true ∧
    collect [0] (fun l => fitInt i3 (modeOf 0 i3) (IntOp.add.exact 8 ((nth xs 0).int l) ((nth xs 1).int l) ((nth xs 0).pat l))) =
      .ok (vals, fl) ∧ writeDst s1 i3 [0] vals = .ok s2 :=
  ⟨_, _, _, _, _, ⟨⟨rfl, by decide +kernel, by decide +kernel⟩, rfl, rfl, rfl, rfl, rfl, ok_pair (by decide +kernel)⟩, by decide, rfl,
    ok_pair (by decide +kernel), ok_of (by decide +kernel)⟩
theorem witness_integerLanes : ∃ s1 xs, ComputeReady mL ⟨false, 1⟩ (clsD mL 8) 8 [8, 1] i8 [i8, i1] [0, 1, 3] s1 xs ∧
    allInt [i8, i8, i1] = true :=
  ⟨_, _, ⟨⟨rfl, by decide +kernel, by decide +kernel⟩, rfl, rfl, rfl, rfl, rfl, ok_pair (by decide +kernel)⟩, rfl⟩
-- MacRotateAndDivideResults
theorem witness_mac : ∃ s1 xs, ComputeReady mA g0 (clsD mA 3) 3 [3, 1, 2] i3 [i3, i1, i2] [0] s1 xs ∧ readDst i3 = true :=
  ⟨_, _, ⟨⟨rfl, by decide +kernel, by decide +kernel⟩, rfl, rfl, rfl, rfl, rfl, ok_pair (by decide +kernel)⟩, rfl⟩
-- ZeroDivisorTrapsDivzero: name 4 holds 0
theorem witness_zeroDivisor : ∃ s1 xs, ComputeReady mA g0 (clsD mA 3) 3 [1, 4] i3 [i1, i4] [0] s1 xs ∧
    allInt [i3, i1, i4] = true ∧ (nth xs 1).int 0 = 0 :=
  ⟨_, _, ⟨⟨rfl, by decide +kernel, by decide +kernel⟩, rfl, rfl, rfl, rfl, rfl, ok_pair (by decide +kernel)⟩, rfl, by decide +kernel⟩
-- ImmediateFormsResults, with a count at and above 63
theorem witness_immediate : ∃ s1 xs, ComputeReady mA g0 (clsD mA 3) 3 [1] i3 [i1] [0] s1 xs ∧ allInt [i3, i1] = true ∧
    immUnsigned (⟨none, 63⟩ : Imm 9) ≤ 63 ∧ 63 < immUnsigned (⟨none, 64⟩ : Imm 9) :=
  ⟨_, _, ⟨⟨rfl, by decide +kernel, by decide +kernel⟩, rfl, rfl, rfl, rfl, rfl, ok_pair (by decide +kernel)⟩, rfl, by decide, by decide⟩
-- MovesFieldsAndCountsResults
theorem witness_constants : ∃ s1 xs, ComputeReady mA g0 (clsD mA 3) 3 [] i3 [] [0] s1 xs ∧ i3.isInt = true :=
  ⟨_, _, ⟨⟨rfl, by decide +kernel, by decide +kernel⟩, rfl, rfl, rfl, rfl, rfl, ok_pair (by decide +kernel)⟩, rfl⟩
theorem witness_lih : ∃ s1 xs, ComputeReady mA g0 (clsD mA 3) 3 [3] i3 [i3] [0] s1 xs ∧ readDst i3 = true ∧
    immUnsigned (⟨none, 0x7FFF⟩ : Imm 15) < 2 ^ 24 :=
  ⟨_, _, ⟨⟨rfl, by decide +kernel, by decide +kernel⟩, rfl, rfl, rfl, rfl, rfl, ok_pair (by decide +kernel)⟩, rfl, by decide⟩
theorem witness_sel : ∃ s1 xs, ComputeReady mA g0 (clsD mA 3) 3 [1, 2] i3 [i1, i2] [0] s1 xs ∧ sameFamily [i3, i1, i2] = true :=
  ⟨_, _, ⟨⟨rfl, by decide +kernel, by decide +kernel⟩, rfl, rfl, rfl, rfl, rfl, ok_pair (by decide +kernel)⟩, rfl⟩
theorem witness_ins : ∃ s1 xs, ComputeReady mA g0 (clsD mA 3) 3 [3, 1] i3 [i3, i1] [0] s1 xs ∧ allInt [i3, i3, i1] = true :=
  ⟨_, _, ⟨⟨rfl, by decide +kernel, by decide +kernel⟩, rfl, rfl, rfl, rfl, rfl, ok_pair (by decide +kernel)⟩, rfl⟩
-- FloatingPointResultsRoundOnce
theorem witness_float : ∃ s1 xs vals fl s2, ComputeReady mA g0 (clsD mA 7) 7 [5, 6] i7 [i5, i6] [0] s1 xs ∧
    allFp [i7, i5, i6] = true ∧
    collect [0] (fun l => fpFit i7 (modeOf 0 i7) (((nth xs 0).fval l).add ((nth xs 1).fval l))) = .ok (vals, fl) ∧
    writeDst s1 i7 [0] vals = .ok s2 :=
  ⟨_, _, _, _, _, ⟨⟨rfl, by decide +kernel, by decide +kernel⟩, rfl, rfl, rfl, rfl, rfl, ok_pair (by decide +kernel)⟩, rfl,
    ok_pair (by decide +kernel), ok_of (by decide +kernel)⟩
theorem witness_ffma : ∃ s1 xs, ComputeReady mA g0 (clsD mA 7) 7 [7, 5, 6] i7 [i7, i5, i6] [0] s1 xs ∧
    allFp [i7, i7, i5, i6] = true ∧ readDst i7 = true :=
  ⟨_, _, ⟨⟨rfl, by decide +kernel, by decide +kernel⟩, rfl, rfl, rfl, rfl, rfl, ok_pair (by decide +kernel)⟩, rfl, rfl⟩
theorem witness_fun : ∃ s1 xs, ComputeReady mA g0 (clsD mA 7) 7 [5] i7 [i5] [0] s1 xs ∧ allFp [i7, i5] = true ∧
    fcvtOk i7 [i5] = true :=
  ⟨_, _, ⟨⟨rfl, by decide +kernel, by decide +kernel⟩, rfl, rfl, rfl, rfl, rfl, ok_pair (by decide +kernel)⟩, rfl, rfl⟩
-- ComparesWritePredicates
theorem witness_cmp : ∃ s1 xs, infos (curStrand mA) [1, 2] = some (i1 :: [i2]) ∧ (i1 :: [i2]).all (·.srcKind) = true ∧
    Enabled mA .uniform g0 [0] ∧ readSrcs mA [i1, i2] [] = .ok (s1, xs) ∧ allInt [i1, i2] = true :=
  ⟨_, _, rfl, rfl, ⟨rfl, by decide +kernel, by decide +kernel⟩, ok_pair (by decide +kernel), rfl⟩
theorem witness_fcmp : ∃ s1 xs, infos (curStrand mA) [5, 6] = some (i5 :: [i6]) ∧
    readSrcs mA [i5, i6] [] = .ok (s1, xs) ∧ allFp [i5, i6] = true := ⟨_, _, rfl, ok_pair (by decide +kernel), rfl⟩
theorem witness_cmpi : ∃ s1 xs, infos (curStrand mL) [8] = some (i8 :: []) ∧ Enabled mL .lane ⟨false, 1⟩ [0, 1, 3] ∧
    readSrcs mL [i8] [] = .ok (s1, xs) ∧ allInt [i8] = true :=
  ⟨_, _, rfl, ⟨rfl, by decide +kernel, by decide +kernel⟩, ok_pair (by decide +kernel), rfl⟩

-- LaneTransfersToUniformNames: with lanes, with none, VLANE naming an enabled lane and one that is not
theorem witness_vfirst : ∃ s1 xs s2, LaneToUniformReady mL ⟨false, 1⟩ 4 [8] i4 [i8] [0, 1, 3] s1 xs ∧ laneName i8 = true ∧
    sameFamily [i4, i8] = true ∧ [0, 1, 3].head? = some 0 ∧ redTypes 0 [i4, i8] = true ∧
    writeOne s1 i4 (moveFit i4 i4.mode (nth xs 0) 0) = .ok s2 :=
  ⟨_, _, _, ⟨⟨rfl, by decide +kernel, by decide +kernel⟩, rfl, rfl, rfl, ok_pair (by decide +kernel)⟩, rfl, rfl, rfl, rfl, ok_of (by decide +kernel)⟩
theorem witness_vfirstNone : ∃ s1 xs, LaneToUniformReady mL ⟨false, 2⟩ 4 [8] i4 [i8] [] s1 xs :=
  ⟨_, _, ⟨⟨rfl, by decide +kernel, by decide +kernel⟩, rfl, rfl, rfl, ok_pair (by decide +kernel)⟩⟩
theorem witness_vlane : ∃ s1 xs s2, LaneToUniformReady mL ⟨false, 1⟩ 4 [8, 1] i4 [i8, i1] [0, 1, 3] s1 xs ∧
    uniSrc i1 = true ∧ i1.isInt = true ∧ 1 ∈ [0, 1, 3] ∧ ((1 : Nat) : Int) = (nth xs 1).int 0 ∧
    writeOne s1 i4 (moveFit i4 i4.mode (nth xs 0) 1) = .ok s2 :=
  ⟨_, _, _, ⟨⟨rfl, by decide +kernel, by decide +kernel⟩, rfl, rfl, rfl, ok_pair (by decide +kernel)⟩, rfl, rfl, by decide, by decide +kernel, ok_of (by decide +kernel)⟩
theorem witness_vlaneNone : ∃ s1 xs, LaneToUniformReady mL ⟨false, 1⟩ 4 [8, 8] i4 [i8, i8] [0, 1, 3] s1 xs ∨
    (LaneToUniformReady mL ⟨false, 2⟩ 4 [8, 1] i4 [i8, i1] [] s1 xs ∧ ∀ l ∈ ([] : List Nat), (l : Int) ≠ (nth xs 1).int 0) :=
  ⟨_, _, .inr ⟨⟨⟨rfl, by decide +kernel, by decide +kernel⟩, rfl, rfl, rfl, ok_pair (by decide +kernel)⟩, by decide⟩⟩
theorem witness_vpredCount : ∃ s1 xs, LaneToUniformReady mL ⟨false, 0⟩ 4 [] i4 [] (List.range 16) s1 xs :=
  ⟨_, _, ⟨⟨rfl, by decide +kernel, by decide +kernel⟩, rfl, rfl, rfl, ok_pair (by decide +kernel)⟩⟩
-- LaneWideResults
theorem witness_vidx : ∃ s1 xs vals fl s2, ComputeReady mL ⟨false, 1⟩ .lane 8 [] i8 [] [0, 1, 3] s1 xs ∧ i8.isInt = true ∧
    collect [0, 1, 3] (fun l => fitInt i8 (modeOf 0 i8) (l : Int)) = .ok (vals, fl) ∧ writeDst s1 i8 [0, 1, 3] vals = .ok s2 :=
  ⟨_, _, _, _, _, ⟨⟨rfl, by decide +kernel, by decide +kernel⟩, rfl, rfl, rfl, rfl, rfl, ok_pair (by decide +kernel)⟩, rfl,
    ok_pair (by decide +kernel), ok_of (by decide +kernel)⟩
theorem witness_vshuf : ∃ s1 xs, ComputeReady mL ⟨false, 1⟩ .lane 8 [8, 1] i8 [i8, i1] [0, 1, 3] s1 xs ∧ laneName i8 = true ∧
    sameFamily [i8, i8] = true :=
  ⟨_, _, ⟨⟨rfl, by decide +kernel, by decide +kernel⟩, rfl, rfl, rfl, rfl, rfl, ok_pair (by decide +kernel)⟩, rfl, rfl⟩
theorem witness_vscan : ∃ s1 xs vals total fl fl' s2 s3, Enabled mL .lane ⟨false, 1⟩ [0, 1, 3] ∧
    nameInfo (curStrand mL).map 8 = some i8 ∧ nameInfo (curStrand mL).map 4 = some i4 ∧ uniDst i4 = true ∧
    redTypes 0 [i8, i8, i4] = true ∧ readSrcs mL [i8] [] = .ok (s1, xs) ∧
    collect [0, 1, 3] (fun l => reduceFit 0 i8 (nth xs 0) ([0, 1, 3].filter (· ≤ l))) = .ok (vals, fl) ∧
    reduceFit 0 i4 (nth xs 0) [0, 1, 3] = .ok (total, fl') ∧ writeDst s1 i8 [0, 1, 3] vals = .ok s2 ∧
    writeDst s2 i4 [0] (fun _ => total) = .ok s3 :=
  ⟨_, _, _, _, _, _, _, _, ⟨rfl, by decide +kernel, by decide +kernel⟩, rfl, rfl, rfl, rfl, ok_pair (by decide +kernel),
    ok_pair (by decide +kernel), ok_pair (by decide +kernel), ok_of (by decide +kernel), ok_of (by decide +kernel)⟩
-- PredicateInstructionsResults
theorem witness_plog : Enabled mA .uniform g0 [0] ∧ (2 : BitVec 4).toNat < 8 ∧ Enabled mL .lane ⟨false, 1⟩ [0, 1, 3] ∧
    8 < (9 : BitVec 4).toNat :=
  ⟨⟨rfl, by decide +kernel, by decide +kernel⟩, by decide, ⟨rfl, by decide +kernel, by decide +kernel⟩, by decide⟩
theorem witness_pmov : (∃ s1 xs, UniformReady mA g0 [1] [] [i1] [] s1 xs) ∧
    ∃ s1 xs, UniformReady mA g0 [] [1] [] [i1] s1 xs ∧ allInt [i1] = true :=
  ⟨⟨_, _, rfl, by decide +kernel, rfl, rfl, rfl, rfl, ok_pair (by decide +kernel)⟩, _, _, ⟨rfl, by decide +kernel, rfl, rfl, rfl, rfl, ok_pair (by decide +kernel)⟩, rfl⟩
-- BranchesCallsAndLoops: aligned and misaligned targets, a counter that ends and one that goes on
theorem witness_call : ∃ s2, Enabled (mach [] roam) .uniform g0 [0] ∧ linkName (curStrand (mach [] roam)) = some i10 ∧
    writeDst (mach [] roam) i10 [0] (fun _ => 0x4000_0004) = .ok s2 :=
  ⟨_, ⟨rfl, by decide +kernel, by decide +kernel⟩, rfl, ok_of (by decide +kernel)⟩
theorem witness_jr : ∃ s1 xs, UniformReady (mach [(1, 0, 8), (2, 0, 6)]) g0 [] [1] [] [i1] s1 xs ∧ targetName [i1] = true ∧
    (nth xs 0).pat 0 % 2 ^ 48 % 4 = 0 :=
  ⟨_, _, ⟨rfl, by decide +kernel, rfl, rfl, rfl, rfl, ok_pair (by decide +kernel)⟩, rfl, by decide +kernel⟩
theorem witness_jrMisaligned : ∃ s1 xs, UniformReady (mach [(1, 0, 8), (2, 0, 6)]) g0 [] [2] [] [i2] s1 xs ∧
    (nth xs 0).pat 0 % 2 ^ 48 % 4 ≠ 0 :=
  ⟨_, _, ⟨rfl, by decide +kernel, rfl, rfl, rfl, rfl, ok_pair (by decide +kernel)⟩, by decide +kernel⟩
theorem witness_loop : ∃ s1 xs v fl s2, UniformReady (mach [(1, 0, 1)]) g0 [1] [1] [i1] [i1] s1 xs ∧ i1.kind = 0 ∧
    fitInt i1 i1.mode ((nth xs 0).int 0 - 1) = .ok (v, fl) ∧ writeOne s1 i1 (.ok (v, fl)) = .ok s2 :=
  ⟨_, _, _, _, _, ⟨rfl, by decide +kernel, rfl, rfl, rfl, rfl, ok_pair (by decide +kernel)⟩, rfl,
    ok_pair (by decide +kernel), ok_of (by decide +kernel)⟩
-- ResizeAndRepackProceed: a width kept, a width changed, rows to write and the last one
theorem witness_rsz : nameInfo (curStrand mA).map 3 = some i3 ∧ Enabled mA (clsD mA 3) g0 [0] ∧
    rszStatic i3 g0 0 0 7 = true ∧ rszWidth 7 = i3.width ∧ rszStatic i3 g0 0 0 15 = true ∧ rszWidth 15 ≠ i3.width ∧
    (coreAt mA (curP mA)).repack = none ∧ badRowIn (coreAt mA (curP mA)) (i3.kind == 1) (rszSpan (curStrand mA) i3 16).1
      (rszSpan (curStrand mA) i3 16).2 = none ∧ rszWidth 15 ≤ i3.width + headroom (curStrand mA) (i3.kind == 1) :=
  ⟨rfl, ⟨rfl, by decide +kernel, by decide +kernel⟩, by decide +kernel⟩

/-- A repack of two rows of core 0, none or one of them done. -/
def repacking (done : Nat) : Repack := ⟨0, false, 0, 2, done, 0, 0, ⟨0, names⟩, 0, 0x4000_0004⟩
theorem witness_repack : (coreAt { mA with cores := [(0, { core [] with repack := some (repacking 0) })] } 0).repack =
      some (repacking 0) ∧ (repacking 0).done + 1 < (repacking 0).n ∧ ¬ ((repacking 1).done + 1 < (repacking 1).n) ∧
    tget mA.strands (repacking 0).key = some (curStrand mA) := by decide +kernel
theorem witness_widq : ∃ s1 xs, nameInfo (curStrand mA).map 3 = some i3 ∧ UniformReady mA g0 [1] [] [i1] [] s1 xs :=
  ⟨_, _, rfl, rfl, by decide +kernel, rfl, rfl, rfl, rfl, ok_pair (by decide +kernel)⟩

/-- Name 4 holds 3, name 2 holds 9, 0x1122334455667788 at 0x100. -/
def mM : State := machM 0x1122334455667788 [(2, 0, 9), (4, 0, 3)]

-- LoadsFitWhatTheyReadAndPrefOnlyAdvances: each of the four shapes of a form, near; a far address is one of the vault
theorem witness_load : ∃ s1 s2 s3 s4 xs eas ts vs vals fl,
    AccessReady mM g0 (.imm ⟨none, 0⟩ 3) false 2 1 i2 [i1] [0] s1 s2 xs eas ts ∧ readable s2 ts 8 = .ok () ∧
    readTouches 8 s2 ts = .ok (s3, vs) ∧ collect [0] (fun l => loadFit i2 8 (laneVal vs l)) = .ok (vals, fl) ∧
    writeDst s3 i2 [0] vals = .ok s4 :=
  ⟨_, _, _, _, _, _, _, _, _, _,
    ⟨⟨rfl, by decide +kernel, by decide +kernel⟩, rfl, rfl, rfl, rfl, rfl, rfl, ok_pair (by decide +kernel), rfl,
      ok_pair (by decide +kernel)⟩, ok_unit (by decide +kernel), ok_pair (by decide +kernel), ok_pair (by decide +kernel),
    ok_of (by decide +kernel)⟩
theorem witness_loadIndexed : ∃ s1 s2 xs eas ts, AccessReady mM g0 (.indexed 4 1) false 2 1 i2 [i1, i4] [0] s1 s2 xs eas ts :=
  ⟨_, _, _, _, _, ⟨rfl, by decide +kernel, by decide +kernel⟩, rfl, rfl, rfl, rfl, rfl, rfl, ok_pair (by decide +kernel), rfl,
      ok_pair (by decide +kernel)⟩
theorem witness_loadOrdered : ∃ s1 s2 s2' xs eas ts, AccessReady mM g0 (.ordered 5 2 3) false 2 1 i2 [i1] [0] s1 s2 xs eas ts ∧
    settleStores s2 = .ok s2' :=
  ⟨_, _, _, _, _, _, ⟨⟨rfl, by decide +kernel, by decide +kernel⟩, rfl, rfl, rfl, rfl, rfl, rfl, ok_pair (by decide +kernel), rfl,
      ok_pair (by decide +kernel)⟩, ok_of (by decide +kernel)⟩

/-- Lanes 0, 1 and 3 with indices 0, 3 and 1. -/
def mG : State := machM 0x1122334455667788 ((9, 1, 3) :: (9, 3, 1) :: lanesV) inThree
theorem witness_loadGather : ∃ s1 s2 xs eas ts,
    AccessReady mG ⟨false, 1⟩ (.gather 9 1) false 8 1 i8 [i1, i9] [0, 1, 3] s1 s2 xs eas ts ∧ readable s2 ts 2 = .ok () :=
  ⟨_, _, _, _, _, ⟨⟨rfl, by decide +kernel, by decide +kernel⟩, rfl, rfl, rfl, rfl, rfl, rfl, ok_pair (by decide +kernel), rfl,
      ok_pair (by decide +kernel)⟩, ok_unit (by decide +kernel)⟩
theorem witness_loadFar : ∃ s1 s2 xs eas ts, AccessReady (mach [(1, 0, 0x400_0100)]) g0 (.imm ⟨none, 0⟩ 3) false 2 1 i2 [i1] [0]
    s1 s2 xs eas ts ∧ anyFar eas = true ∧ (∀ e ∈ eas, isNear e.2 = true) ∧ ∀ y ∈ ts, ∃ pa leaf, y.tgt = .mem pa leaf :=
  ⟨_, _, _, _, _, ⟨⟨rfl, by decide +kernel, by decide +kernel⟩, rfl, rfl, rfl, rfl, rfl, rfl, ok_pair (by decide +kernel), rfl,
      ok_pair (by decide +kernel)⟩, by decide +kernel, by decide +kernel, fun y h => by
        have : y = ⟨0, 0x400_0100, .mem 0x100 none⟩ := by
          revert y; decide +kernel
        exact ⟨_, _, by rw [this]⟩⟩
theorem witness_pref : ∃ s1 xs, Enabled mM .uniform g0 [0] ∧ infos (curStrand mM) [1] = some [i1] ∧ uniSrc i1 = true ∧
    i1.isInt = true ∧ readSrcs mM [i1] [] = .ok (s1, xs) :=
  ⟨_, _, ⟨rfl, by decide +kernel, by decide +kernel⟩, rfl, rfl, rfl, ok_pair (by decide +kernel)⟩

/-- Name 1 is an inbox, and it is empty. -/
def mInbox : State := mach [] fun t => { t with map := ⟨0, ent 2 0 64 0 :: names.tail⟩ }
theorem witness_prefEmptyInbox : Enabled mInbox .uniform g0 [0] ∧ ∃ ai, infos (curStrand mInbox) [1] = some [ai] ∧
    uniSrc ai = true ∧ ai.isInt = true ∧ ∃ e, readSrcs mInbox [ai] [] = .error e :=
  ⟨⟨rfl, by decide +kernel, by decide +kernel⟩, ⟨1, 2, 0, 64, 0, 0⟩, rfl, rfl, rfl, error_of (by decide +kernel)⟩
/-- No repack has locked ND's rows, in the states of the loads above. -/
theorem witness_loadUnlocked : nameLocked (coreAt mM (curP mM)) (curStrand mM) i2 = false ∧
    nameLocked (coreAt mG (curP mG)) (curStrand mG) i8 = false := by decide +kernel
-- StoresWriteWhatTheyFit: a plain store, and a release above strand scope
theorem witness_store : ∃ s1 s2 s4 xs eas ts vals fl,
    AccessReady mM g0 (.imm ⟨none, 0⟩ 3) true 2 1 i2 [i1] [0] s1 s2 xs eas ts ∧ stateGuard s2 8 ts = .ok () ∧
    overwritable s2 ts 8 = .ok () ∧ collect [0] (fun l => storeFit 8 (nth xs 0) l) = .ok (vals, fl) ∧
    relaxed s2 = .ok s2 ∧ writeTouches (plainWrite 8) vals s2 ts = .ok s4 :=
  ⟨_, _, _, _, _, _, _, _,
    ⟨⟨rfl, by decide +kernel, by decide +kernel⟩, rfl, rfl, rfl, rfl, rfl, rfl, ok_pair (by decide +kernel), rfl,
      ok_pair (by decide +kernel)⟩, ok_unit (by decide +kernel), ok_unit (by decide +kernel),
    ok_pair (by decide +kernel), rfl,
    ok_of (by decide +kernel)⟩
theorem witness_storeRelease : ∃ s1 s2 s3 s4 xs eas ts vals fl,
    AccessReady mM g0 (.ordered 4 1 3) true 2 1 i2 [i1] [0] s1 s2 xs eas ts ∧ stateGuard s2 8 ts = .ok () ∧
    overwritable s2 ts 8 = .ok () ∧ collect [0] (fun l => storeFit 8 (nth xs 0) l) = .ok (vals, fl) ∧
    release s2 = .ok s3 ∧ writeTouches (plainWrite 8) vals s3 ts = .ok s4 :=
  ⟨_, _, _, _, _, _, _, _, _,
    ⟨⟨rfl, by decide +kernel, by decide +kernel⟩, rfl, rfl, rfl, rfl, rfl, rfl, ok_pair (by decide +kernel), rfl,
      ok_pair (by decide +kernel)⟩, ok_unit (by decide +kernel), ok_unit (by decide +kernel),
    ok_pair (by decide +kernel), ok_of (by decide +kernel),
    ok_of (by decide +kernel)⟩
/-- A supervisor strand whose launch maps the device window at 0x5000_0000; name 1 holds an address there. -/
def mDev (ea : Nat) : State :=
  { mach [(1, 0, ea), (2, 0, 9)] fun t => { t with sv := true } with
      launches := [(1, { probeLaunch with ranges := [⟨0x5000_0000, 0x5000_FFFF, 0xF000_0000_0000, 0xD⟩] })] }
/-- At LQPUSH. -/
def mPush : State := mDev 0x5000_0000
-- and a push of a launch header, to LQPUSH of the device window
theorem witness_storePush : ∃ s1 s2 s3 s4 xs eas ts vals fl,
    AccessReady mPush g0 (.imm ⟨none, 0⟩ 3) true 2 1 i2 [i1] [0] s1 s2 xs eas ts ∧ stateGuard s2 8 ts = .ok () ∧
    overwritable s2 ts 8 = .ok () ∧ collect [0] (fun l => storeFit 8 (nth xs 0) l) = .ok (vals, fl) ∧ ts.any isPush = true ∧
    release s2 = .ok s3 ∧ writeTouches (plainWrite 8) vals s3 ts = .ok s4 :=
  ⟨_, _, _, _, _, _, _, _, _,
    ⟨⟨rfl, by decide +kernel, by decide +kernel⟩, rfl, rfl, rfl, rfl, rfl, rfl, ok_pair (by decide +kernel), rfl,
      ok_pair (by decide +kernel)⟩, ok_unit (by decide +kernel), ok_unit (by decide +kernel),
    ok_pair (by decide +kernel), by decide +kernel, ok_of (by decide +kernel),
    ok_of (by decide +kernel)⟩
-- MisalignedAccessTrapsAlign: an address one below the alignment, in the only lane, and in lane 1 behind an aligned lane 0
theorem witness_misaligned : ∃ s1 s1' xs xs', let s := mach [(1, 0, 0x107)]; let x := MemForm.imm ⟨none, 0⟩ 3
    Enabled s (x.cls s 2) g0 ([] ++ 0 :: []) ∧ readSrcs s [i1] [] = .ok (s1, xs) ∧ readSrcs s [i2, i1] [] = .ok (s1', xs') ∧
    x.address xs 0 % x.size ≠ 0 ∧ x.address (xs'.drop 1) 0 % x.size ≠ 0 ∧ sizeOk i2 8 = true :=
  ⟨_, _, _, _, ⟨rfl, by decide +kernel, by decide +kernel⟩, ok_pair (by decide +kernel), ok_pair (by decide +kernel),
    by decide +kernel, by decide +kernel, rfl⟩
/-- Name 8 as an address in lanes 0 and 1, the second odd. -/
def mOdd : State := machM 0 [(8, 0, 0x100), (8, 1, 0x101)] fun t => [0, 1].foldl (fun t l => setQ t l 1 true) t
theorem witness_misalignedLater : ∃ s1 s1' xs xs' t t', let x := MemForm.imm ⟨none, 0⟩ 1
    Enabled mOdd (x.cls mOdd 8) ⟨false, 1⟩ ([0] ++ 1 :: []) ∧ accessKinds (x.cls mOdd 8) true i8 [i8] = true ∧
    readSrcs mOdd [i8] [] = .ok (s1, xs) ∧ readSrcs mOdd [i8, i8] [] = .ok (s1', xs') ∧ x.address xs 1 % x.size ≠ 0 ∧
    passOne s1 x.group x.size (x.address xs 0) = .ok t ∧ passOne s1' x.group x.size (x.address (xs'.drop 1) 0) = .ok t' ∧
    x.address (xs'.drop 1) 1 % x.size ≠ 0 ∧ nameLocked (coreAt mOdd (curP mOdd)) (curStrand mOdd) i8 = false :=
  ⟨_, _, _, _, _, _, ⟨rfl, by decide +kernel, by decide +kernel⟩, rfl, ok_pair (by decide +kernel), ok_pair (by decide +kernel),
    by decide +kernel, ok_of (by decide +kernel), ok_of (by decide +kernel), by decide +kernel, by decide +kernel⟩

-- FullEmptyInstructionsResults: LDT of a full word, PUT, FESET, FETEST
theorem witness_ldt : ∃ s1 s2 s3 s4 s5 xs ts vals fl, Enabled mM (clsD mM 2) g0 [0] ∧ sizeOk i2 8 = true ∧
    nameLocked (coreAt mM (curP mM)) (curStrand mM) i2 = false ∧
    accessKinds (clsD mM 2) true i2 [i1] = true ∧ i2.dstKind = true ∧ readSrcs mM [i1] [] = .ok (s1, xs) ∧
    checkAll mM mM .take [.read, .write] 8 0 (([0].map fun l => (l, immAddr 8 (⟨none, 0⟩ : Imm 9) xs l)).filter fun e =>
      (takenBy (curStrand mM) e.1 e.2).isNone) = .ok (s2, ts) ∧
    takeable s2 ts = .ok () ∧ awaitTakes s2 (ts.map (takeFor (curStrand mM))) = .ok s3 ∧
    collect [0] (fun l => loadFit i2 8 (laneTaken (curStrand s3) ([0].map fun l => (l, immAddr 8 (⟨none, 0⟩ : Imm 9) xs l)) l)) =
      .ok (vals, fl) ∧
    readSrcs s3 [i1] [] = .ok (s4, xs) ∧ writeDst s4 i2 [0] vals = .ok s5 :=
  ⟨_, _, _, _, _, _, _, _, _, ⟨rfl, by decide +kernel, by decide +kernel⟩, rfl, by decide +kernel, rfl, rfl,
    ok_pair (by decide +kernel), ok_pair (by decide +kernel), ok_unit (by decide +kernel), ok_of (by decide +kernel), ok_pair (by decide +kernel),
    ok_snd (by decide +kernel) (srcs_eq (by decide +kernel)), ok_of (by decide +kernel)⟩
-- R170: a lane that was granted 5 before a trap keeps it, and the word, full again by now, is not taken
theorem test_ldt_granted : out (exec (.ldt g0 2 1 ⟨none, 0⟩)
    (setCur mM fun t => { t with takes := [⟨0x4000_0000, 0, 0x100, lsBase 0 + 0x100, some 5⟩] })) (fun s =>
      (outName (.next s) 2, wordFull s (lsBase 0 + 0x100))) = some (some 5, true) := by decide +kernel
/-- A repack has locked row 1, in which name 2 lies. -/
def mLocked : State :=
  { mM with cores := [(0, { core [(2, 0, 9), (4, 0, 3), (1, 0, 0x100)] with repack := some ⟨1, false, 1, 1, 0, 0, 0, ⟨0, names⟩, 0, 0⟩ })] }
-- loads, LDT, LDK, POST, POP, RSV, FAA, SWP and CAS with ND's row locked
theorem witness_locked : (∃ s1 xs, Enabled mLocked (clsD mLocked 2) g0 [0] ∧ readSrcs mLocked [i1] [] = .ok (s1, xs) ∧
      UniformReady mLocked g0 [2] [1] [i2] [i1] s1 xs ∧ (curStrand s1).holds = none ∧ accessKinds (clsD mLocked 2) true i2 [i1] = true ∧
      UniformReady mLocked g0 [2] [] [i2] [] mLocked [] ∧
      nameLocked (coreAt mLocked (curP mLocked)) (curStrand mLocked) i2 = true ∧
      nameLocked (coreAt s1 (curP s1)) (curStrand s1) i2 = true) ∧
    ∃ s1 xs, UniformReady mLocked g0 [2] [1, 4] [i2] [i1, i4] s1 xs ∧ readDst i2 = true ∧
      infos (curStrand mLocked) [1, 4, 2] = some [i1, i4, i2] ∧
      readSrcs mLocked [i1, i4, i2] [] = .error (.park .repack none) :=
  ⟨⟨_, _, ⟨rfl, by decide +kernel, by decide +kernel⟩, ok_pair (by decide +kernel),
      ⟨rfl, by decide +kernel, rfl, rfl, rfl, rfl, ok_pair (by decide +kernel)⟩, by decide +kernel, rfl,
      ⟨rfl, by decide +kernel, rfl, rfl, rfl, rfl, rfl⟩, by decide +kernel, by decide +kernel⟩,
    _, _, ⟨rfl, by decide +kernel, rfl, rfl, rfl, rfl, ok_pair (by decide +kernel)⟩, rfl, rfl, rfl⟩
theorem witness_put : ∃ s1 s2 s3 s4 xs ts vals fl, i2.srcKind = true ∧ readSrcs mM [i2, i1] [] = .ok (s1, xs) ∧
    checkAll mM s1 .take [.write] 8 1 [(0, immAddr 8 (⟨none, 0⟩ : Imm 9) (xs.drop 1) 0)] = .ok (s2, ts) ∧
    stateGuard s2 8 ts = .ok () ∧ overwritable s2 ts 8 = .ok () ∧
    collect [0] (fun l => storeFit 8 (nth xs 0) l) = .ok (vals, fl) ∧ release s2 = .ok s3 ∧
    writeTouches putWrite vals s3 ts = .ok s4 :=
  ⟨_, _, _, _, _, _, _, _, rfl, ok_pair (by decide +kernel), ok_pair (by decide +kernel), ok_unit (by decide +kernel),
    ok_unit (by decide +kernel), ok_pair (by decide +kernel), ok_of (by decide +kernel), ok_of (by decide +kernel)⟩
theorem witness_feset : ∃ s1 s2 s3 xs, UniformReady mM g0 [] [1] [] [i1] s1 xs ∧ i1.isInt = true ∧
    0x100 = immAddr 8 (⟨none, 0⟩ : Imm 9) xs 0 ∧
    checkAll mM s1 .take [.write] 8 1 [(0, 0x100)] = .ok (s2, [⟨0, 0x100, .mem (lsBase 0 + 0x100) none⟩]) ∧
    release s2 = .ok s3 :=
  ⟨_, _, _, _, ⟨rfl, by decide +kernel, rfl, rfl, rfl, rfl, ok_pair (by decide +kernel)⟩, rfl, by decide +kernel,
    ok_snd (by decide +kernel) (by decide +kernel), ok_of (by decide +kernel)⟩
theorem witness_fetest : ∃ s1 s2 xs, UniformReady mM g0 [] [1] [] [i1] s1 xs ∧
    checkAll mM s1 .take [.read] 8 0 [(0, 0x100)] = .ok (s2, [⟨0, 0x100, .mem (lsBase 0 + 0x100) none⟩]) :=
  ⟨_, _, _, ⟨rfl, by decide +kernel, rfl, rfl, rfl, rfl, ok_pair (by decide +kernel)⟩,
    ok_snd (by decide +kernel) (by decide +kernel)⟩
-- ReservationFormsResults
/-- The state in which the word of a claim is on its way. -/
def claimed (s : State) (w : Nat) : State :=
  match claimWord s w with
  | .mine s' => s'
  | .wait s' => s'

/-- The claim is granted. -/
def isMine : Claim → Bool
  | .mine _ => true
  | .wait _ => false

theorem claim_of {s : State} {w : Nat} (h : isMine (claimWord s w) = true) : claimWord s w = .mine (claimed s w) := by
  unfold claimed
  cases e : claimWord s w with
  | mine s' => rfl
  | wait _ => rw [e] at h; cases h

theorem some_of {α : Type} {o : Option α} (h : o.isSome = true) : o = some (o.get h) := by simp

theorem witness_rsv : ∃ s1 s2 s3 s4 s5 xs q r, UniformReady mM g0 [2] [1] [i2] [i1] s1 xs ∧ sizeOk i2 8 = true ∧
    (curStrand s1).holds = none ∧ nameLocked (coreAt s1 (curP s1)) (curStrand s1) i2 = false ∧
    0x100 = immAddr 8 (⟨none, 0⟩ : Imm 9) xs 0 ∧ atomicAt mM [.read] 0x100 = .ok (s2, ⟨0, 0x100, .mem (lsBase 0 + 0x100) none⟩) ∧
    claimWord s2 (lsBase 0 + 0x100) = .mine s3 ∧ tget s3.rsvs (lsBase 0 + 0x100) = some q ∧
    loadFit i2 8 (loadPhys s3 (lsBase 0 + 0x100) 8) = .ok r ∧ readSrcs s3 [(nth xs 0).info] [] = .ok (s4, xs) ∧
    writeOne s4 i2 (.ok r) = .ok s5 :=
  ⟨_, _, _, _, _, _, _, _, ⟨rfl, by decide +kernel, rfl, rfl, rfl, rfl, ok_pair (by decide +kernel)⟩, rfl, by decide +kernel,
    by decide +kernel, by decide +kernel, ok_snd (by decide +kernel) (by decide +kernel), claim_of (by decide +kernel),
    some_of (by decide +kernel), ok_of (by decide +kernel), ok_snd (by decide +kernel) (srcs_eq (by decide +kernel)),
    ok_of (by decide +kernel)⟩

/-- The strand holds the word at 0x100. -/
def mH : State := machM 5 [(2, 0, 9)] fun t => { t with holds := some (lsBase 0 + 0x100, 0x100, 0) }
theorem witness_rel : ∃ s1 s2 s3 xs r, UniformReady mH g0 [] [2, 1] [] [i2, i1] s1 xs ∧
    0x100 = immAddr 8 (⟨none, 0⟩ : Imm 9) (xs.drop 1) 0 ∧ (curStrand s1).holds = some (lsBase 0 + 0x100, 0x100, 0) ∧
    checkAll mH s1 .atomic [.write] 8 1 [(0, 0x100)] = .ok (s2, [⟨0, 0x100, .mem (lsBase 0 + 0x100) none⟩]) ∧
    stateGuard s2 8 [⟨0, 0x100, .mem (lsBase 0 + 0x100) none⟩] = .ok () ∧
    storeFit 8 (nth xs 0) 0 = .ok r ∧ release s2 = .ok s3 :=
  ⟨_, _, _, _, _, ⟨rfl, by decide +kernel, rfl, rfl, rfl, rfl, ok_pair (by decide +kernel)⟩, by decide +kernel,
    by decide +kernel, ok_snd (by decide +kernel) (by decide +kernel), ok_unit (by decide +kernel), ok_of (by decide +kernel), ok_of (by decide +kernel)⟩
theorem witness_fused : ∃ s1 s2 s3 s4 xs r s5 xs' s6, UniformReady mM g0 [2] [1, 4, 2] [i2] [i1, i4, i2] s1 xs ∧
    0x100 = ((nth xs 0).pat 0 % 2 ^ 48 : Nat) ∧ readDst i2 = true ∧
    nameLocked (coreAt mM (curP mM)) (curStrand mM) i2 = false ∧
    atomicAt mM [.read, .write] 0x100 = .ok (s2, ⟨0, 0x100, .mem (lsBase 0 + 0x100) none⟩) ∧
    stateGuard s2 8 [⟨0, 0x100, .mem (lsBase 0 + 0x100) none⟩] = .ok () ∧
    claimWord s2 (lsBase 0 + 0x100) = .mine s3 ∧ release s3 = .ok s4 ∧
    oldFit i2 (loadPhys s4 (lsBase 0 + 0x100) 8) = .ok r ∧
    readSrcs (releaseWord (storePhys (countTouch s4 ⟨0, 0x100, .mem (lsBase 0 + 0x100) none⟩ true) (some s4.cur)
      (lsBase 0 + 0x100) 8 7) (lsBase 0 + 0x100)) (xs.map (·.info)) [] = .ok (s5, xs') ∧ writeOne s5 i2 (.ok r) = .ok s6 :=
  ⟨_, _, _, _, _, _, _, _, _, ⟨rfl, by decide +kernel, rfl, rfl, rfl, rfl, ok_pair (by decide +kernel)⟩, by decide +kernel, rfl,
    by decide +kernel, ok_snd (by decide +kernel) (by decide +kernel), ok_unit (by decide +kernel), claim_of (by decide +kernel), ok_of (by decide +kernel),
    ok_of (by decide +kernel), ok_pair (by decide +kernel), ok_of (by decide +kernel)⟩
theorem witness_fusedTwo : ∃ s1 xs, UniformReady mM g0 [2] [1, 4] [i2] [i1, i4] s1 xs :=
  ⟨_, _, rfl, by decide +kernel, rfl, rfl, rfl, rfl, ok_pair (by decide +kernel)⟩

/-! A key/value region in the vault window: 2 layers of 64 tokens, dimension 32, BF16, policy STANDIN. Layer 1 is VALID
everywhere, layer 2 PENDING; token 5's backfill future is entry 5. -/

/-- Where the region's descriptor lies. -/
def kvAt : Nat := 0x400_0400

/-- The bytes: descriptor, states, futures, one word of token 5 in layer 1. -/
def kvMem : List Host.Cell :=
  let b := vaultBase 0
  let w (m : List Host.Cell) (x : Nat × Nat × Nat) : List Host.Cell := memWrite m (b + x.1) x.2.1 x.2.2
  [(0x400, 8, 5 + 2 * 2 ^ 32), (0x408, 8, 2 + 64 * 2 ^ 16 + 2 ^ 52), (0x410, 8, 0x400_0800), (0x418, 8, 0x400_0A00),
   (0x420, 8, 0x400_1000), (0x428, 8, 32), (0x430, 8, 0x400_0600), (0x605, 1, 1), (0x645, 1, 2),
   (0xA14, 4, 5), (0x1000 + 5 * 128, 8, 77)].foldl w []

/-- Name 1 holds the address of token 5 in layer `e`. -/
def mK (e : Nat) (vals : List (NameIx × Nat × Nat) := []) : State :=
  { mach ((1, 0, 0x400_1000 + ((e - 1) * 64 + 5) * 128) :: vals) with
      mem := kvMem, futures := [(5, { Future.reset with st := .pending, owner := 1 })],
      cores := [(0, { core ((1, 0, 0x400_1000 + ((e - 1) * 64 + 5) * 128) :: vals) with ctl := [(0x0D, word kvAt)] })] }

-- LDK of a layer that stands, and of a pending one through its stand-in; R174: KVDESC as captured at the issue
theorem test_ldk_captured : outName (exec (.ldk g0 2 1 ⟨none, 0⟩) (modCore (setCur (mK 1) fun t =>
    { t with answer := some (.kvdesc (word kvAt)) }) 0 fun c => { c with ctl := [] })) 2 = some 77 := by decide +kernel
theorem test_ldk : outName (exec (.ldk g0 2 1 ⟨none, 0⟩) (mK 1)) 2 = some 77 := by decide +kernel
theorem test_ldk_standin : outName (exec (.ldk g0 2 1 ⟨none, 0⟩) (mK 2)) 2 = some 77 ∧
    outFlags (exec (.ldk g0 2 1 ⟨none, 0⟩) (mK 2)) = some 0x80 := by decide +kernel
theorem witness_ldk (e : Nat) (he : e = 1 ∨ e = 2) : ∃ s1 s2 s3 s4 xs desc vs h vals fl, Enabled (mK e) (clsD (mK e) 2) g0 [0] ∧
    nameLocked (coreAt (mK e) (curP (mK e))) (curStrand (mK e)) i2 = false ∧ sizeOk i2 8 = true ∧ accessKinds (clsD (mK e) 2) true i2 [i1] = true ∧ readSrcs (mK e) [i1] [] = .ok (s1, xs) ∧
    ctlOf (coreAt (mK e) (curP (mK e))) 0x0D ≠ 0 ∧ (∀ l ∈ [0], immAddr 8 (⟨none, 0⟩ : Imm 9) xs l % 8 = 0) ∧
    strandKv (mK e) s1 (ctlOf (coreAt (mK e) (curP (mK e))) 0x0D) = .ok (s2, desc) ∧
    kvLoads (mK e) (ctlOf (coreAt (mK e) (curP (mK e))) 0x0D) desc s2 ([0].map fun l => (l, immAddr 8 (⟨none, 0⟩ : Imm 9) xs l)) = .ok (s3, vs, h) ∧
    collect [0] (fun l => loadFit i2 8 (laneVal vs l)) = .ok (vals, fl) ∧ writeDst s3 i2 [0] vals = .ok s4 := by
  rcases he with rfl | rfl <;>
  exact ⟨_, _, _, _, _, _, _, _, _, _, ⟨rfl, by decide +kernel, by decide +kernel⟩, by decide +kernel, rfl, by decide +kernel,
    ok_pair (by decide +kernel), by decide +kernel, by decide +kernel, ok_pair (by decide +kernel),
    ok_of (by decide +kernel), ok_pair (by decide +kernel), ok_of (by decide +kernel)⟩

/-- Name 1 holds an address of code. -/
def mS : State := mach [(1, 0, 0x5000), (2, 0, 1)]

/-- The same with helpers in slots 1 to 12. -/
def mS12 : State :=
  { mS with strands := mS.strands ++ (List.range 12).map fun i => (i + 1, { str with helper := true }) }

-- StartJoinAndExit: a slot free and none; a helper alive and none
theorem witness_start : ∃ s1 s2 xs m slot u l s3, UniformReady mS g0 [2] [1, 0] [i2] [i1, NameInfo.zero] s1 xs ∧ curSlot mS = 0 ∧
    allInt [i1, NameInfo.zero] = true ∧ (nth xs 0).pat 0 % 2 ^ 48 % 4 = 0 ∧ startImage s1 (nth xs 1) = .ok m ∧
    release s1 = .ok s2 ∧ helperSlot s1 (curP s1) = some slot ∧ findRegions s1 (curP s1) m none = .ok (u, l) ∧
    writeOne (setStrand
      { setCore s2 (curP s1) (zeroRegions (coreAt s2 (curP s1)) u (uniformSize m) l (laneSize m)) with nextUid := s2.nextUid + 1 }
      (16 * curP s1 + slot) (helperOf
        (setCore s2 (curP s1) (zeroRegions (coreAt s2 (curP s1)) u (uniformSize m) l (laneSize m)))
        (BitVec.ofNat 48 ((nth xs 0).pat 0 % 2 ^ 48)) m u l)) i2 (fitEither i2 slot) = .ok s3 :=
  ⟨_, _, _, _, _, _, _, _, ⟨rfl, by decide +kernel, rfl, rfl, rfl, rfl, ok_pair (by decide +kernel)⟩, by decide, rfl,
    by decide +kernel, ok_of (by decide +kernel), ok_of (by decide +kernel), some_of (by decide +kernel),
    ok_pair (by decide +kernel), ok_of (by decide +kernel)⟩
theorem witness_startNone : ∃ s1 s2 xs s3, UniformReady mS12 g0 [2] [1, 0] [i2] [i1, NameInfo.zero] s1 xs ∧
    helperSlot s1 (curP s1) = none ∧ release s1 = .ok s2 ∧ writeOne s2 i2 (fitEither i2 0) = .ok s3 :=
  ⟨_, _, _, _, ⟨rfl, by decide +kernel, rfl, rfl, rfl, rfl, ok_pair (by decide +kernel)⟩, by decide +kernel,
    ok_of (by decide +kernel), ok_of (by decide +kernel)⟩
theorem witness_join : (∃ s1 xs, UniformReady mS g0 [] [2] [] [i2] s1 xs ∧ 1 ≤ srcInt mS (nth xs 0) ∧ srcInt mS (nth xs 0) ≤ 12 ∧
      helperLive s1 (curP s1) (srcInt mS (nth xs 0)).toNat = false) ∧
    ∃ s1 xs, UniformReady mS12 g0 [] [2] [] [i2] s1 xs ∧ helperLive s1 (curP s1) (srcInt mS12 (nth xs 0)).toNat = true :=
  ⟨⟨_, _, ⟨rfl, by decide +kernel, rfl, rfl, rfl, rfl, ok_pair (by decide +kernel)⟩, by decide +kernel, by decide +kernel,
    by decide +kernel⟩, _, _, ⟨rfl, by decide +kernel, rfl, rfl, rfl, rfl, ok_pair (by decide +kernel)⟩, by decide +kernel⟩
theorem witness_exit : ∃ s1 t, Enabled mS .uniform g0 [0] ∧ (curStrand mS).holds = none ∧ helpersLive mS (curP mS) = false ∧
    helpersLive mS12 (curP mS12) = true ∧ (coreAt mS (curP mS)).wmb = [] ∧
    writesWaiting mS mS.cur = false ∧ release mS = .ok s1 ∧ exec (.exit g0) mS = .next t :=
  ⟨_, _, ⟨rfl, by decide +kernel, by decide +kernel⟩, by decide +kernel, by decide +kernel, by decide +kernel, by decide +kernel,
    by decide +kernel, ok_of (by decide +kernel), rfl⟩
-- YieldBindAndWaitForMessages: a bound class with and without a message; a class bound to the slot, to another and to none
def mB (mail : List Msg) : State :=
  { mS with cores := [(0, { core [(1, 0, 0)] with binds := [(1, 0)], mailbox := mail })] }
theorem witness_waitmsg : someBound (coreAt (mB []) 0) (curSlot (mB [])) = true ∧ boundMessage (coreAt (mB []) 0) 0 = false ∧
    boundMessage (coreAt (mB [⟨1, 7, 8⟩]) 0) 0 = true ∧ roaming (curStrand (mB [])) = false := by decide +kernel
def mRoaming : State := mach [] fun t => { t with role := 2 }
theorem witness_bindRoaming : ∃ s1 xs, UniformReady mRoaming g0 [] [1] [] [i1] s1 xs ∧ roaming (curStrand mRoaming) = true :=
  ⟨_, _, ⟨rfl, by decide +kernel, rfl, rfl, rfl, rfl, ok_pair (by decide +kernel)⟩, by decide +kernel⟩
-- BIND of a class that is free and has no message, and of one bound to this very slot that has one
theorem witness_bind (c : BitVec 2) (m : List Msg) (b : Bool) (h : c = 2 ∧ m = [] ∧ b = false ∨ c = 1 ∧ m = [⟨1, 7, 8⟩] ∧ b = true) :
    ∃ s1 xs, UniformReady (mB m) g0 [] [1] [] [i1] s1 xs ∧ srcInt (mB m) (nth xs 0) = 0 ∧
      slotFree s1 (curP s1) 0 = false ∧ hasMessage (coreAt s1 (curP s1)) c.toNat = b ∧
      (∀ slot, tget (coreAt s1 (curP s1)).binds c.toNat = some slot → (slot : Int) = 0) ∧
      roaming (curStrand (mB m)) = false := by
  rcases h with ⟨rfl, rfl, rfl⟩ | ⟨rfl, rfl, rfl⟩ <;>
  exact ⟨_, _, ⟨rfl, by decide +kernel, rfl, rfl, rfl, rfl, ok_pair (by decide +kernel)⟩, by decide +kernel, by decide +kernel,
    by decide +kernel, by intro slot h; revert h; revert slot; decide +kernel, by decide +kernel⟩
-- MonitorsAreArmedAndAwaited: WAITA with nothing armed completes, with a time limit it parks
-- both phases of MON and of MONX
theorem witness_mon : ∃ s1 s2 xs, UniformReady mM g0 [] [1] [] [i1] s1 xs ∧ plainAddr xs 0 = 0x100 ∧
    roaming (curStrand mM) = false ∧ (curStrand mM).answer = none ∧
    checkAll mM mM .watch [.read] 1 7 [(0, 0x100)] = .ok (s2, [⟨0, 0x100, .mem (lsBase 0 + 0x100) none⟩]) :=
  ⟨_, _, _, ⟨rfl, by decide +kernel, rfl, rfl, rfl, rfl, ok_pair (by decide +kernel)⟩, by decide +kernel, by decide +kernel,
    by decide +kernel, ok_snd (by decide +kernel) (by decide +kernel)⟩
-- with ND's row locked they park
theorem witness_lockedMonx : ∃ s1 xs, UniformReady mLocked g0 [2] [1] [i2] [i1] s1 xs ∧
    nameLocked (coreAt s1 (curP s1)) (curStrand s1) i2 = true ∧
    nameLocked (coreAt mLocked (curP mLocked)) (curStrand mLocked) i2 = true :=
  ⟨_, _, ⟨rfl, by decide +kernel, rfl, rfl, rfl, rfl, ok_pair (by decide +kernel)⟩, by decide +kernel, by decide +kernel⟩
theorem witness_monx : ∃ s1 s2 s3 xs v, UniformReady mM g0 [2] [1] [i2] [i1] s1 xs ∧
    nameLocked (coreAt s1 (curP s1)) (curStrand s1) i2 = false ∧
    checkAll mM mM .watch [.read] 8 7 [(0, 0x100)] = .ok (s2, [⟨0, 0x100, .mem (lsBase 0 + 0x100) none⟩]) ∧
    readable s2 [⟨0, 0x100, .mem (lsBase 0 + 0x100) none⟩] 8 = .ok () ∧
    readTouch s2 ⟨0, 0x100, .mem (lsBase 0 + 0x100) none⟩ 8 = .ok (s3, v) :=
  ⟨_, _, _, _, _, ⟨rfl, by decide +kernel, rfl, rfl, rfl, rfl, ok_pair (by decide +kernel)⟩, by decide +kernel,
    ok_snd (by decide +kernel) (by decide +kernel), ok_unit (by decide +kernel), ok_pair (by decide +kernel)⟩
/-- The arming of 0x100 is recorded, and 5 was loaded. -/
def mArmed : State := machM 9 [] fun t => { t with answer := some (.armed 0x100 5) }
theorem witness_armed : ∃ s1 s3 xs, UniformReady mArmed g0 [2] [1] [i2] [i1] s1 xs ∧ plainAddr xs 0 = 0x100 ∧
    (∃ s1' xs', UniformReady mArmed g0 [] [1] [] [i1] s1' xs') ∧
    nameLocked (coreAt s1 (curP s1)) (curStrand s1) i2 = false ∧
    (curStrand mArmed).answer = some (.armed (BitVec.ofNat 48 0x100) (word 5)) ∧ writeOne s1 i2 (loadFit i2 8 5) = .ok s3 :=
  ⟨_, _, _, ⟨rfl, by decide +kernel, rfl, rfl, rfl, rfl, ok_pair (by decide +kernel)⟩, by decide +kernel,
    ⟨_, _, ⟨rfl, by decide +kernel, rfl, rfl, rfl, rfl, ok_pair (by decide +kernel)⟩⟩, by decide +kernel, by decide +kernel, ok_of (by decide +kernel)⟩
theorem some_pair {α β : Type} {o : Option (α × β)} (h : o.isSome = true) : o = some ((o.get h).1, (o.get h).2) := by simp
-- a cause there, a cause word held, and none
def mHeld : State := mach [] fun t => { t with answer := some (.cause 2) }
theorem witness_waita : (∃ s1 s2 s3 s4 xs w, UniformReady (mach []) g0 [2] [1] [i2] [i1] s1 xs ∧ srcWord (mach []) (nth xs 0) = 0 ∧
      nameLocked (coreAt (mach []) (curP (mach []))) (curStrand (mach [])) i2 = false ∧ heldCause (curStrand (mach [])) = none ∧
      waitaWord (mach []) (mach []).cur none 0 = some (s2, w) ∧ (∃ ys, readSrcs s2 [(nth xs 0).info] [] = .ok (s3, ys)) ∧
      writeOne s3 i2 (fitEither i2 w) = .ok s4) ∧
    ∃ s1 xs, UniformReady mS g0 [2] [1] [i2] [i1] s1 xs ∧ srcWord mS (nth xs 0) = 0x5000 ∧ heldCause (curStrand mS) = none ∧
      waitaWord mS mS.cur (some (mS.cycle + 0x5000)) 0 = none :=
  ⟨⟨_, _, _, _, _, _, ⟨rfl, by decide +kernel, rfl, rfl, rfl, rfl, ok_pair (by decide +kernel)⟩, by decide +kernel,
      by decide +kernel, by decide +kernel, some_pair (by decide +kernel), ⟨_, ok_pair (by decide +kernel)⟩, ok_of (by decide +kernel)⟩,
    _, _, ⟨rfl, by decide +kernel, rfl, rfl, rfl, rfl, ok_pair (by decide +kernel)⟩, by decide +kernel, by decide +kernel,
    Option.isNone_iff_eq_none.mp (by decide +kernel)⟩
theorem witness_waitaHeld : ∃ s1 s3 s4 xs ys, UniformReady mHeld g0 [2] [1] [i2] [i1] s1 xs ∧
    nameLocked (coreAt mHeld (curP mHeld)) (curStrand mHeld) i2 = false ∧ heldCause (curStrand mHeld) = some 2 ∧
    readSrcs mHeld [(nth xs 0).info] [] = .ok (s3, ys) ∧ writeOne s3 i2 (fitEither i2 2) = .ok s4 :=
  ⟨_, _, _, _, _, ⟨rfl, by decide +kernel, rfl, rfl, rfl, rfl, ok_pair (by decide +kernel)⟩, by decide +kernel, by decide +kernel,
    ok_pair (by decide +kernel), ok_of (by decide +kernel)⟩
theorem test_waitaHeld : outName (exec (.waita g0 2 1) mHeld) 2 = some 2 := by decide +kernel
-- BarriersArriveOnce: a rectangle of core 0 alone, not arrived and arrived
def mBar (arrived : Bool) : State :=
  { mS with cores := [(0, { core [] with ctl := [(0x10, 2 ^ 32)], bars := [(0, ⟨arrived, false, []⟩)] })] }
theorem witness_barrier : ∃ s1, Enabled (mBar false) .uniform g0 [0] ∧ roaming (curStrand (mBar false)) = false ∧
    rectOk (ctlOf (coreAt (mBar false) (curP (mBar false))) 0x10) (coreAt (mBar false) (curP (mBar false))).logical = true ∧
    (barrierAt (coreAt (mBar false) (curP (mBar false))) 0).arrived = false ∧ arrive (mBar false) 0 = .ok s1 ∧
    (barrierAt (coreAt (mBar true) (curP (mBar true))) 0).arrived = true :=
  ⟨_, ⟨rfl, by decide +kernel, by decide +kernel⟩, by decide +kernel, by decide +kernel, by decide +kernel,
    ok_of (by decide +kernel), by decide +kernel⟩
theorem test_bara_twice : out (exec (.bara g0 0) (mBar true)) (fun s => (curStrand s).run) =
    some (.parked (.barrier 0 false 4)) := by decide +kernel
-- TrapEntrySavesAndEntersSupervisor, NestedTrapStopsTheStrand, ReturnUndoesTrapEntry, TrapAndReturn
theorem witness_trap : (strandAt mS 0).tvec ≠ 0 ∧ (strandAt mS 0).tsl = false ∧ (strandAt mS 0).task = none ∧
    (strandAt (mach [] fun t => { t with tsl := true }) 0).tsl = true ∧ (curStrand mS).sv = false ∧
    (curStrand (mach [] fun t => { t with sv := true, epc := 0x5000 })).epc.toNat % 4 = 0 ∧
    (curStrand (mach [] fun t => { t with sv := true, epc := 0x5002 })).epc.toNat % 4 ≠ 0 := by decide +kernel
-- ControlRegisterInstructionsResults, ControlRegisterReadsBack
def mSup : State := mach [(1, 0, 0x6003)] fun t => { t with sv := true }
theorem witness_ctlr : ∃ s1 s2 s3 xs, UniformReady mSup g0 [2] [] [i2] [] s1 xs ∧ ctlExists 1 = true ∧
    writeOne s1 i2 (fitEither i2 (ctlRead s1 1)) = .ok s2 ∧ writeOne s1 i2 (fitEither i2 (fieldN (curStrand s1).wid.toNat
      (idLow s1 (curStrand s1).lid 5) (idWidth s1 (curStrand s1).lid 5))) = .ok s3 :=
  ⟨_, _, _, _, ⟨rfl, by decide +kernel, rfl, rfl, rfl, rfl, ok_pair (by decide +kernel)⟩, rfl, ok_of (by decide +kernel),
    ok_of (by decide +kernel)⟩
theorem witness_ctlx : ∃ s1 s2 s3 xs, UniformReady mSup g0 [2] [1] [i2] [i1] s1 xs ∧ ctlReadOnly 1 = false ∧
    (ctlSupervisor 1 = true → (curStrand mSup).sv = true) ∧ ctlWrite s1 1 (srcWord mSup (nth xs 0)) = .ok s2 ∧
    writeOne s2 i2 (fitEither i2 (ctlRead s1 1)) = .ok s3 :=
  ⟨_, _, _, _, ⟨rfl, by decide +kernel, rfl, rfl, rfl, rfl, ok_pair (by decide +kernel)⟩, rfl, by decide +kernel,
    ok_of (by decide +kernel), ok_of (by decide +kernel)⟩
theorem witness_denied : (curStrand mS).sv = false ∧ infos (curStrand mS) [1] = some [i1] ∧ uniSrc i1 = true ∧ uniDst i2 = true ∧
    ctlExists 1 = true ∧ ctlReadOnly 1 = false ∧ ctlSupervisor 1 = true := by decide +kernel
theorem witness_ctlWrite : ∃ t, ctlExists 0x10 = true ∧ ctlReadOnly 0x10 = false ∧ ctlWrite mSup 0x10 7 = .ok t :=
  ⟨_, rfl, rfl, ok_of (by decide +kernel)⟩
-- FenceDebugBreakMapLoadAndConfidence: with nothing pending, with a copy pending, attached with breaks enabled and without
/-- A copy in slot 0 that has done nothing yet, of the strand at key 0. -/
def blankCopy : Copy := ⟨[], [], 0, 0, 1, 0, false, 0, 0, 0, 0, none, none, none, [], [], none, [], []⟩
def mCopying : State :=
  { mS with cores := [(0, { core [] with copies := [(1, { blankCopy with lid := 1 })] })] }
/-- A store of the strand waits at the home of a word that strand 5 holds. -/
def mWaits : State := { mS with rsvs := [(lsBase 0 + 0x100, ⟨some 5, 0, false, [], [⟨0, lsBase 0 + 0x100, 8, 1, false, false⟩]⟩)] }
-- FENCE: no class, an empty second list, w, e and i, each with and without something to wait for
theorem witness_fence : ∃ s1, Enabled mS .uniform g0 [0] ∧ (5 : BitVec 3).toNat ≤ 5 ∧ drainMerge mS = .ok s1 ∧
    storesWait s1 s1.cur = none ∧ workPending s1 s1.cur = false ∧ storesWait mS mS.cur = none ∧
    workPending mCopying mCopying.cur = true ∧ storesWait mCopying mCopying.cur = none ∧
    bitN (2 : BitVec 4).toNat 1 = true ∧ bitN (2 : BitVec 4).toNat 2 = false ∧ bitN (4 : BitVec 4).toNat 1 = false ∧
    bitN (4 : BitVec 4).toNat 2 = true ∧ bitN (8 : BitVec 4).toNat 3 = true ∧ bitN (1 : BitVec 4).toNat 3 = false :=
  ⟨_, ⟨rfl, by decide +kernel, by decide +kernel⟩, by decide, ok_of (by decide +kernel), by decide +kernel, by decide +kernel,
    by decide +kernel, by decide +kernel, by decide +kernel, rfl, rfl, rfl, rfl, rfl, rfl⟩
theorem witness_fenceWaits : ∃ s1, Enabled mWaits .uniform g0 [0] ∧ drainMerge mWaits = .ok s1 ∧
    storesWait s1 s1.cur = some (lsBase 0 + 0x100) :=
  ⟨_, ⟨rfl, by decide +kernel, by decide +kernel⟩, ok_of (by decide +kernel), by decide +kernel⟩
theorem test_fence_waits : out (exec (.fence g0 2 8 5) mWaits) (fun s => ((curStrand s).run, (curStrand s).pc)) =
    some (.parked (.reservation (lsBase 0 + 0x100)), 0x4000_0000) := by decide +kernel
theorem test_fence_engines : out (exec (.fence g0 4 8 0) mCopying) (fun s => (curStrand s).run) = some (.parked .engines) := by
  decide +kernel
-- DBRK: the debugger attached with breaks enabled, with breaks off, and not attached
theorem witness_dbrk : Enabled { mS with kydb := true, breaksOn := true } .uniform g0 [0] ∧ mS.kydb = false ∧
    { mS with kydb := true }.breaksOn = false := ⟨⟨rfl, by decide +kernel, by decide +kernel⟩, rfl, rfl⟩

/-- A map image of one unsigned 64-bit name at 0x200; name 1 holds 0x200. -/
def mImage : State :=
  { mach [(1, 0, 0x200)] with
      mem := memWrite (memWrite [] (lsBase 0 + 0x200) 8 (0x4B4D * 2 ^ 48 + 1 * 2 ^ 27)) (lsBase 0 + 0x208) 4 63 }
theorem witness_mapld : ∃ s1 xs m u l, UniformReady mImage g0 [] [1] [] [i1] s1 xs ∧
    loadImage s1 (curP s1) (immAddr 8 (⟨none, 0⟩ : Imm 9) xs 0) (roaming (curStrand s1)) (some s1.cur) = .ok m ∧
    findRegions s1 (curP s1) m (some s1.cur) = .ok (u, l) :=
  ⟨_, _, _, _, _, ⟨rfl, by decide +kernel, rfl, rfl, rfl, rfl, ok_pair (by decide +kernel)⟩, ok_of (by decide +kernel),
    ok_pair (by decide +kernel)⟩
theorem test_mapld : out (exec (.mapld g0 1 ⟨none, 0⟩) mImage) (fun s => (curStrand s).map.entries) = some [63] := by
  decide +kernel

/-- The region of `mK` on its last layer, with values to compare. -/
def mC (x : Nat) : State := mK 2 [(5, 0, x), (6, 0, 0)]
/-- The same region with token 5 at layer 1. -/
def mC1 : State := { mC 0x4000_0000 with mem := memWrite (mC 0x4000_0000).mem (vaultBase 0 + 0x400) 8 (5 + 2 ^ 32) }
theorem witness_conf (x : Nat) (hx : x = 0x4000_0000 ∨ x = 0xC000_0000) : ∃ s1 xs, UniformReady (mC x) g0 [] [5, 6] [] [i5, i6] s1 xs ∧
    confTypes [] [i5, i6] = true ∧ (∀ j, (curStrand (mC x)).answer ≠ some (.exit j)) ∧
    confident s1 (nth xs 0) (nth xs 1) = (x == 0x4000_0000) := by
  rcases hx with rfl | rfl <;>
  exact ⟨_, _, ⟨rfl, by decide +kernel, rfl, rfl, rfl, rfl, ok_pair (by decide +kernel)⟩, rfl, (fun j h => by cases h), by decide +kernel⟩
-- CONF.exit on the last layer, and on an earlier one
theorem witness_confExit : ∃ s1 s2 s3 s4 s5 s6 xs ys desc hv f, let s := mC 0x4000_0000
    UniformReady s g0 [] [5, 6] [] [i5, i6] s1 xs ∧ ctlOf (coreAt s (curP s)) 0x0D = kvAt ∧ nearButVault kvAt = false ∧
    strandKv s s kvAt = .ok (s2, desc) ∧ kvShared kvAt desc = true ∧ kvCursor desc = some (2, 5) ∧ desc.layers = 2 ∧
    strandRead s s2 4 ((desc.bffut + 4 * 5) % 2 ^ 48) = .ok (s3, hv) ∧ liveFut s3 (BitVec.ofNat 32 hv) = .ok f ∧
    readSrcs s3 (xs.map (·.info)) [] = .ok (s4, ys) ∧ liveFut s4 (BitVec.ofNat 32 hv) = .ok f ∧
    rrGate s4 2 (BitVec.ofNat 32 hv).toNat = .ok s5 ∧ release s5 = .ok s6 :=
  ⟨_, _, _, _, _, _, _, _, _, _, _, ⟨rfl, by decide +kernel, rfl, rfl, rfl, rfl, ok_pair (by decide +kernel)⟩, by decide +kernel,
    by decide +kernel, ok_pair (by decide +kernel), by decide +kernel, by decide +kernel, by decide +kernel,
    ok_pair (by decide +kernel), ok_of (by decide +kernel), ok_pair (by decide +kernel),
    ok_is (by decide +kernel), gate_of (by decide +kernel),
    ok_of (by decide +kernel)⟩
theorem witness_confExitMarks : ∃ s1 s2 s3 s4 xs desc hv f ps, let s := mC1
    UniformReady s g0 [] [5, 6] [] [i5, i6] s1 xs ∧ ctlOf (coreAt s (curP s)) 0x0D = kvAt ∧
    strandKv s s kvAt = .ok (s2, desc) ∧ kvShared kvAt desc = true ∧ kvCursor desc = some (1, 5) ∧ desc.layers = 2 ∧
    strandRead s s2 4 ((desc.bffut + 4 * 5) % 2 ^ 48) = .ok (s3, hv) ∧ liveFut s3 (BitVec.ofNat 32 hv) = .ok f ∧
    markPlaces s3 desc 5 s3 [2] = .ok (s4, ps) :=
  ⟨_, _, _, _, _, _, _, _, _, ⟨rfl, by decide +kernel, rfl, rfl, rfl, rfl, ok_pair (by decide +kernel)⟩, by decide +kernel,
    ok_pair (by decide +kernel), by decide +kernel, by decide +kernel, by decide +kernel, ok_pair (by decide +kernel),
    ok_of (by decide +kernel), ok_pair (by decide +kernel)⟩
theorem test_confExitMarks : out (exec (.confExit g0 2 5 6) mC1) (fun s => (curStrand s).run) = some (.parked .marks) := by
  decide +kernel
/-- The marks of a CONF.exit are performed and its job formed; the queue of its cluster has room. -/
def exitJob : Job := ⟨1, 0, false, 0, 0, 5, 2, 2, 0, 5, 0, 0, 0, 0, false, false, 0, false, none, false, none⟩
theorem witness_confExitFormed (js : Table Job) (full : Bool) (h : js = [] ∧ full = false ∨ js = (List.range 64).map (·, exitJob) ∧ full = true) :
    ∃ s1 xs, let s := { mC 0x4000_0000 with strands := [(0, { str with answer := some (.exit exitJob) })], jobs := js }
      UniformReady s g0 [] [5, 6] [] [i5, i6] s1 xs ∧ (curStrand s).answer = some (.exit exitJob) ∧
      decide (64 ≤ jobsQueued (endConf s1 2) exitJob.cluster) = full := by
  rcases h with ⟨rfl, rfl⟩ | ⟨rfl, rfl⟩ <;>
  exact ⟨_, _, ⟨rfl, by decide +kernel, rfl, rfl, rfl, rfl, ok_pair (by decide +kernel)⟩, by decide +kernel, by decide +kernel⟩
-- CONF.exit on the last layer resolves the token's future with 0
theorem test_confExit : out (exec (.confExit g0 2 5 6) (mC 0x4000_0000)) (fun s => ((futAt s 5).st, (futAt s 5).value)) =
    some (.resolved, 0) := by decide +kernel

-- FutureInstructionsResults: an entry to allocate and none; a PENDING entry, a settled one
theorem fut_free {s : State} (hs : s.futures = []) (i : Nat) : futFree s i = (i != 0) := by
  simp [futFree, futAt, hs, tgetD, tget, Future.reset]

/-- With no future in use an allocation finds an entry. -/
theorem choose_some {s : State} (hs : s.futures = []) (op : Nat) (hr : rrMode s (curStrand s).lid ≠ 2) :
    ∃ h, futChooseFor s op = .ok (some h) := by
  have key : ∃ j, futAnywhere s = some j := by
    apply Option.isSome_iff_exists.mp
    rw [futAnywhere, List.find?_isSome]
    by_cases h : Config.futureChoice s.tick % 2 ^ 24 = 0
    · exact ⟨1, by simp only [hs, List.mem_map, List.mem_range, h]; exact ⟨1, by decide, by decide⟩, by rw [fut_free hs]; rfl⟩
    · refine ⟨_, List.mem_map.mpr ⟨0, by simp [hs], rfl⟩, ?_⟩
      rw [fut_free hs]
      simpa using h
  obtain ⟨j, hj⟩ := key
  cases e : futInDie s (dieOf (curP s)) with
  | some k => exact ⟨handleOf s k, by simp [futChooseFor, hr, futChoose, e]⟩
  | none => exact ⟨handleOf s j, by simp [futChooseFor, hr, futChoose, e, hj]⟩

theorem witness_fnew : ∃ s1 xs j s3, UniformReady mS g0 [0] [2] [NameInfo.zero] [i2] s1 xs ∧ 0 ≤ srcInt mS (nth xs 0) ∧
    srcInt mS (nth xs 0) ≤ 1048575 ∧ futChooseFor s1 1 = .ok (some j) ∧ rrGate s1 1 j.toNat = .ok s1 ∧
    writeOne (futLog (futAlloc s1 j (curStrand s1).lid 1) 1 j) NameInfo.zero
      (fitEither NameInfo.zero j.toNat) = .ok s3 := by
  obtain ⟨j, hj⟩ := choose_some (s := (okV (readSrcs mS [i2] []) (by decide +kernel)).1) (by decide +kernel) 1 (by decide +kernel)
  exact ⟨_, _, j, _, ⟨rfl, by decide +kernel, rfl, rfl, rfl, rfl, ok_pair (by decide +kernel)⟩, by decide +kernel,
    by decide +kernel, hj, gate_of (by decide +kernel), rfl⟩

/-- A table of `n` entries that lists every key. -/
theorem tget_all {β : Type} (f : β) : ∀ (n k : Nat) (a : Nat), a ≤ k → k < a + n →
    tget ((List.range' a n).map fun i => (i, f)) k = some f
  | 0, k, a, h1, h2 => by omega
  | n + 1, k, a, h1, h2 => by
    simp only [List.range'_succ, List.map_cons, tget]
    by_cases h : a = k
    · simp [h]
    · have := tget_all f n k (a + 1) (by omega) (by omega)
      simp [h, this]

/-- Every future entry in use. -/
def mFull : State :=
  { mach [(1, 0, 0x5000), (2, 0, 1)] with
      futures := (List.range' 0 (2 ^ 24)).map fun i => (i, { Future.reset with st := .pending }) }

theorem choose_none {s : State} (hs : s.futures = mFull.futures) (op : Nat) (hr : rrMode s (curStrand s).lid ≠ 2)
    (hd : dieOf (curP s) = 0) : futChooseFor s op = .ok none := by
  have key : ∀ i, i < 2 ^ 24 → futFree s i = false := fun i hi => by
    have : (futAt s i).st = .pending := by
      rw [futAt, hs, mFull, tgetD, tget_all _ _ _ _ (Nat.zero_le i) (by omega)]; rfl
    simp [futFree, this]
  have h1 : futAnywhere s = none := by
    rw [futAnywhere, List.find?_eq_none]
    intro x hx
    simp only [List.mem_map] at hx
    obtain ⟨j, -, rfl⟩ := hx
    rw [key _ (Nat.mod_lt _ (by decide))]; simp
  have h2 : futInDie s 0 = none := by
    rw [futInDie, List.find?_eq_none]
    intro x hx
    simp only [List.mem_map] at hx
    obtain ⟨j, -, rfl⟩ := hx
    rw [key _ ?_]; · simp
    unfold futIndexOf
    have : ∀ a b : Nat, a < 2 ^ 11 → b < 2 ^ 11 → a ^^^ b < 2 ^ 11 := fun a b => Nat.xor_lt_two_pow
    have := this (128 * 0 + (Config.futureChoice s.tick % 2 ^ 20 + j) % 2 ^ 20 % 128)
      ((Config.futureChoice s.tick % 2 ^ 20 + j) % 2 ^ 20 / 128 % 2048) (by omega) (by omega)
    omega
  simp [futChooseFor, hr, futChoose, hd, h1, h2]

theorem witness_fnewNone : ∃ s1 xs s3, UniformReady mFull g0 [0] [2] [NameInfo.zero] [i2] s1 xs ∧
    futChooseFor s1 1 = .ok none ∧ writeOne s1 NameInfo.zero (fitEither NameInfo.zero 0) = .ok s3 :=
  ⟨_, _, _, ⟨rfl, by decide +kernel, rfl, rfl, rfl, rfl, ok_pair (by decide +kernel)⟩,
    choose_none (by rfl) 1 (by decide +kernel) (by decide +kernel), rfl⟩

/-- Entry 5 PENDING with count 2; name 1 its handle. -/
def mF : State := machF [(2, 0, 9), (3, 0, 7)] { Future.reset with st := .pending, count := 2, owner := 1 }

/-- Entry 5 RESOLVED with 77. -/
def mR : State := machF [] { Future.reset with st := .resolved, value := 77, shade := 15, pub := true }
theorem witness_fget : ∃ s1 xs v ok s3, UniformReady mR g0 [2] [1] [i2] [i1] s1 xs ∧ awaitFut mR s1 (srcHandle mR (nth xs 0)) 0 = .ok (v, ok) ∧
    writeOne s1 i2 (fitEither i2 v.toNat) = .ok s3 :=
  ⟨_, _, _, _, _, ⟨rfl, by decide +kernel, rfl, rfl, rfl, rfl, ok_pair (by decide +kernel)⟩, ok_pair (by decide +kernel),
    ok_of (by decide +kernel)⟩
/-- Name 2 lies in a row that a repack holds (R106). -/
def mFgetLocked : State :=
  { mR with cores := [(0, { core [(1, 0, 5)] with repack := some ⟨1, false, 1, 1, 0, 0, 0, ⟨0, names⟩, 0, 0⟩ })] }
theorem witness_fgetLocked : ∃ s1 xs, UniformReady mFgetLocked g0 [2] [1] [i2] [i1] s1 xs ∧
    nameLocked (coreAt mFgetLocked (curP mFgetLocked)) (curStrand mFgetLocked) i2 = true :=
  ⟨_, _, ⟨rfl, by decide +kernel, rfl, rfl, rfl, rfl, ok_pair (by decide +kernel)⟩, by decide +kernel⟩
theorem witness_fset : ∃ s1 xs f s3, UniformReady mF g0 [] [1, 3] [] [i1, i3] s1 xs ∧ srcHandle mF (nth xs 0) = 5 ∧
    liveFut s1 5 = .ok f ∧ (∀ op, rrGate s1 op 5 = .ok s1) ∧ release s1 = .ok s3 ∧ f.st = .pending ∧
    srcInt mF (nth xs 1) = 7 ∧ f.count + 7 ≤ 1048575 ∧ ∃ s4 ok, pubshAt s3 5 (cappedShade (curStrand s3) 7) s3.cur (strandLog s3 5) = (s4, ok) :=
  ⟨_, _, _, _, ⟨rfl, by decide +kernel, rfl, rfl, rfl, rfl, ok_pair (by decide +kernel)⟩, by decide +kernel, ok_of (by decide +kernel),
    fun _ => gate_of (by decide +kernel), ok_of (by decide +kernel), by decide +kernel, by decide +kernel, by decide +kernel, _, _, rfl⟩
theorem witness_fdec : ∃ s1 xs f s3 s4 ok, UniformReady mF g0 [] [1, 0] [] [i1, NameInfo.zero] s1 xs ∧
    srcHandle mF (nth xs 0) = 5 ∧ liveFut s1 5 = .ok f ∧ (∀ op, rrGate s1 op 5 = .ok s1) ∧ release s1 = .ok s3 ∧
    fdecAt s3 5 (strandLog s3 4) = some (s4, ok) :=
  ⟨_, _, _, _, _, _, ⟨rfl, by decide +kernel, rfl, rfl, rfl, rfl, ok_pair (by decide +kernel)⟩, by decide +kernel,
    ok_of (by decide +kernel), fun _ => gate_of (by decide +kernel), ok_of (by decide +kernel), some_pair (by decide +kernel)⟩
theorem witness_settle : ∃ s1 xs f, UniformReady mR g0 [] [1] [] [i1] s1 xs ∧ srcHandle mR (nth xs 0) = 5 ∧
    servedOn (curStrand s1) 5 = none ∧ liveFut s1 5 = .ok f ∧ f.st ≠ .pending :=
  ⟨_, _, _, ⟨rfl, by decide +kernel, rfl, rfl, rfl, rfl, ok_pair (by decide +kernel)⟩, by decide +kernel,
    Option.isNone_iff_eq_none.mp (by decide +kernel), ok_of (by decide +kernel), by decide +kernel⟩
-- StaleHandleTrapsFutstale: a handle no entry has, and handle 0
theorem witness_stale : (∃ s1 xs, UniformReady mS g0 [] [1, 2] [] [i1, i2] s1 xs ∧ futOf s1 (srcHandle mS (nth xs 0)) = none ∧
      srcInt mS (nth xs 1) = 1) ∧
    (∃ s1 xs s1' xs', UniformReady mS g0 [2] [1] [i2] [i1] s1 xs ∧ futOf s1 (srcHandle mS (nth xs 0)) = none ∧
      servedOn (curStrand s1) (srcHandle mS (nth xs 0)) = none ∧ UniformReady mS g0 [] [1] [] [i1] s1' xs') ∧
    ∃ s1 xs, UniformReady (mach []) g0 [] [1, 0] [] [i1, NameInfo.zero] s1 xs ∧ srcHandle (mach []) (nth xs 0) = 0 ∧
      futOf s1 0 = none :=
  ⟨⟨_, _, ⟨rfl, by decide +kernel, rfl, rfl, rfl, rfl, ok_pair (by decide +kernel)⟩, Option.isNone_iff_eq_none.mp (by decide +kernel),
    by decide +kernel⟩, ⟨_, _, _, _, ⟨rfl, by decide +kernel, rfl, rfl, rfl, rfl, ok_pair (by decide +kernel)⟩,
      Option.isNone_iff_eq_none.mp (by decide +kernel), Option.isNone_iff_eq_none.mp (by decide +kernel),
      ⟨rfl, by decide +kernel, rfl, rfl, rfl, rfl, ok_pair (by decide +kernel)⟩⟩,
    _, _, ⟨rfl, by decide +kernel, rfl, rfl, rfl, rfl, ok_pair (by decide +kernel)⟩, by decide +kernel,
    Option.isNone_iff_eq_none.mp (by decide +kernel)⟩
-- SettlingAnEntryHappensOnce
theorem witness_settling : (futAt mF 5).st = .pending ∧ (futAt mF 5).anon = false ∧ (futAt mR 5).st ≠ .pending := by decide +kernel
-- PostQueuesAndRoamSetsOut: a record at 0x400 with its roam map at 0x200
def mP : State :=
  { mach [(1, 0, 0x400)] with
      mem := [(0x200, 8, 0x4B4D * 2 ^ 48 + 2 ^ 33 + 2 ^ 27), (0x208, 4, 31), (0x400, 8, 0x5000_0000), (0x408, 8, 0x200)].foldl
        (fun m x => memWrite m (lsBase 0 + x.1) x.2.1 x.2.2) [] }
theorem post_h1 : isOk (readSrcs mP [i1] []) = true := by decide +kernel
theorem post_h2 : isOk (agentRecord (okV _ post_h1).1 (curP (okV _ post_h1).1) (curStrand (okV _ post_h1).1).lid
    (curStrand (okV _ post_h1).1).sv 0x400) = true := by decide +kernel
theorem post_h3 : isOk (postPlace mP (okV _ post_h2).1 (okV _ post_h2).2) = true := by decide +kernel
theorem post_h4 : isOk (release (okV _ post_h3).1) = true := by decide +kernel
theorem join_zero {s : State} {g : BitVec 32} (h : g = 0) : joinGroup s g = .ok (s, 0) := by subst h; rfl
theorem witness_post : ∃ s1 s2 s3 s4 xs rec pa v h l s6, UniformReady mP g0 [0] [1] [NameInfo.zero] [i1] s1 xs ∧
    (nth xs 0).pat 0 % 2 ^ 48 = 0x400 ∧ agentRecord s1 (curP s1) (curStrand s1).lid (curStrand s1).sv 0x400 = .ok (s2, rec) ∧
    rec.waitf = 0 ∧ postPlace mP s2 rec = .ok (s3, pa, v) ∧ launchAt s3 (curStrand s1).lid = some l ∧
    postRoom s3 rec (recordHome s3 l pa v) = .ok () ∧ futChooseFor s3 8 = .ok (some h) ∧ joinGroup s3 rec.group = .ok (s3, 0) ∧
    release s3 = .ok s4 ∧ rrGate s4 8 h.toNat = .ok s4 ∧
    writeOne (futLog (setFut (futAlloc s4 h (curStrand s3).lid 0) (hIndex h)
        { futAt (futAlloc s4 h (curStrand s3).lid 0) (hIndex h) with group := 0, anon := true }) 8 h) NameInfo.zero
      (fitEither NameInfo.zero h.toNat) = .ok s6 := by
  obtain ⟨h, hh⟩ := choose_some (s := (okV _ post_h3).1) (by decide +kernel) 8 (by decide +kernel)
  exact ⟨_, _, _, _, _, _, _, _, h, _, _, ⟨rfl, by decide +kernel, rfl, rfl, rfl, rfl, ok_pair post_h1⟩, by decide +kernel, ok_pair post_h2,
    by decide +kernel, ok_triple post_h3, some_of (by decide +kernel), ok_unit (by decide +kernel), hh, join_zero (by decide +kernel), ok_of post_h4,
    gate_of (by decide +kernel), rfl⟩

/-- The record follows future 6 and joins the group of future 5, both PENDING. -/
def mPG : State :=
  { mP with
      mem := memWrite (memWrite mP.mem (lsBase 0 + 0x420) 8 6) (lsBase 0 + 0x428) 8 5,
      futures := [(5, { Future.reset with st := .pending, count := 2, owner := 1 }),
        (6, { Future.reset with st := .pending, count := 0, owner := 1 })] }
theorem choose_five {s : State} (hs : s.futures = mPG.futures) (op : Nat) (hr : rrMode s (curStrand s).lid ≠ 2) :
    ∃ h, futChooseFor s op = .ok (some h) := by
  have free : ∀ i, i ≠ 0 → i ≠ 5 → i ≠ 6 → futFree s i = true := fun i h0 h5 h6 => by
    have : futAt s i = Future.reset := by
      rw [futAt, hs]; simp [mPG, tgetD, tget, Ne.symm h5, Ne.symm h6]
    simp [futFree, this, Future.reset, h0]
  have key : ∃ j, futAnywhere s = some j := by
    apply Option.isSome_iff_exists.mp
    rw [futAnywhere, List.find?_isSome]
    have hl : Nat.min (s.futures.length + 2) (2 ^ 24) = 4 := by rw [hs]; decide
    simp only [hl, List.mem_map, List.mem_range]
    obtain ⟨j, hj, h0, h5, h6⟩ : ∃ j, j < 4 ∧ (Config.futureChoice s.tick % 2 ^ 24 + j) % 2 ^ 24 ≠ 0 ∧
        (Config.futureChoice s.tick % 2 ^ 24 + j) % 2 ^ 24 ≠ 5 ∧ (Config.futureChoice s.tick % 2 ^ 24 + j) % 2 ^ 24 ≠ 6 := by
      by_cases a : Config.futureChoice s.tick % 2 ^ 24 = 5
      · exact ⟨2, by omega, by omega, by omega, by omega⟩
      · by_cases b : Config.futureChoice s.tick % 2 ^ 24 = 0 ∨ Config.futureChoice s.tick % 2 ^ 24 = 6
        · exact ⟨1, by omega, by omega, by omega, by omega⟩
        · exact ⟨0, by omega, by omega, by omega, by omega⟩
    exact ⟨_, ⟨j, hj, rfl⟩, free _ h0 h5 h6⟩
  obtain ⟨j, hj⟩ := key
  cases e : futInDie s (dieOf (curP s)) with
  | some k => exact ⟨handleOf s k, by simp [futChooseFor, hr, futChoose, e]⟩
  | none => exact ⟨handleOf s j, by simp [futChooseFor, hr, futChoose, e, hj]⟩
theorem postg_h1 : isOk (readSrcs mPG [i1] []) = true := by decide +kernel
theorem postg_h2 : isOk (agentRecord (okV _ postg_h1).1 (curP (okV _ postg_h1).1) (curStrand (okV _ postg_h1).1).lid
    (curStrand (okV _ postg_h1).1).sv 0x400) = true := by decide +kernel
theorem postg_h3 : isOk (postPlace mPG (okV _ postg_h2).1 (okV _ postg_h2).2) = true := by decide +kernel
theorem witness_postGroup : ∃ s2 s3 s4 s7 rec pa v h l f grp, agentRecord (okV _ postg_h1).1 0 1 false 0x400 = .ok (s2, rec) ∧
    rec.waitf ≠ 0 ∧ liveFut s2 rec.waitf = .ok f ∧ postPlace mPG s2 rec = .ok (s3, pa, v) ∧ launchAt s3 1 = some l ∧
    postRoom s3 rec (recordHome s3 l pa v) = .ok () ∧ futChooseFor s3 8 = .ok (some h) ∧ rec.group = 5 ∧
    joinGroup s3 rec.group = .ok (s7, grp) ∧ release s7 = .ok s4 := by
  obtain ⟨h, hh⟩ := choose_five (s := (okV _ postg_h3).1) (by decide +kernel) 8 (by decide +kernel)
  exact ⟨_, _, _, _, _, _, _, h, _, _, _, ok_pair postg_h2, by decide +kernel, ok_of (by decide +kernel), ok_triple postg_h3,
    some_of (by decide +kernel), ok_unit (by decide +kernel), hh, by decide +kernel, ok_pair (by decide +kernel),
    ok_of (by decide +kernel)⟩

/-- The same record with no future left. -/
def mPFull : State := { mP with futures := mFull.futures }
theorem postf_h1 : isOk (readSrcs mPFull [i1] []) = true := by decide +kernel
theorem postf_h2 : isOk (agentRecord (okV _ postf_h1).1 (curP (okV _ postf_h1).1) (curStrand (okV _ postf_h1).1).lid
    (curStrand (okV _ postf_h1).1).sv 0x400) = true := by decide +kernel
theorem postf_h3 : isOk (postPlace mPFull (okV _ postf_h2).1 (okV _ postf_h2).2) = true := by decide +kernel
set_option maxRecDepth 100000 in
theorem postf_futures : (okV _ postf_h3).1.futures = mFull.futures := rfl
theorem witness_postFull : futChooseFor (okV _ postf_h3).1 8 = .ok none ∧
    ∃ s4 s6, release (okV _ postf_h3).1 = .ok s4 ∧ writeOne s4 NameInfo.zero (fitEither NameInfo.zero 0) = .ok s6 :=
  ⟨choose_none postf_futures 8 (by decide +kernel) (by decide +kernel), _, _, ok_of (by decide +kernel), rfl⟩

/-- A roaming strand in slot 13; name 1 holds its own core's 0x100 or a word of the vault. -/
def mRoam (ea : Nat) : State := { mach [(1, 0, ea)] with strands := [(13, roam str)], cur := 13 }
theorem witness_roam (ea : Nat) (h : ea = 0x100 ∨ ea = 0x400_0100) : ∃ s1 s2 s4 xs o,
    UniformReady (mRoam ea) g0 [] [1] [] [i1] s1 xs ∧ curSlot s1 ≠ 0 ∧ mapRoam (curStrand s1).map.header.toNat = true ∧
    (curStrand s1).holds = none ∧ someBound (coreAt s1 (curP s1)) (curSlot s1) = false ∧ roamOwner (mRoam ea) s1 ea = .ok (s2, o) ∧
    (o = .core (curP s2)) = (ea = 0x100) ∧
    bitsLocked (coreAt s2 (curP s2)) false (curStrand s1).ubase.toNat (curStrand s1).usize.toNat = false ∧
    regionBad s2 = none ∧ drainMerge s2 = .ok s4 := by
  rcases h with rfl | rfl <;>
  exact ⟨_, _, _, _, _, ⟨rfl, by decide +kernel, rfl, rfl, rfl, rfl, ok_pair (by decide +kernel)⟩, by decide +kernel,
    by decide +kernel, by decide +kernel, by decide +kernel, ok_pair (by decide +kernel), propext (by decide +kernel), by decide +kernel,
    Option.isNone_iff_eq_none.mp (by decide +kernel), ok_of (by decide +kernel)⟩
-- EngineQueueInstructionsResults: a full and an empty FIFO, an element of status 0 and one of status 3
def mE (fifo : List (BitVec 64 × BitVec 32)) : State :=
  { mM with cores := [(0, { core [(1, 0, 0x100), (2, 0, 9)] with mx := { Engine.idle with fifo := fifo } })] }
theorem witness_enq : ∃ s1 s2 xs, UniformReady mM g0 [] [1] [] [i1] s1 xs ∧ (nth xs 0).pat 0 % 2 ^ 48 = 0x100 ∧
    poisoned s1 (lsBase (curP s1) + 0x100) 32 = none ∧ (engineAt (coreAt s1 (curP s1)) 0).queue.length < 2 ∧ release s1 = .ok s2 :=
  ⟨_, _, _, ⟨rfl, by decide +kernel, rfl, rfl, rfl, rfl, ok_pair (by decide +kernel)⟩, by decide +kernel, by decide +kernel,
    by decide +kernel, ok_of (by decide +kernel)⟩
theorem witness_pop : ∃ s1 s3 xs, UniformReady (mE [(2 ^ 63, 0)]) g0 [2] [] [i2] [] s1 xs ∧
    nameLocked (coreAt (mE [(2 ^ 63, 0)]) (curP (mE [(2 ^ 63, 0)]))) (curStrand (mE [(2 ^ 63, 0)])) i2 = false ∧
    (engineAt (coreAt s1 (curP s1)) 0).fifo = (2 ^ 63, 0) :: [] ∧ elementStatus (2 ^ 63) = 0 ∧
    elementStatus (2 ^ 63 + 3 * 2 ^ 8) ≠ 0 ∧ writeOne (progressCur (setEngine s1 (curP s1) 0
      { engineAt (coreAt s1 (curP s1)) 0 with fifo := [] })) i2 (fitEither i2 (2 ^ 63)) = .ok s3 :=
  ⟨_, _, _, ⟨rfl, by decide +kernel, rfl, rfl, rfl, rfl, ok_pair (by decide +kernel)⟩, by decide +kernel, by decide +kernel, by decide +kernel,
    by decide +kernel, ok_of (by decide +kernel)⟩
theorem witness_epeek : ∃ s1 s3 xs v fl, UniformReady (mE []) g0 [2] [] [i2] [] s1 xs ∧
    fitEither i2 (((engineAt (coreAt s1 (curP s1)) 0).fifo.head?.map fun y => y.1.toNat).getD 0) = .ok (v, fl) ∧
    writeOne s1 i2 (.ok (v, 0)) = .ok s3 :=
  ⟨_, _, _, _, _, ⟨rfl, by decide +kernel, rfl, rfl, rfl, rfl, ok_pair (by decide +kernel)⟩, ok_pair (by decide +kernel),
    ok_of (by decide +kernel)⟩
theorem test_pop : outName (exec (.pop g0 2 0) (mE [(2 ^ 63 + 5, 0)])) 2 = some (2 ^ 63 + 5) := by decide +kernel
theorem test_pop_status : outCause (exec (.pop g0 2 0) (mE [(2 ^ 63 + 3 * 2 ^ 8, 0)])) = some (11, 2 ^ 63 + 3 * 2 ^ 8) := by decide +kernel
theorem test_eres : outPc (exec (.eres g0 2) mSup) = some 0x4000_0004 := by decide +kernel
-- CopyAndMessageInstructionsResults: a destination here, one in module 1 with a route; a message of the class
theorem witness_cxgo : ∃ s1 s2 s3 xs, UniformReady mS g0 [2] [] [i2] [] s1 xs ∧ (coreAt s1 (curP s1)).copies.length < 4 ∧
    release s1 = .ok s2 ∧ writeOne (addEvent (modCore s2 (curP s1) fun x => { x with
        copies := tset x.copies (coreAt s2 (curP s1)).nextId (captureCopy s2),
        nextId := (coreAt s2 (curP s1)).nextId % 65535 + 1 })
      (copyEvent (curP s1) (coreAt s2 (curP s1)).nextId 0)) i2 (fitEither i2 (coreAt s2 (curP s1)).nextId) = .ok s3 :=
  ⟨_, _, _, _, ⟨rfl, by decide +kernel, rfl, rfl, rfl, rfl, ok_pair (by decide +kernel)⟩, by decide +kernel,
    ok_of (by decide +kernel), ok_of (by decide +kernel)⟩

/-- Name 1 holds a destination word, and context 0 has a torus of 2 x 1 x 1 with a route to module 1. -/
def mSend (w : Nat) : State :=
  { mach [(1, 0, w), (2, 0, 77)] with
      mem := memWrite [] 0x8004 4 (2 ^ 31), hub := { Hub.reset with dev := [(0x1008, 0x8000), (0x1010, 1)] } }
theorem witness_sendHere : ∃ s1 s2 xs, UniformReady (mSend 0) g0 [] [1, 2] [] [i1, i2] s1 xs ∧
    srcWord (mSend 0) (nth xs 0) = 0 ∧ destOk 0 0 = true ∧ release s1 = .ok s2 ∧ destHere s1 (curStrand s1).lid 0 = true ∧
    physOf s1 (curStrand s1).lid 0 = some 0 ∧ (coreAt s1 0).lid = (curStrand s1).lid ∧ (curStrand s1).lid ≠ 0 ∧
    sendRoom s1 0 0 0 = true :=
  ⟨_, _, _, ⟨rfl, by decide +kernel, rfl, rfl, rfl, rfl, ok_pair (by decide +kernel)⟩, by decide +kernel, by decide +kernel,
    ok_of (by decide +kernel), by decide +kernel, by decide +kernel, by decide +kernel, by decide +kernel, by decide +kernel⟩
theorem witness_sendFar : ∃ s1 xs, UniformReady (mSend (2 ^ 44 + 2 ^ 32)) g0 [] [1, 2] [] [i1, i2] s1 xs ∧
    srcWord (mSend (2 ^ 44 + 2 ^ 32)) (nth xs 0) = 2 ^ 44 + 2 ^ 32 ∧ destOk (2 ^ 44 + 2 ^ 32) 0 = true ∧
    destHere s1 (curStrand s1).lid (2 ^ 44 + 2 ^ 32) = false ∧ inTorus s1 (curStrand s1).lid 1 = true ∧
    routeOk s1 (curStrand s1).lid 1 = true :=
  ⟨_, _, ⟨rfl, by decide +kernel, rfl, rfl, rfl, rfl, ok_pair (by decide +kernel)⟩, by decide +kernel, by decide +kernel,
    by decide +kernel, by decide +kernel, by decide +kernel⟩
theorem test_send : out (exec (.send g0 1 2 0) (mSend 0)) (fun s => s.agenda) = some [.inboxDelivery 0 0 77] := by decide +kernel
theorem witness_mrecv : ∃ s1 s2 s3 xs m, UniformReady (mB [⟨1, 7, 8⟩]) g0 [1, 2] [] [i1, i2] [] s1 xs ∧
    (∀ slot, tget (coreAt s1 (curP s1)).binds 1 = some slot → slot = curSlot s1) ∧
    (coreAt s1 (curP s1)).mailbox.find? (fun x => x.cls == 1) = some m ∧
    writeOne (wakeSenders (setCore s1 (curP s1) { coreAt s1 (curP s1) with mailbox := (coreAt s1 (curP s1)).mailbox.erase m }) (curP s1)) i1
      (fitEither i1 m.lo.toNat) = .ok s2 ∧ writeOne s2 i2 (fitEither i2 m.hi.toNat) = .ok s3 :=
  ⟨_, _, _, _, _, ⟨rfl, by decide +kernel, rfl, rfl, rfl, rfl, ok_pair (by decide +kernel)⟩, by
      intro slot h
      have : tget (coreAt (okV (readSrcs (mB [⟨1, 7, 8⟩]) [] []) (by decide +kernel)).1 0).binds 1 = some 0 := by decide +kernel
      exact (Option.some.inj (this.symm.trans h)).symm,
    some_of (by decide +kernel), ok_of (by decide +kernel), ok_of (by decide +kernel)⟩
theorem witness_qctl : ∃ s1 s4 xs, UniformReady (mach []) g0 [1] [2] [i1] [i2] s1 xs ∧
    settingOk s1 (curP s1) 0 (srcWord (mach []) (nth xs 0)) = true ∧
    writeOne (wakeNames (modCore s1 (curP s1) fun x => installSetting x 0 (word (srcWord (mach []) (nth xs 0)))) (curP s1)) i1
      (fitEither i1 (settingAt (coreAt s1 (curP s1)) 0).toNat) = .ok s4 :=
  ⟨_, _, _, ⟨rfl, by decide +kernel, rfl, rfl, rfl, rfl, ok_pair (by decide +kernel)⟩, by decide +kernel, ok_of (by decide +kernel)⟩
-- SystemInstructionsResults: a launch that is not live and one that is
def mGrey : State := { mach [(1, 0, 7)] (fun t => { t with sv := true }) with launches := [(1, probeLaunch), (7, probeLaunch)] }
theorem witness_grey : ∃ s1 xs, UniformReady mGrey g0 [] [1] [] [i1] s1 xs ∧ (curStrand mGrey).sv = true ∧
    srcWord mGrey (nth xs 0) ≠ (curStrand s1).lid ∧ launchAt s1 (srcWord mGrey (nth xs 0)) = some probeLaunch ∧
    probeLaunch.field 0x68 2 2 ≠ 2 ∧ launchAt mSup 0x6003 = none :=
  ⟨_, _, ⟨rfl, by decide +kernel, rfl, rfl, rfl, rfl, ok_pair (by decide +kernel)⟩, rfl, by decide +kernel, by decide +kernel,
    by decide +kernel, by decide +kernel⟩
/-- The stores of a TLBINV's or IFLUSH's strand are written out. -/
theorem witness_flush : ∃ s1 s2 xs, UniformReady mSup g0 [] [1] [] [i1] s1 xs ∧ settleStores s1 = .ok s2 ∧
    Enabled mSup .uniform g0 [0] ∧ isOk (settleStores mSup) = true ∧ (curStrand mSup).sv = true :=
  ⟨_, _, _, ⟨rfl, by decide +kernel, rfl, rfl, rfl, rfl, ok_pair (by decide +kernel)⟩, ok_of (by decide +kernel),
    ⟨rfl, by decide +kernel, by decide +kernel⟩, by decide +kernel, by decide +kernel⟩
-- PairsAndSubstitutesRunTheirInstructions: ADDI 1, 1, -1 widened; a pattern of one word, its substitute empty or ADDI
def wAddi : BitVec 32 := 0b0010000_0_000_000001_000001_111111111
theorem witness_pair : ∃ i t, decodeWord wAddi = .ok i ∧ widened 5 i ≠ i ∧ opTakesExt (opOf wAddi) = true ∧
    exec (widened 5 i) { mS with ir := ⟨wAddi, 8⟩ } = .next t :=
  ⟨.addi g0 1 1 ⟨none, 0b111111111⟩, _, by decide, by decide, by decide, rfl⟩
/-- LI, an immediate operation and BR behind a LIMM, and an opcode that takes no extension. -/
def mPair (w : BitVec 32) : State := { mach [(1, 0, 5)] with ir := ⟨w, 8⟩ }
theorem witness_limmLi : ∃ s1 s2 xs vals fl, decodeWord 0b0011011_0_000_000001_000000000000001 = .ok (.li g0 1 ⟨none, 1⟩) ∧
    opTakesExt (opOf 0b0011011_0_000_000001_000000000000001) = true ∧
    ComputeReady (mPair 0b0011011_0_000_000001_000000000000001) g0 (clsD (mPair 0) 1) 1 [] i1 [] [0] s1 xs ∧ i1.isInt = true ∧
    collect [0] (fun _ => fitInt i1 i1.mode (immSigned (⟨some 5, 1⟩ : Imm 15))) = .ok (vals, fl) ∧ writeDst s1 i1 [0] vals = .ok s2 :=
  ⟨_, _, _, _, _, by decide, by decide, ⟨⟨rfl, by decide +kernel, by decide +kernel⟩, rfl, rfl, rfl, rfl, rfl, ok_pair (by decide +kernel)⟩,
    rfl, ok_pair (by decide +kernel), ok_of (by decide +kernel)⟩
theorem witness_limmImm : ∃ s1 s2 xs vals fl, ComputeReady (mPair wAddi) g0 (clsD (mPair 0) 1) 1 [1] i1 [i1] [0] s1 xs ∧
    allInt [i1, i1] = true ∧ ImmOp.addi.instr g0 1 1 ⟨none, 511⟩ = .addi g0 1 1 ⟨none, 511⟩ ∧
    collect [0] (fun l => fitInt i1 i1.mode (ImmOp.addi.exact ((nth xs 0).int l) ((nth xs 0).pat l)
      (immSigned (⟨some 5, 511⟩ : Imm 9)) (immUnsigned (⟨some 5, 511⟩ : Imm 9)))) = .ok (vals, fl) ∧ writeDst s1 i1 [0] vals = .ok s2 :=
  ⟨_, _, _, _, _, ⟨⟨rfl, by decide +kernel, by decide +kernel⟩, rfl, rfl, rfl, rfl, rfl, ok_pair (by decide +kernel)⟩,
    rfl, rfl, ok_pair (by decide +kernel), ok_of (by decide +kernel)⟩
theorem witness_limmOthers : decodeWord 0b0111000_0_000_000000000000000000010 = .ok (.br g0 ⟨none, 2⟩) ∧
    opTakesExt (opOf 0b0111000_0_000_000000000000000000010) = true ∧ Enabled (mPair 0) .uniform g0 [0] ∧
    opTakesExt (opOf 0) = false := ⟨by decide, by decide, ⟨rfl, by decide +kernel, by decide +kernel⟩, by decide⟩
theorem test_limm_illegal : outCause (exec (.limm 1 0) (mach [(1, 0, 5)])) = some (1, 0) := by decide +kernel
theorem test_limm : outName (exec (.limm 1 wAddi) (mach [(1, 0, 5)])) 1 = some (5 + 1023) := by decide +kernel
def mPatch (sub : List (BitVec 32)) : State :=
  { mS with hub := { Hub.reset with patch := [⟨true, true, [0xFFFFFFFF], [0], sub⟩] } }
theorem test_patch_empty : outPc (exec (.patchSubstitute 0) (mPatch [])) = some 0x4000_0004 := by decide +kernel
theorem test_patch_one : outName (exec (.patchSubstitute 0) (mPatch [wAddi])) 1 = some 0x4FFF := by decide +kernel
theorem witness_patch : ∃ i t, (mPatch [wAddi]).hub.patch[0]? = some ⟨true, true, [0xFFFFFFFF], [0], [wAddi]⟩ ∧
    decodeWord wAddi = .ok i ∧ subEnd (curStrand (mPatch [wAddi])) t = .completed ∧ opOf wAddi ≠ 0x7F ∧ exec i { mPatch [wAddi] with ir := ⟨wAddi, 4⟩ } = .next t ∧
    (mPatch []).hub.patch[0]? = some ⟨true, true, [0xFFFFFFFF], [0], []⟩ :=
  ⟨.addi g0 1 1 ⟨none, 0b111111111⟩, _, by decide, by decide, by decide +kernel, by decide, rfl, by decide⟩

/-! ### Engine commands -/

/-- A descriptor: address, DTYPE, DOM, LVL, STRIDE. -/
def desc (addr dt dom lvl stride : Nat) : Nat := addr + dt * 2 ^ 40 + dom * 2 ^ 44 + lvl * 2 ^ 48 + stride * 2 ^ 52

/-- A command with FUT 0: engine, OPC, SEL, FLG, D1, D2, D3. -/
def cmdOf (e opc sel flg d1 d2 d3 : Nat) : EngineCmd :=
  { words := BitVec.ofNat 256 (opc + e * 2 ^ 8 + flg * 2 ^ 10 + sel * 2 ^ 16 + d1 * 2 ^ 64 + d2 * 2 ^ 128 + d3 * 2 ^ 192),
    off := 0x8000, tau := [0, 0, 0, 0], kvdesc := 0, sv := false, peers := [], key := none, uid := 0,
    slot := 0, cap := 0, lid := 1, born := 0 }

/-- An engine that executes a command. -/
def engOf (cmd : EngineCmd) : Engine := ⟨some cmd, [], [], none, none, none, none⟩

/-- Engine `e` of core 0 executes a command, over a memory; `acc` is accumulator 0. -/
def mEn (e : Nat) (cmd : EngineCmd) (acc : Acc := Acc.zeroed) (mem : List Host.Cell := []) : State :=
  let c : Core := { core [] with accs := [(0, acc)] }
  { mach [] with
      mem := mem, cores := [(0, if e = 0 then { c with mx := engOf cmd } else { c with vx := engOf cmd })] }

/-- A plain fp32 tile, an int8 tile, a bf16 tile. -/
def tF (a : Nat) : Nat := desc a 1 0 0 4
def tB (a : Nat) : Nat := desc a 0 0 0 2
/-- A tile in the hrow domain, one level. -/
def tH (a : Nat) : Nat := desc a 0 1 1 2

/-- Parts of `VxReady` that are computed in turn: whether they all stand. -/
def vxCheck (s : State) (p : Nat) (cmd : EngineCmd) (f : VxForm) (body : Rec → List Operand → VxOut) : Bool :=
  let d := descOf (cmd.d 3)
  let srcs := descOf (cmd.d 1) :: (if f.hasB then [descOf (cmd.d 2)] else [])
  let rd := srcs.flatMap fun x => x.header ++ x.rows 32 (rowBytes x.dtype)
  let wr := d.header ++ d.rows 32 (rowBytes d.dtype)
  f.fieldOk && factOk cmd true && d.fieldOk && (srcs.all (·.fieldOk)) && (f.hasB || cmd.d 2 == 0) &&
  vxDt d.dtype && (srcs.all fun x => vxDt x.dtype) && f.typesOk && d.domOk && (srcs.all (·.domOk)) && f.domOk &&
  ((d :: srcs).all fun x => tileAddrOk s p cmd x (x.rows 32 (rowBytes x.dtype))) &&
  recordAddrOk s p cmd (vxRecord cmd) && strideOk d (rowBytes d.dtype) && isOk (kvCheck s p cmd rd wr) &&
  match recordOf s p cmd (vxRecord cmd) d.dtype f.use,
    pinReads s p cmd (kvSpan cmd ++ recordSpan (vxRecord cmd) ++
      srcs.flatMap fun x => x.header ++ x.rows 32 (rowBytes x.dtype)) with
  | .ok r, .ok s1 =>
    match pinWrites s1 p cmd wr with
    | .ok s0 =>
      match cleanReads s0 p cmd (kvSpan cmd ++ recordSpan (vxRecord cmd) ++
        srcs.flatMap fun x => operandSpans s0 p cmd x (x.rows 32 (rowBytes x.dtype))) with
      | .ok s2 =>
        match srcs.mapM (fun x => readOperand s2 p cmd x 32 (x.rows 32 (rowBytes x.dtype))) with
        | .ok os => isOk (cleanWrites s2 p cmd ((body r os).writes.map fun w => (w.1, w.2.1)))
        | .error _ => false
      | .error _ => false
    | .error _ => false
  | _, _ => false

theorem vx_witness {s : State} {p : Nat} {cmd : EngineCmd} {f : VxForm} {body : Rec → List Operand → VxOut}
    (h : vxCheck s p cmd f body = true) : ∃ srcs r s2 os, VxReady s p cmd f srcs r s2 os ∧
      cleanWrites s2 p cmd ((body r os).writes.map fun w => (w.1, w.2.1)) = .ok () := by
  unfold vxCheck at h
  simp only [Bool.and_eq_true] at h
  obtain ⟨⟨⟨⟨⟨⟨⟨⟨⟨⟨⟨⟨⟨⟨⟨h1, h2⟩, h3⟩, h4⟩, h5⟩, h6⟩, h7⟩, h8⟩, h9⟩, h10⟩, h11⟩, h12⟩, h13⟩, h14⟩, h15⟩, h⟩ := h
  split at h
  · rename_i r s1 hr hs1
    split at h
    · rename_i s0 hs0
      split at h
      · rename_i s2 hs2
        split at h
        · rename_i os hos
          exact ⟨_, r, s2, os, ⟨rfl, by simp only [h1, h2, h3, h4, h5, Bool.and_true], by simp only [h6, h7, h8, Bool.and_true],
            by simp only [h9, h10, h11, Bool.and_true], hr, by simp only [h12, h13, Bool.and_true], h14, ok_unit h15,
            ⟨s1, s0, hs1, hs0, hs2⟩, hos⟩, ok_unit h⟩
        · cases h
      · cases h
    · cases h
  · cases h

/-- VX on plain fp32 tiles at 0x1000 and 0x2000 into 0x3000. -/
def vc (opc sel : Nat) (d1 : Nat := tF 0x1000) (d2 : Nat := 0) (d3 : Nat := tF 0x3000) : EngineCmd :=
  cmdOf 1 opc sel 0 d1 d2 d3

/-- An engine that is neither stopped nor done. -/
theorem witness_executes : Executes (mEn 1 (vc 0 0)) 0 1 (vc 0 0) ∧ Executes (mEn 0 (vc 0 0)) 0 0 (vc 0 0) := by
  constructor <;> exact ⟨rfl, rfl, rfl⟩

theorem witness_vtmap : vxCheck (mEn 1 (vc 0 0)) 0 (vc 0 0) ⟨true, true, true, {}, false⟩ (fun r os =>
    writeRowsTo (vc 0 0) r (mapElems (vtmapElem r 0) (plainOf (vc 0 0) 0 os).1) (plainOf (vc 0 0) 0 os).2) = true := by
  decide +kernel

def cB : EngineCmd := vc 1 0 (tF 0x1000) (tF 0x2000)
theorem witness_vtbin : vxCheck (mEn 1 cB) 0 cB ⟨true, true, true, {}, true⟩ (fun r os =>
    writeRowsTo cB r (zipElems (vtbinElem r 0) (plainOf cB 0 os).1 (plainOf cB 1 os).1)
      ((plainOf cB 0 os).2 ||| (plainOf cB 1 os).2)) = true := by decide +kernel

/-- Two coefficient tiles of one domain; their headers lie 32 bytes below them. -/
def cBH : EngineCmd := vc 1 0 (tH 0x1020) (tH 0x2020) (tH 0x3020)
/-- A header: mask all ones, LVL 1, domain hrow, every shade. -/
def hdr : Nat := headerWord (descOf (tH 0)) (2 ^ 32 - 1) 15 0
def mHaar : List Host.Cell := [0x1000, 0x2000, 0x3000].foldl (fun m a => memWrite m (lsBase 0 + a) 32 hdr) []
theorem witness_vtbin_coeff : vtbinCoeff cBH = true ∧ vxCheck (mEn 1 cBH Acc.zeroed mHaar) 0 cBH
    ⟨true, true, sameDomain (descOf (cBH.d 1)) (descOf (cBH.d 3)), {}, true⟩ (fun r os =>
      let x := zipElems (vtbinElem r cBH.sel) (opAt os 0).vals (opAt os 1).vals
      let shade := Nat.min (opAt os 0).shade (opAt os 1).shade
      let w := haarWrites (descOf (cBH.d 3)) r .nan (shadeRows 1 shade) shade (opAt os 0).tauix x.1
      ⟨w.1, w.2 ||| x.2, 0⟩) = true := by decide +kernel

def cR : EngineCmd := vc 2 0
theorem witness_vtred : vxCheck (mEn 1 cR) 0 cR ⟨true, true, true, {}, false⟩ (fun r os =>
    let vs := (plainOf cR 0 os).1.zipIdx.map fun l => vtredVal 0 (Config.draw (Config.draw 0 5) l.2) l.1
    let w := plainWrites (descOf (cR.d 3)) r [vs.map (·.1)]
    ⟨w.1, w.2 ||| (plainOf cR 0 os).2 ||| orFlags (vs.map (·.2)), 0⟩) = true := by decide +kernel
theorem witness_vtsmax : vxCheck (mEn 1 cR) 0 cR ⟨true, true, true, { auxi := true }, false⟩ (fun r os =>
    writeRowsTo cR r (mapRows (fun i row => smaxRow r (fun j => !(bitN 0 2) || (j : Int) ≤ i + r.auxi) row)
      (plainOf cR 0 os).1) (plainOf cR 0 os).2) = true := by decide +kernel
theorem witness_vtnorm : vxCheck (mEn 1 cR) 0 cR ⟨true, true, true, { auxf := true }, false⟩ (fun r os =>
    writeRowsTo cR r (mapRows (fun _ row => normRow r 0 (List.replicate 32 (FVal.fin false 1 0 false)) row)
      (plainOf cR 0 os).1) (plainOf cR 0 os).2) = true := by decide +kernel
theorem witness_vtcvt : vxCheck (mEn 1 cR) 0 cR ⟨true, true, true, {}, false⟩ (fun r os =>
    ⟨(plainWrites (descOf (cR.d 3)) r (opAt os 0).vals).1, (plainWrites (descOf (cR.d 3)) r (opAt os 0).vals).2, 0⟩) =
    true := by decide +kernel
/-- A plain tile into a coefficient tile, and back. -/
def cF : EngineCmd := vc 6 0 (tF 0x1000) 0 (tH 0x3020)
theorem witness_vthaar : vxCheck (mEn 1 cF) 0 cF ⟨true, true, true, {}, false⟩ (fun r os =>
    let x := alongVectors 1 (haarFwd 1) (plainOf cF 0 os).1
    let w := haarWrites (descOf (cF.d 3)) r (tauOf cF r.tauix) (shadeRows 1 0) 0 r.tauix x.1
    ⟨w.1, w.2 ||| (plainOf cF 0 os).2 ||| x.2, 0⟩) = true := by decide +kernel
def cI : EngineCmd := vc 7 0 (tH 0x1020)
theorem witness_vtihaar : vxCheck (mEn 1 cI Acc.zeroed mHaar) 0 cI ⟨true, true, true, {}, false⟩ (fun r os =>
    writeRowsTo cI r ((plainOf cI 0 os).1, 0) (plainOf cI 0 os).2) = true := by decide +kernel
theorem witness_vtconf : vxCheck (mEn 1 cR) 0 cR ⟨true, true, true, {}, false⟩ (fun r os =>
    let rows := (plainOf cR 0 os).1.map (confRow r)
    ⟨rows.zipIdx.map fun x => (0x3000 + 32 * 4 * x.2, 16, packList 32 x.1.1),
      (plainOf cR 0 os).2 ||| orFlags (rows.map (·.2.1)), (rows.filter (·.2.2)).length⟩) = true := by decide +kernel

-- The matrix engine: accumulator 0, bf16 operands; one of them in the hrow domain
def cM (opc flg : Nat) (d3 : Nat := 0) : EngineCmd := cmdOf 0 opc 0 flg (tB 0x1000) (tB 0x2000) d3
theorem witness_mma : ∃ s1 r oa ob,
    mulChecks (mEn 0 (cM 0 0)) 0 (cM 0 0) ⟨true, mmaTypes false 0 0, false, (descOf (tB 0x1000)).rows 32 64,
      (descOf (tB 0x2000)).rows 32 64⟩ (fun _ => []) = .ok (s1, r) ∧
    readOperand s1 0 (cM 0 0) (descOf (tB 0x1000)) 32 ((descOf (tB 0x1000)).rows 32 64) = .ok oa ∧
    readOperand s1 0 (cM 0 0) (descOf (tB 0x2000)) 32 ((descOf (tB 0x2000)).rows 32 64) = .ok ob :=
  ⟨_, _, _, _, ok_pair (by decide +kernel), ok_of (by decide +kernel), ok_of (by decide +kernel)⟩
theorem witness_mmat : ∃ s1 r oa ob,
    mulChecks (mEn 0 (cM 1 0)) 0 (cM 1 0) ⟨true, mmaTypes true 0 0, false, (descOf (tB 0x1000)).rows 32 64,
      (descOf (tB 0x2000)).rows 32 64⟩ (fun _ => []) = .ok (s1, r) ∧
    readOperand s1 0 (cM 1 0) (descOf (tB 0x1000)) 32 ((descOf (tB 0x1000)).rows 32 64) = .ok oa ∧
    readOperand s1 0 (cM 1 0) (descOf (tB 0x2000)) 32 ((descOf (tB 0x2000)).rows 32 64) = .ok ob :=
  ⟨_, _, _, _, ok_pair (by decide +kernel), ok_of (by decide +kernel), ok_of (by decide +kernel)⟩

/-- The record at 0x4000: metadata at 0x5000, each group's code 0x4 (positions 0 and 1). -/
def mMeta : List Host.Cell :=
  memWrite (memWrite [] (lsBase 0 + 0x4010) 8 0x5000) (lsBase 0 + 0x5000) 128
    ((List.range 128).foldl (fun n _ => n * 256 + 0x44) 0)
def cS : EngineCmd := cM 2 0 0x4000
theorem witness_mmas : ∃ s1 r oa ob,
    mulChecks (mEn 0 cS Acc.zeroed mMeta) 0 cS ⟨true, mmasTypes 0 0, true, (descOf (tB 0x1000)).rows 32 32,
      (descOf (tB 0x2000)).rows 32 64⟩ (metaSpan 1) = .ok (s1, r) ∧
    readOperand s1 0 cS (descOf (tB 0x1000)) 16 ((descOf (tB 0x1000)).rows 32 32) = .ok oa ∧
    readOperand s1 0 cS (descOf (tB 0x2000)) 32 ((descOf (tB 0x2000)).rows 32 64) = .ok ob ∧
    (((List.range 32).map fun i => engRead s1 0 cS (r.auxa + 4 * i, 4)).all fun x => (List.range 8).all fun g =>
      (groupPositions false (fieldN x (4 * g) 4)).isSome) = true :=
  ⟨_, _, _, _, ok_pair (by decide +kernel), ok_of (by decide +kernel), ok_of (by decide +kernel), by decide +kernel⟩

/-- MMAQ: cb3 indices at 0x2000 in rows of 384 bytes. -/
def cQ : EngineCmd := cmdOf 0 3 0 0 (tB 0x1000) (desc 0x2000 7 0 0 12) 0
theorem witness_mmaq : ∃ s1 w, quantFetch (mEn 0 cQ) 0 cQ = .ok (s1, w) := ⟨_, _, ok_pair (by decide +kernel)⟩
/-- The MMAQ has taken `n` tables and the next slot is full. -/
def mQ (n : Nat) : State :=
  { mach [] with
      cores := [(0, { core [] with
        tstore := [(n, ⟨0, true⟩)], mx := { engOf cQ with work := some ⟨[], [], 0, 15, n, [], Acc.zeroed, 0⟩ } })] }
/-- The slot is not full yet; and one that a command with consume (FLG[2]) empties. -/
theorem witness_mmaqEmpty : (coreAt (mQ 0) 0).mx.work = some ⟨[], [], 0, 15, 0, [], Acc.zeroed, 0⟩ ∧
    (tgetD (coreAt { mQ 0 with cores := [(0, { core [] with mx := (coreAt (mQ 0) 0).mx })] } 0).tstore (quantSlot cQ 0)
      ⟨0, false⟩).full = false ∧ bitN (cmdOf 0 3 0 4 (tB 0x1000) (desc 0x2000 7 0 0 12) 0).flg 2 = true := by decide +kernel
theorem test_mmaq_consume : out (exec (.mmaqSlotTake 0) { mach [] with
      cores := [(0, { core [] with
        tstore := [(0, ⟨7, true⟩)], mx := { engOf (cmdOf 0 3 0 4 (tB 0x1000) (desc 0x2000 7 0 0 12) 0) with
          work := some ⟨[], [], 0, 15, 0, [], Acc.zeroed, 0⟩ } })] })
      (fun s => (tgetD (coreAt s 0).tstore 0 ⟨0, true⟩, (coreAt s 0).mx.work.map fun w => (w.blk, w.tables))) =
    some (⟨7, false⟩, some (1, [7])) := by decide +kernel
theorem witness_mmaqTake (n : Nat) (h : n = 0 ∨ n = 7) : ∃ w, (coreAt (mQ n) 0).mx.work = some w ∧
    (tgetD (coreAt (mQ n) 0).tstore (quantSlot cQ w.blk) ⟨0, false⟩).full = true ∧
    (coreAt (mQ n) 0).badSlots.contains (quantSlot cQ w.blk) = false ∧ bitN cQ.flg 2 = false ∧ w.blk = n := by
  rcases h with rfl | rfl <;> exact ⟨_, rfl, by decide +kernel, by decide +kernel, by decide +kernel, rfl⟩

-- The other accumulator commands
def cA (opc flg d1 : Nat) (d3 : Nat := 0) : EngineCmd := cmdOf 0 opc 0 flg d1 0 d3
theorem witness_accz : (accFlgOk (cA 4 4 0) true && factOk (cA 4 4 0) false && accFormOk (cA 4 4 0) false &&
      (cA 4 4 0).d 1 == 0 && (cA 4 4 0).d 2 == 0) = true ∧
    ∃ k s1 s2, engKv (mEn 0 (cA 4 4 0)) 0 (cA 4 4 0) = .ok k ∧
      pinReads (mEn 0 (cA 4 4 0)) 0 (cA 4 4 0) (kvSpan (cA 4 4 0)) = .ok s1 ∧
      cleanReads s1 0 (cA 4 4 0) (kvSpan (cA 4 4 0)) = .ok s2 :=
  ⟨by decide +kernel, _, _, _, ok_of (by decide +kernel), ok_of (by decide +kernel), ok_of (by decide +kernel)⟩
def cL : EngineCmd := cA 5 0 (tF 0x1000)
theorem witness_accld : (accFlgOk cL false && factOk cL false && accFormOk cL false && cL.d 2 == 0 &&
      (descOf (cL.d 1)).fieldOk) = true ∧ (fpDt (descOf (cL.d 1)).dtype || intDt (descOf (cL.d 1)).dtype) = true ∧
    ((descOf (cL.d 1)).domOk && (descOf (cL.d 1)).dom != 2) = true ∧
    ∃ s1 r o, accSource (mEn 0 cL) 0 cL (descOf (cL.d 1)) (intDt (descOf (cL.d 1)).dtype) false = .ok (s1, r, o) :=
  ⟨by decide +kernel, by decide +kernel, by decide +kernel, _, _, _, ok_triple (by decide +kernel)⟩
def cD : EngineCmd := cA 7 0 (tF 0x1000)
theorem witness_accadd : (accFlgOk cD false && factOk cD false && accFormOk cD true && cD.d 2 == 0 &&
      (descOf (cD.d 1)).fieldOk) = true ∧
    ((descOf (cD.d 1)).domOk && (descOf (cD.d 1)).dom != 2 && Acc.zeroed.admits (descOf (cD.d 1))) = true ∧
    (descOf (cD.d 1)).dtype ≠ 8 ∧
    ((fpDt (descOf (cD.d 1)).dtype || intDt (descOf (cD.d 1)).dtype) &&
      Acc.zeroed.isInt == intDt (descOf (cD.d 1)).dtype) = true ∧
    ∃ s1 r o, accSource (mEn 0 cD) 0 cD (descOf (cD.d 1)) Acc.zeroed.isInt Acc.zeroed.isInt = .ok (s1, r, o) :=
  ⟨by decide +kernel, by decide +kernel, by decide +kernel, by decide +kernel, _, _, _, ok_triple (by decide +kernel)⟩
/-- Accumulator 1 is added. -/
def cD8 : EngineCmd := cA 7 0 (desc 1 8 0 0 0)
theorem witness_accadd_acc : ∃ r k s1 s2, (descOf (cD8.d 1)).dtype = 8 ∧
    (accFlgOk cD8 false && factOk cD8 false && accFormOk cD8 true && cD8.d 2 == 0 && (descOf (cD8.d 1)).fieldOk) = true ∧
    ((descOf (cD8.d 1)).domOk && (descOf (cD8.d 1)).dom != 2 && Acc.zeroed.admits (descOf (cD8.d 1))) = true ∧
    accAt (coreAt (mEn 0 cD8) 0) 1 = Acc.zeroed ∧ (Acc.zeroed.dom ≠ 2 ∧ (descOf (cD8.d 1)).dom = 0) ∧
    recordOf (mEn 0 cD8) 0 cD8 (prmOf cD8) (accDt Acc.zeroed.isInt) {} = .ok r ∧ (!Acc.zeroed.isInt || r.unitScale) = true ∧
    recordAddrOk (mEn 0 cD8) 0 cD8 (prmOf cD8) = true ∧ engKv (mEn 0 cD8) 0 cD8 = .ok k ∧
    pinReads (mEn 0 cD8) 0 cD8 (kvSpan cD8 ++ recordSpan (prmOf cD8)) = .ok s1 ∧
    cleanReads s1 0 cD8 (kvSpan cD8 ++ recordSpan (prmOf cD8)) = .ok s2 :=
  ⟨_, _, _, _, by decide +kernel, by decide +kernel, by decide +kernel, rfl,
    by decide +kernel, ok_of (by decide +kernel), rfl, by decide +kernel, ok_of (by decide +kernel), ok_of (by decide +kernel),
    ok_of (by decide +kernel)⟩

/-- The checks of ACCST in turn. -/
def accstCheck (s : State) (cmd : EngineCmd) : Bool :=
  let d := descOf (cmd.d 1)
  let acc := accAt (coreAt s 0) cmd.accIx
  let wr := d.header ++ d.rows 32 (rowBytes d.dtype)
  (accFlgOk cmd false && factOk cmd true && accFormOk cmd true && cmd.d 2 == 0 && d.fieldOk) &&
  (fpDt d.dtype || (acc.isInt && intDt d.dtype)) &&
  (d.domOk && (if acc.dom = 2 then d.dom == 1 && d.lvl == acc.lvl.toNat else d.dom == 0)) &&
  (tileAddrOk s 0 cmd d (d.rows 32 (rowBytes d.dtype)) && recordAddrOk s 0 cmd (prmOf cmd)) &&
  strideOk d (rowBytes d.dtype) && isOk (kvCheck s 0 cmd [] wr) &&
  match recordOf s 0 cmd (prmOf cmd) d.dtype {}, pinReads s 0 cmd (kvSpan cmd ++ recordSpan (prmOf cmd)) with
  | .ok r, .ok s1 =>
    match pinWrites s1 0 cmd wr with
    | .ok s2 =>
      match cleanReads s2 0 cmd (kvSpan cmd ++ recordSpan (prmOf cmd)) with
      | .error _ => false
      | .ok s3 =>
      let v := (accRows acc).map fun x => x.map fun v => if acc.isInt then ofInt (toSigned 32 v) else fp32.decode v
      isOk (cleanWrites s3 0 cmd ((if d.dom = 0 then plainWrites d r v else
        haarWrites d r (tauOf cmd r.tauix) (shadeRows d.lvl acc.shade.toNat) acc.shade.toNat r.tauix v).1.map
          fun w => (w.1, w.2.1)))
    | .error _ => false
  | _, _ => false
theorem witness_accst : accstCheck (mEn 0 (cA 6 0 (tF 0x1000))) (cA 6 0 (tF 0x1000)) = true ∧
    accstCheck (mEn 0 (cA 6 0 (tH 0x1020)) { Acc.zeroed with dom := 2, lvl := 1 }) (cA 6 0 (tH 0x1020)) = true := by
  decide +kernel

-- VTKV: 32 tokens of layer 2 of the region, token 5 through its stand-in; a store with FLG[2]
def kvMem6 (layer : Nat) : List Host.Cell :=
  memWrite (memWrite kvMem (lsBase 0 + 0x8030) 8 kvAt) (lsBase 0 + 0x8038) 8 (layer * 2 ^ 32)
/-- FLG[5] names the record behind the command. -/
def cK (flg d1 d3 : Nat) : EngineCmd := { cmdOf 1 9 0 flg d1 0 d3 with kvdesc := BitVec.ofNat 64 kvAt }
def cKl : EngineCmd := cK 32 0 (tB 0x3000)
def cKs : EngineCmd := cK 36 (tB 0x3000) 0

/-- The parts of a VTKV load in turn. -/
def kvlCheck (s : State) (cmd : EngineCmd) : Bool :=
  let t := descOf (cmd.d 3)
  match kvChecks s 0 cmd false with
  | .ok (s1, _, k, d) =>
    match pinReads s1 0 cmd (stateSpans d k) with
    | .ok s2 =>
      match kvLayers 0 cmd d k (cleanStates s2 0 cmd d k) s2 with
      | .ok (s3, ls, readable) =>
        let spans := ls.map fun x => d.rowSpan k x.2 (k.tok + x.1)
        match pinReads s3 0 cmd spans with
        | .ok s4 =>
          match cleanReads s4 0 cmd (kvSpan cmd ++ recordSpan (vxRecord cmd) ++ stateSpans d k ++ spans) with
          | .ok s5 =>
            match kvHandle s5 0 cmd d k ls with
            | .ok (s6, h) =>
              let ws : List Write := spans.zipIdx.map fun x => (t.addr + 32 * t.stride * x.2, x.1.2, engReadNow s6 0 cmd x.1)
              isOk (cleanWrites s6 0 cmd (ws.map fun w => (w.1, w.2.1))) && h == 5 && readable &&
                ls == (List.range 32).map fun i => (i, if i = 5 then 1 else 2)
            | .error _ => false
          | .error _ => false
        | .error _ => false
      | .error _ => false
    | .error _ => false
  | .error _ => false
/-- Layer 2, the row of token 5 from layer 1. -/
theorem witness_vtkvLoad : kvlCheck (mEn 1 cKl Acc.zeroed (kvMem6 2)) cKl = true := by decide +kernel

/-- The parts of a VTKV store in turn. -/
def kvsCheck (s : State) (cmd : EngineCmd) : Bool :=
  let t := descOf (cmd.d 1)
  let rows := t.rows 32 (rowBytes t.dtype)
  match kvChecks s 0 cmd true with
  | .ok (s1, r, k, d) =>
    let spans := kvRows d k
    let states := stateSpans d k
    match pinWrites s1 0 cmd (spans ++ states) with
    | .ok s2 =>
      match cleanReads s2 0 cmd (kvSpan cmd ++ recordSpan (vxRecord cmd) ++ operandSpans s2 0 cmd t rows) with
      | .ok s3 => isOk (cleanWrites s3 0 cmd (spans ++ states)) && isOk (kvStoreRows s3 0 cmd t r rows) && bitN cmd.flg 2
      | .error _ => false
    | .error _ => false
  | .error _ => false
theorem witness_vtkvStore : kvsCheck (mEn 1 cKs Acc.zeroed (kvMem6 1)) cKs = true := by decide +kernel
/-- The same from a tile in the hrow domain. -/
def cKh : EngineCmd := cK 36 (tH 0x3020) 0
theorem witness_vtkvStoreHaar : kvsCheck (mEn 1 cKh Acc.zeroed (memWrite (kvMem6 1) (lsBase 0 + 0x3000) 32 hdr)) cKh = true := by
  decide +kernel

theorem witness_vtkvWake : ∃ s, Executes s 0 1 cKl ∧ (coreAt s 0).vx.stalled.isSome = true :=
  ⟨{ mEn 1 cKl with cores := [(0, { core [] with vx := { engOf cKl with stalled := some 0x645 } })] }, ⟨rfl, rfl, rfl⟩, rfl⟩
/-- A reserved OPC, and a reserved selector of a known one. -/
theorem witness_reserved : Executes (mEn 0 (cM 200 0)) 0 0 (cM 200 0) ∧ (cM 200 0).fut = 0 ∧
    (engineAt (coreAt (mEn 0 (cM 200 0)) 0) 0).fifo.length < 8 ∧ writesWaiting (mEn 0 (cM 200 0)) (engineAgent 0 0) = false :=
  ⟨⟨rfl, rfl, rfl⟩, by decide +kernel, by decide, by decide +kernel⟩
/-- A strand parked on a page fault, on a repack, on a device register, with its access on its way, and one that runs. -/
theorem witness_engineFault (r : Run) (_ : r ∈ [.parked (.fault 0 0), .parked .repack, .parked (.device []), .parked .reply, .ready 0]) :
    ∃ t, tget (mach [] fun t => { t with run := r }).strands 0 = some t ∧ t.run = r := ⟨_, rfl, rfl⟩
theorem witness_engineFaultWakes : ∃ t, tget (mach []).strands 0 = some t ∧ (∀ va n, t.run ≠ .parked (.fault va n)) ∧
    t.run ≠ .parked .repack ∧ (∀ n, t.run ≠ .parked (.device n)) ∧ t.run ≠ .parked .reply :=
  ⟨_, rfl, nofun, nofun, nofun, nofun⟩

/-! ### Copies and deliveries -/

/-- A copy of core 0 as captured, `n` bytes a run from 0x1000 to `dst`, with CXMESH 0; `opt` is CXMODE. -/
def copyOf (opt : Nat) (n : Nat := 64) (dst : Nat := 0x2000) (d1 : Nat := 1) (step : Nat := 0) : Copy :=
  ⟨[0x1000, BitVec.ofNat 64 dst, BitVec.ofNat 64 n, BitVec.ofNat 64 d1, 1, BitVec.ofNat 64 step, 0, 0, 0, BitVec.ofNat 64 opt],
    [(0, 0)], 0, 0, 1, 0, false, opt % 16, 0, 0, 0, none, none, none, [], [], none, [], []⟩
/-- Core 0 has the copy under identifier 1. -/
def mCp (c : Copy) : State := { mach [] with cores := [(0, { core [] with copies := [(1, c)] })] }
/-- Each mode with a status of 0: a run, a strided run, a slab of one core, gather, scatter, broadcast, reduce, table. -/
def copyOfMode : Nat → Copy
  | 6 => copyOf (6 + 2 * 32) 64
  | 7 => copyOf 7 16 3
  | m => copyOf m
theorem witness_copies : ∀ m < 8, tget (coreAt (mCp (copyOfMode m)) 0).copies 1 = some (copyOfMode m) ∧
    (copyOfMode m).mode = m ∧ copyStatus (mCp (copyOfMode m)) (copyOfMode m) = 0 ∧
    copyStatus (mCp (copyOf (m + 2 ^ 40))) (copyOf (m + 2 ^ 40)) ≠ 0 := by decide +kernel
theorem witness_chunk : ∃ s1 c1 l, (copyOf 0).status = none ∧ (copyOf 0).fault = none ∧ copyPaused (mCp (copyOf 0)) (copyOf 0) = false ∧
    oneChunk (mCp (copyOf 0)) 0 1 (copyOf 0) = .ok (s1, c1, l) ∧ l = true :=
  ⟨_, _, _, rfl, rfl, by decide +kernel, ok_triple (by decide +kernel), by decide +kernel⟩
/-- Two runs, 64 bytes apart: the first chunk is not the last. -/
theorem witness_chunkMore : ∃ s1 c1 l, oneChunk (mCp (copyOf 0 64 0x2000 2 (2 ^ 38))) 0 1 (copyOf 0 64 0x2000 2 (2 ^ 38)) = .ok (s1, c1, l) ∧
    l = false := ⟨_, _, _, ok_triple (by decide +kernel), by decide +kernel⟩
-- R253: two runs of two bytes fill one word: the first writes nothing, the second the whole word
theorem test_chunkWord : out (exec (.copyChunk 0 1) { mCp (copyOf 0 2 0x2000 2 (2 + 2 ^ 33)) with
    mem := memWrite [] (lsBase 0 + 0x1000) 4 0x4433_2211 })
    (fun s => (loadPhys s (lsBase 0 + 0x2000) 4, (tget (coreAt s 0).copies 1).map (·.part.length),
      out (exec (.copyChunk 0 1) s) fun s => loadPhys s (lsBase 0 + 0x2000) 4)) =
    some (0, some 2, some 0x4433_2211) := by decide +kernel
theorem witness_tableSlot : ∃ s1 c2 ps, (copyOfMode 7).opt 13 1 = 0 ∧ (copyOfMode 7).status = none ∧ (copyOfMode 7).fault = none ∧
    copyPaused (mCp (copyOfMode 7)) (copyOfMode 7) = false ∧
    tableParts (mCp (copyOfMode 7)) 0 (copyOfMode 7) = .ok (s1, c2, ps) ∧ partsPoisoned s1 ps = false :=
  ⟨_, _, _, by decide +kernel, rfl, rfl, by decide +kernel, ok_triple (by decide +kernel), by decide +kernel⟩
/-- A chunk of TABLE that was begun goes on while its launch is paused. -/
theorem witness_tableFlight : ∃ c : Copy, tableInFlight c = true ∧ c.mode = 7 :=
  ⟨{ copyOfMode 7 with run := 1, held := some ⟨1, lsBase 0 + 0x1000, 0, 0x1000, 0x1FFF⟩ }, by decide +kernel, rfl⟩
/-- A chunk of REDUCE over core 0 alone; and a REDUCE of no element. -/
theorem witness_reduce : ∃ s1 ds s2 c2, let c := copyOfMode 6; c.mode = 6 ∧ c.esize ≤ c.dim 0 ∧
    Nat.min (c.dim 0 / c.esize * c.esize - c.off) (Nat.min (4096 - 0x2000 % 4096) (4096 - (c.src % 2 ^ 17 + c.off) % 4096)) = 64 ∧
    pinSides 0 c 64 (mCp c) [.virt 0x2000] = .ok (s1, ds) ∧ participantBad s1 c (c.src % 2 ^ 17 + c.off) 64 = false ∧
    (∀ x ∈ c.modules, x = selfWord (mCp c) c.lid ∨ routeOk (mCp c) c.lid x = true) ∧
    copyWrite s1 0 1 c 0 ds = (s2, c2) ∧ (copyOf (6 + 2 * 32) 0).dim 0 < (copyOf (6 + 2 * 32) 0).esize :=
  ⟨_, _, _, _, rfl, by decide +kernel, by decide +kernel, ok_pair (by decide +kernel), by decide +kernel,
    by decide +kernel, rfl, by decide +kernel⟩
-- an int32 sum of one participant is its value, SELF alone in the box
theorem test_reduce : out (exec (.copyChunk 0 1) { mCp (copyOfMode 6) with mem := memWrite [] (lsBase 0 + 0x1004) 4 77 })
    (fun s => loadPhys s (lsBase 0 + 0x2004) 4) = some 77 := by decide +kernel
theorem witness_complete : (coreAt (mCp (copyOf 0)) 0).mailbox.length < 64 ∧
    writesWaiting (mCp (copyOf 0)) (copyAgent 0 1) = false ∧
    (let s2 := wakeWhere (mCp (copyOf 0)) fun _ t w => t.uid == (copyOf 0).uid && w == .engines
     ∃ s1, Arrives s2 0 32 (copyNumber (coreAt (mCp (copyOf 0)) 0) 1) s1) ∧
    64 ≤ (coreAt (modCore (mCp (copyOf 0)) 0 fun c => { c with mailbox := List.replicate 64 ⟨0, 0, 0⟩ }) 0).mailbox.length :=
  ⟨by decide, by decide +kernel, ⟨_, mCp (copyOf 0), by decide, by decide +kernel, rfl⟩, by decide +kernel⟩

-- MessagesAndGuestsArrive
theorem witness_arrives : inboxHeld (coreAt (mach []) 0) 3 < 9 ∧ (coreAt (mach []) 0).mailbox.length < 64 ∧
    (∃ s1, Arrives (mach []) 0 3 7 s1) ∧ ∃ s1, Arrives (mach []) 0 (32 + 2) 7 s1 :=
  ⟨by decide, by decide, ⟨_, mach [], by decide, by decide +kernel, rfl⟩, _, mach [], by decide, by decide +kernel, rfl⟩
/-- Cores 0 and 1 of one launch: an output queue of core 0 leads east into an input queue of core 1 that listens west. -/
def mQueue : State :=
  { mach [] with
      launches := [(1, { probeLaunch with coreMap := [(0, 0), (1, 1)] })]
      cores := [(0, { core [] with outq := [(0, ⟨1, [5]⟩)] }),
                (1, { core [] with logical := 1, inq := [(0, ⟨1 + 2 * 2, []⟩)] })] }
theorem witness_queue : bitN (queueAt (coreAt mQueue 0).outq 0).setting.toNat 0 = true ∧
    (queueAt (coreAt mQueue 0).outq 0).items = [5] ∧
    neighbourCore mQueue 0 (fieldN (queueAt (coreAt mQueue 0).outq 0).setting.toNat 1 2) = some 1 ∧
    takesEntry (coreAt mQueue 1) (fieldN (queueAt (coreAt mQueue 0).outq 0).setting.toNat 3 2)
      (fieldN (queueAt (coreAt mQueue 0).outq 0).setting.toNat 1 2) = true ∧
    mQueue.agenda.contains (.queueTransfer 0 0) = false := by decide +kernel
theorem witness_queueArrives : ∃ s0, Arrives mQueue 1 (40 + 0) (senderWord mQueue 1 0 0 0) s0 :=
  ⟨_, mQueue, by decide, by decide +kernel, rfl⟩
theorem packetCore_zero {s : State} {k : Packet} {n : Nat} (h : (packetCore s k).isSome = true) (hn : ((packetCore s k).get h).2 = n) :
    packetCore s k = some (((packetCore s k).get h).1, n) := by subst hn; simp
/-- A strand on its way to core 0, and one in its guest queue. -/
def packet : Packet := ⟨roam str, 0, .core 0, false⟩
def mGuest : State :=
  { mach [] with
      packets := [(1, packet)], cores := [(0, { core [] with guests := [packet] })] }
theorem witness_guests : ∃ s1 u, tget mGuest.packets 1 = some packet ∧ packet.landed = false ∧
    packetCore mGuest packet = some (s1, 0) ∧ (coreAt s1 0).guests.length < 8 ∧ landedAt s1 0 = [] ∧ (coreAt mGuest 0).guests = packet :: [] ∧ guestSlots mGuest 0 ≠ [] ∧
    roamRegion mGuest 0 packet.strand.map = some u :=
  ⟨_, _, rfl, rfl, packetCore_zero (by decide +kernel) (by decide +kernel), by decide +kernel, by decide +kernel, rfl, by decide +kernel, some_of (by decide +kernel)⟩
/-- Eight guests wait: the packet lands; and one that has landed joins once there is room. -/
def mEight : State := { mGuest with cores := [(0, { core [] with guests := List.replicate 8 packet })] }
theorem witness_landing : (packetCore mEight packet).map (fun x => (8 ≤ (coreAt x.1 0).guests.length, x.2)) = some (True, 0) ∧
    { packet with landed := true }.landed = true ∧ { packet with landed := true }.dest = .core 0 ∧ (coreAt mGuest 0).guests.length < 8 :=
  ⟨by rw [Option.map_eq_some_iff]; exact ⟨_, some_of (by decide +kernel), Prod.ext (eq_true (by decide +kernel)) (by decide +kernel)⟩, rfl, rfl, by decide⟩
-- WokenStrandsRejoinRotation
/-- A launch with executable memory at 0x1_0000_0000, which lies in vault 0. -/
def ranged : Launch := { probeLaunch with ranges := [⟨0x1_0000_0000, 0x1_0000_FFFF, 0, 0x3C⟩] }
def mRun (r : Run) (f : Strand → Strand := id) : State :=
  { mach [] (fun t => f { t with run := r }) with launches := [(1, ranged)] }
theorem witness_fetchLine : ∃ s1 pa leaf, translate (mRun (.parked (.fetch 0x1_0000_0000))) 1 (.core (keyCore 0))
      (asidOf (mRun (.parked (.fetch 0x1_0000_0000))) 1) false .fetch 0x1_0000_0000 = .ok (s1, pa, leaf) ∧
    (poisoned s1 (lineOf pa * 64) 64).isSome = false ∧ (cacheGet (clusterAt s1 0).icache (lineOf pa)).isNone = true ∧
    ((curStrand (mRun (.parked (.fetch 0x1_0000_0000)))).lid, (curStrand (mRun (.parked (.fetch 0x1_0000_0000)))).sv,
      (curStrand (mRun (.parked (.fetch 0x1_0000_0000)))).run) = (1, false, .parked (.fetch 0x1_0000_0000)) :=
  ⟨_, _, _, ok_triple (by decide +kernel), by decide +kernel, by decide +kernel, rfl⟩
/-- The middle cache already has the line. -/
theorem witness_fetchHit : (cacheGet (clusterAt (fillMiddle (mRun .woken) 0 5 9) 0).icache 5) = some 9 := by decide +kernel
theorem witness_woken : (strandAt (mRun .woken) 0).run = .woken ∧ writesWaiting (mRun (.parked .reply)) 0 = false ∧
    (mRun (.parked (.device [.deviceRegisterWrite 8 5]))).agenda.contains (.deviceRegisterWrite 8 5) = false ∧
    (strandAt (mRun (.parked (.waitA 2 0 (some 0) 4))) 0).run = .parked (.waitA 2 0 (some 0) 4) ∧
    (strandAt (mRun (.parked .arming)) 0).run = .parked .arming ∧ (∀ x ∈ [(0, 1, 0x1000)], chunkHolds (mRun .woken) x = false) ∧
    (monAt (strandAt (mRun .woken fun t => { t with mons := [{ Monitor.none with fired := true }] }) 0) 0).fired = true := by
  decide +kernel
-- BarriersTakesReservationsAndFutureEvents
/-- A strand whose take of the empty word 0x100 was refused, 64 cycles ago. -/
def mTake : State :=
  { mach [] (fun t => { t with run := .parked .takeRefused, takes := [⟨0x4000_0000, 0, 0x100, lsBase 0 + 0x100, none⟩] }) with
      cycle := 64 }
theorem witness_take : (strandAt mTake 0).run = .parked .takeRefused ∧ (strandAt mTake 0).lastIssue.getD 0 + 64 ≤ mTake.cycle ∧
    (let xs := (strandAt mTake 0).takes.filter fun x => x.pc == (strandAt mTake 0).pc && x.got.isNone
     xs ≠ [] ∧ ∀ x ∈ xs, (takenBy (strandAt (sendTakes mTake 0 xs) 0) x.lane x.ea).isSome = true) := by
  decide +kernel
/-- A word free with a strand in its queue, a word free with none, a word held for 4,096 cycles. -/
def mRsv : State :=
  { mach [] (fun t => { t with holds := some (0x300, 0x4000_0000, 0) }) with
      cycle := 4096, rsvs := [(0x100, ⟨none, 0, false, [0], []⟩), (0x200, ⟨none, 0, false, [], []⟩), (0x300, ⟨some 0, 0, false, [], []⟩)] }
theorem witness_rsvEvents : (∃ q ks, tget mRsv.rsvs 0x100 = some q ∧ q.holder = none ∧ q.queue = 0 :: ks) ∧
    (∃ q, tget mRsv.rsvs 0x200 = some q ∧ q.holder = none ∧ q.queue = []) ∧
    ∃ t, tget mRsv.strands 0 = some t ∧ t.holds = some (0x300, 0x4000_0000, 0) ∧ 0 + 4096 ≤ mRsv.cycle :=
  ⟨⟨_, _, rfl, rfl, rfl⟩, ⟨_, rfl, rfl, rfl⟩, _, rfl, rfl, by decide⟩
/-- A group that counts down, one that is settled, one whose count is 0. -/
theorem witness_groupUpdate : (∃ f u, futOf mF 5 = some f ∧ rrAllow mF f.owner 4 5 0 = some mF ∧
    fdecAt mF 5 ⟨4, f.owner, 0, false⟩ = some u) ∧ (∃ u, fdecAt mR 5 ⟨4, 0, 0, false⟩ = some u) ∧
    fdecAt (machF [] { Future.reset with st := .pending }) 5 ⟨4, 0, 0, false⟩ = none :=
  ⟨⟨_, _, some_of (by decide +kernel), by decide +kernel, some_of (by decide +kernel)⟩,
    ⟨_, some_of (by decide +kernel)⟩, Option.isNone_iff_eq_none.mp (by decide +kernel)⟩
theorem witness_futfree : ∃ f, futOf (machF [] { Future.reset with st := .cancelled }) 5 = some f ∧ f.owner = 0 ∧
    f.st = .cancelled := ⟨_, some_of (by decide +kernel), by decide +kernel, by decide +kernel⟩

/-! ### Tasks, backfill, launches, faults, the hub and the module -/

/-- A record of launch 1 in the queue of cluster 0, its map a roam map, its footprint 64 bytes of vault 0. -/
def task0 (st : TaskState) : Task :=
  ⟨0x5000_0000, ⟨2 ^ 33, names⟩, 0x400_0400, some 0x400, 64, 0, 0, 0, false, 5, 1, 0, false, 0, 0, 0, st, false, 15, false, 0,
    false, none, false, none⟩
/-- The launch has 4 KiB of footprint area from 0x10000. -/
def mT (st : TaskState) (now : Nat := 0) : State :=
  { mach [] with
      tasks := [(3, task0 st)], cycle := now
      launches := [(1, { probeLaunch with hdr := BitVec.ofNat 2048 ((0x10000 + 0x1000 * 2 ^ 32) * 2 ^ (8 * 0x60)) })] }

theorem witness_pick : (pickRecord (mT (.ready 0 0)) 0).isSome = true := by decide +kernel
/-- What moving pieces leaves when nothing stops it. -/
theorem moved_of {r : State × Option FootStop} (h : r.2.isNone = true) : r = (r.1, none) := by
  obtain ⟨s, o⟩ := r
  cases o with
  | none => rfl
  | some x => cases h
theorem witness_footprint : ∃ s1, taskAt (mT (.fetching 0 13 0x1000)) 3 = some (task0 (.fetching 0 13 0x1000)) ∧
    movePieces (fetchPiece 3 (task0 (.fetching 0 13 0x1000)) 0 0x1000) (mT (.fetching 0 13 0x1000))
      (piecesLeft (task0 (.fetching 0 13 0x1000))) = (s1, none) ∧ writesWaiting s1 (footAgent 3) = false :=
  ⟨_, rfl, moved_of (by decide +kernel), by decide +kernel⟩
theorem witness_retire : ∃ s1, taskAt (mT (.retiring 0 0x1000 13)) 3 = some (task0 (.retiring 0 0x1000 13)) ∧
    retireReady (mT (.retiring 0 0x1000 13)) (task0 (.retiring 0 0x1000 13)) 0 = true ∧
    movePieces (writePiece 3 (task0 (.retiring 0 0x1000 13)) 0 0x1000) (mT (.retiring 0 0x1000 13))
      (piecesLeft (task0 (.retiring 0 0x1000 13))) = (s1, none) ∧ writesWaiting s1 (footAgent 3) = false :=
  ⟨_, rfl, by decide +kernel, moved_of (by decide +kernel), by decide +kernel⟩
theorem witness_timeouts : (task0 (.ready 0 0)).urgent = false ∧ (task0 (.ready 0 0)).late = false ∧
    0 + 65536 < (mT (.ready 0 0) (2 ^ 20)).cycle ∧ 0 + 2 ^ 20 ≤ (mT (.ready 0 0) (2 ^ 20)).cycle := by decide

/-- The descriptor of the region as CONF.exit read it. -/
def kvBits : BitVec 512 := BitVec.ofNat 512 (memRead kvMem (vaultBase 0 + 0x400) 64)

/-- A job for layer 2 of token 5, its routine's future in entry 7. -/
def job0 (task : Option Nat) (tested : Bool := false) : Job :=
  ⟨1, 0, false, 0, 0, 5, 2, 2, 0x400_0800, 5, BitVec.ofNat 48 kvAt, kvBits, 0, 0, true, false, 0, false, task, tested, none⟩
def mJ (f : FutState) (tested : Bool := true) : State :=
  { mK 2 with
      jobs := [(4, job0 (some 7) tested)], launches := [(1, { probeLaunch with started := true })]
      futures := [(5, { Future.reset with st := .pending, owner := 1 }), (7, { Future.reset with st := f, value := 0xF1 })] }
theorem witness_jobPost : ∃ st b, tget (mach [] fun t => { t with job := some (job0 none) }).strands 0 = some st ∧
    st.job = some b ∧ jobsQueued (mach [] fun t => { t with job := some (job0 none) }) b.cluster < 64 :=
  ⟨_, _, rfl, rfl, by decide⟩
theorem layer_h : isOk (validateLayer (mJ .resolved) 4 (job0 (some 7) true)) = true := by decide +kernel
theorem layer_h2 : (okV _ layer_h).isSome = true := by decide +kernel
theorem witness_layerDone : ∃ s3, tget (mJ .resolved).jobs 4 = some (job0 (some 7) true) ∧
    jobLive (mJ .resolved) (job0 (some 7) true) = true ∧ routineCancelled (mJ .resolved) (job0 (some 7) true) = none ∧
    validateLayer (mJ .resolved) 4 (job0 (some 7) true) = .ok (some s3) ∧
    writesWaiting (setJob s3 4 (job0 (some 7))) (jobAgent 4) = false :=
  ⟨(okV _ layer_h).get layer_h2, rfl, by decide +kernel, by decide +kernel,
    by rw [← some_of layer_h2]; exact ok_of layer_h, by decide +kernel⟩
/-- Its mark is made and has been performed. -/
theorem witness_layerMarked : tget (mJ .resolved false).jobs 4 = some (job0 (some 7)) ∧ (job0 (some 7)).tested = false ∧
    jobLive (mJ .resolved false) (job0 (some 7)) = true ∧ writesWaiting (mJ .resolved false) (jobAgent 4) = false :=
  ⟨rfl, rfl, by decide +kernel, by decide +kernel⟩
/-- A job that can start, and none. -/
theorem witness_jobStart : jobsWhere { mJ .pending with jobs := [(4, { job0 none with running := false })] } 0
      (jobCanStart { mJ .pending with jobs := [(4, { job0 none with running := false })] }) ≠ [] ∧
    jobsWhere State.reset 0 (jobCanStart State.reset) = [] := by decide +kernel
theorem witness_layerCancelled : ∃ s3, routineCancelled (mJ .cancelled) (job0 (some 7) true) = some 0xF1 ∧
    settleJob (mJ .cancelled) 4 (job0 (some 7) true) (.cancel 0xF1) = some s3 :=
  ⟨_, by decide +kernel, some_of (by decide +kernel)⟩

-- LaunchesStartEndAndMove
theorem witness_lqpush : fieldN (1 : BitVec 64).toNat 0 4 ≠ 0 ∧ fieldN (0x1000 : BitVec 64).toNat 0 4 = 0 ∧
    (queueOf State.reset 0).length < 64 := by decide
theorem witness_admit : ringFull State.reset = false ∧ moduleQuiescing State.reset = false ∧
    ringFull { State.reset with reports := [7] } = true := by decide +kernel
/-- Launch 1 and nothing of it left. -/
def mEmpty (l : Launch) : State := { mach [] with launches := [(1, l)], strands := [] }
theorem witness_launch : launchAt (mEmpty { probeLaunch with started := false }) 1 = some { probeLaunch with started := false } ∧
    launchOver (mEmpty probeLaunch) probeLaunch 1 = true ∧
    mergeWaits (rrRetry (flushCores (mEmpty probeLaunch) probeLaunch) 1) probeLaunch = false ∧
    (endLaunch (rrRetry (flushCores (mEmpty probeLaunch) probeLaunch) 1) probeLaunch 1).isSome = true ∧
    (endLaunch (cancelTasks (killLaunch (mEmpty probeLaunch) probeLaunch 1) 1) probeLaunch 1).isSome = true ∧
    writesWaiting (mEmpty { probeLaunch with started := false }) loadWriter = false ∧ ringFull (mEmpty probeLaunch) = false ∧ probeLaunch.hung = false ∧
    probeLaunch.started = true ∧ { probeLaunch with wdogLeft := 0 }.wdogLeft = 0 ∧
    (launchAt (beginGrey (mEmpty probeLaunch) 1) 1).isSome = true ∧
    ((launchAt (beginGrey (mEmpty probeLaunch) 1) 1).all fun l => launchQuiet (beginGrey (mEmpty probeLaunch) 1) l 1) = true ∧
    (let s := beginGrey (mach [] fun t => { t with run := .parked .reply }) 1; (launchAt s 1).any fun l => !(launchQuiet s l 1)) = true ∧ { probeLaunch with hung := true }.hung = true ∧
    endable (mEmpty { probeLaunch with hung := true }) { probeLaunch with hung := true } 1 = true ∧
    endable (mach [] fun t => { t with run := .stopped }) probeLaunch 1 = true := by
  decide +kernel
/-- A context whose route table names the module itself, with the two bytes of its number, and whose core table maps
logical core 0 to core 0; a launch waits to return to it. -/
def mSaved (lo hi : BitVec 8) : State :=
  { State.reset with
      mem := [(0x100, lo), (0x101, hi), (0x103, 0x80), (0x203, 0x80)]
      hub := { State.reset.hub with dev := [(0x1000, 0x200), (0x1008, 0x100)] }
      saved := [(1, ⟨{ probeLaunch with hdr := 0 }, [], [], [], [], [], []⟩)] }
/-- What reading four bytes of that memory gives. -/
theorem saved_mem (lo hi : BitVec 8) : memRead (mSaved lo hi).mem 0x100 4 = 2 ^ 31 + (lo.toNat + 256 * hi.toNat) ∧
    memRead (mSaved lo hi).mem 0x200 4 = 2 ^ 31 := by
  simp only [mSaved]
  constructor <;> simp [memRead, memGet, tgetD, tget, unlistedByte]
  omega
theorem saved_dev (lo hi : BitVec 8) : devReg (mSaved lo hi) 0x1008 = 0x100 ∧ devReg (mSaved lo hi) 0x1000 = 0x200 ∧
    devReg (mSaved lo hi) 0x1010 = 0 := by
  simp only [mSaved, devReg]
  simp [tgetD, tget]
theorem saved_ring (lo hi : BitVec 8) : ringFull (mSaved lo hi) = false := by
  have h : devReg (mSaved lo hi) 0x40 = 0 := by simp [mSaved, devReg, tgetD, tget]
  simp [ringFull, ringSize, h, fieldN, show (mSaved lo hi).reports = [] from rfl, show (mSaved lo hi).lrHead = 0 from rfl,
    show (mSaved lo hi).lrTail = 0 from rfl]
theorem saved_route (lo hi : BitVec 8) : routeEntry (mSaved lo hi) 0 0 = 2 ^ 31 + (lo.toNat + 256 * hi.toNat) := by
  simp only [routeEntry, loadPhys, Nat.mul_zero, Nat.add_zero, saved_dev]
  exact (saved_mem lo hi).1
theorem saved_core (lo hi : BitVec 8) : coreTabEntry (mSaved lo hi) 0 0 = 2 ^ 31 := by
  simp only [coreTabEntry, loadPhys, Nat.mul_zero, Nat.add_zero, saved_dev]
  exact (saved_mem lo hi).2
theorem saved_context {s : State} (hd : devReg s 0x1010 = 0) (h : routeEntry s 0 0 = 2 ^ 31 + Config.moduleId.toNat) :
    contextOk s 0 = true := by
  have hm : Config.moduleId.toNat < 4096 := Config.moduleId.isLt
  have h0 : fieldN 0 12 12 = 0 := rfl
  simp only [contextOk, Nat.mul_zero, Nat.add_zero, hd, h0, h]
  simp [bitN, fieldN]
  omega
theorem witness_restore : ∃ s x m, savedAt s 1 = some x ∧ placeLaunch s x.launch.ctx (launchCores x.launch) = some m ∧
    roomFor s m (x.launch.field 0x68 0 2) = .free ∧ ringFull s = false ∧ someFaulty s m = false := by
  have h2 := saved_context (s := mSaved (BitVec.ofNat 8 Config.moduleId.toNat) (BitVec.ofNat 8 (Config.moduleId.toNat / 256)))
    (saved_dev _ _).2.2 (by rw [saved_route]; simp only [BitVec.toNat_ofNat]; have := Config.moduleId.isLt; omega)
  refine ⟨mSaved (BitVec.ofNat 8 Config.moduleId.toNat) (BitVec.ofNat 8 (Config.moduleId.toNat / 256)), _, [(0, 0)], rfl, ?_, rfl, saved_ring _ _, rfl⟩
  have h3 : mapCores (mSaved (BitVec.ofNat 8 Config.moduleId.toNat) (BitVec.ofNat 8 (Config.moduleId.toNat / 256))) 0 [0] =
      some [(0, 0)] := by
    simp only [mapCores, List.mapM_cons, List.mapM_nil, saved_core]
    simp [bitN, fieldN, Config.physicalCores]
  have h4 : hdrCores (0 : BitVec 2048).toNat = [0] := by decide +kernel
  have h5 (lo hi : BitVec 8) : coresOk (mSaved lo hi) [(0, 0)] = true := rfl
  simp only [launchCores, h4]
  simp only [placeLaunch, probeLaunch, h2, h3, h5]
  rfl

-- FaultQueuesAndHubRegisters
theorem witness_faultQueue : ∃ e r, (clusterAt { State.reset with clusters := [(0, { clusterAt State.reset 0 with fqWait := [7] })] } 0).fqWait =
      e :: r ∧ (clusterAt { State.reset with clusters := [(0, { clusterAt State.reset 0 with fqWait := [7] })] } 0).fqCount < 256 :=
  ⟨_, _, rfl, by decide⟩
theorem witness_freply : corePhys (mach []) (fieldN (0x1_0000 : BitVec 64).toNat 16 16) (fieldN (0x1_0000 : BitVec 64).toNat 32 16) =
    some 0 := by decide +kernel
theorem witness_device : poolDecReserved (2 ^ 63 + 3) = false ∧ poolDecReserved (2 ^ 63 + 7 * 2 ^ 60) = true ∧
    devMask 0x40 0x5FFF = some 0x50FF ∧ devMask 0x2078 5 = some 5 ∧ devMask 0x2080 5 = none := by decide +kernel
theorem witness_attest : { State.reset.hub with attQueue := [0x40] }.attQueue = 0x40 :: [] := rfl
-- ModuleEventsResults
/-- Four levels of tables in vault 0 for ASID 0: a 64 KiB page at 0x1001_0000 on the frame 0x10_0000. -/
def pageMem : List Host.Cell :=
  [(0x8000, 0x30_1001), (0x30_1000, 0x30_2001), (0x30_2000, 0x30_3001), (0x30_3000 + 8 * 0x80, 0x30_4001),
    (0x30_4000 + 8 * 0x10, 0x10_0000 + 2 ^ 9 + 0xF)].foldl (fun m x => memWrite m x.1 8 x.2) []
def mPage (migs : List Migration) : State :=
  { mach [] with
      mem := pageMem
      hub := { State.reset.hub with dev := [(0x100, 0x8000)] }
      migrations := migs
      replicas := [⟨0, 0x1001, [(1, 0x3FF)]⟩]
      strands := [(0, { str with run := .parked (.migration 0 0x1001) })] }
theorem witness_page : pageParts (mPage []) 0 0x1001 ≠ [] ∧ pagePinned (mPage []) 0 0x1001 = false ∧
    pageMovable (mPage []) 0 0x1001 = true ∧ pageFootprint (mPage []) 0 0x1001 = false ∧
    ((pageParts (mPage []) 0 0x1001).any fun x => partReserved (mPage []) x.pa) = false ∧ pageChunks (mPage []) 0 0x1001 = [] ∧
    (∀ x ∈ pageParts (mPage []) 0 0x1001, reservedByOther (mPage []) none x.entry 8 = none) ∧
    ((mPage [⟨0, 0x1001, 0x20, true⟩]).migrations.find? fun m => m.asid == 0 && m.page == 0x1001) = some ⟨0, 0x1001, 0x20, true⟩ ∧
    ((mPage []).replicas.any fun m => m.asid == 0 && m.page == 0x1001) = true ∧
    replicaWritten (mPage []) 0 0x1001 = true := by decide +kernel
/-- Memory reads 0 where it lists nothing. -/
theorem tget_none {β : Type} (k : Nat) : ∀ t : Table β, (∀ e ∈ t, e.1 ≠ k) → tget t k = none
  | [], _ => rfl
  | e :: r, h => by
    rw [tget, if_neg (h e (List.mem_cons_self ..)), tget_none k r fun x hx => h x (List.mem_cons_of_mem _ hx)]
theorem unlisted (m : List Host.Cell) : ∀ (n a : Nat), (∀ e ∈ m, e.1 < a ∨ a + n ≤ e.1) → memRead m a n = 0
  | 0, _, _ => rfl
  | n + 1, a, h => by
    have h0 : memGet m a = 0 := by
      rw [memGet, tgetD, tget_none a m fun e he => by have := h e he; omega]; rfl
    rw [memRead, h0, unlisted m n (a + 1) fun e he => by have := h e he; omega]; rfl
/-- Only address space 0 has a root. -/
theorem page_root (asid : Nat) (h0 : asid ≠ 0) (h : asid < 65536) : asidRoot (mPage []) asid = .error .format := by
  have hp : (mPage []).poison = [] := rfl
  have hd : asidDesc (mPage []) asid = 0x8000 + 32 * asid := by
    have : devReg (mPage []) 0x100 = 0x8000 := by decide +kernel
    rw [asidDesc, this]
  have hm : ∀ e ∈ pageMem, e.1 < 0x8020 ∨ 0x30_0000 ≤ e.1 := by decide +kernel
  have hr : loadPhys (mPage []) (0x8000 + 32 * asid) 8 = 0 :=
    unlisted pageMem 8 _ fun e he => by have := hm e he; omega
  have hq : poisoned (mPage []) (0x8000 + 32 * asid) 32 = none := by
    simp [poisoned, hp, damaged, show (mPage []).sectors = [] from rfl]
  simp [asidRoot, hd, hq, hr, bitN]
/-- What holds of no extent of a table's one entry, and not of the table, holds of none of its extents. -/
theorem any_table {s : State} {f : Nat × Nat → Bool} (fuel level table i : Nat)
    (hz : ∀ j, j < 512 → j ≠ i → loadPhys s (table + 8 * j) 8 = 0) (ht : f (table, 12) = false)
    (hi : (let e := loadPhys s (table + 8 * i) 8
      (if !(bitN e 0) || !(entryFormatOk level e) then []
        else if bitN e 1 then [(leafBase level e, leafBits level e)]
        else tableExtents s fuel (level + 1) (fieldN e 12 40 * 4096)).any f) = false) :
    (tableExtents s (fuel + 1) level table).any f = false := by
  rw [tableExtents, List.any_cons, ht, Bool.false_or, List.any_flatMap, List.any_eq_false]
  intro j hj
  by_cases h : j = i
  · subst h; simpa using hi
  · simp [hz j (by simpa using hj) h, bitN]
theorem one_entry {m : List Host.Cell} {lo : Nat} (i : Nat) (h : ∀ e ∈ m, e.1 < lo ∨ lo + 4096 ≤ e.1 ∨ (lo + 8 * i ≤ e.1 ∧ e.1 < lo + 8 * i + 8)) :
    ∀ j, j < 512 → j ≠ i → memRead m (lo + 8 * j) 8 = 0 := fun j hj hne => unlisted m 8 _ fun e he => by have := h e he; omega
theorem witness_freeFrame : frameInUse (mPage []) (mappedExtents (mPage [])) 0x20 = false := by
  have h1 : (mappedExtents (mPage [])).any (fun x => x.1 < 65536 * 0x20 + 65536 && 65536 * 0x20 < x.1 + 2 ^ x.2) = false := by
    rw [mappedExtents, List.any_flatMap, List.any_eq_false]
    intro asid ha
    rcases Nat.eq_zero_or_pos asid with rfl | hpos
    · have e0 : asidRoot (mPage []) 0 = .ok 0x30_1000 := by rfl
      have e1 : loadPhys (mPage []) (0x30_1000 + 8 * 0) 8 = 0x30_2001 := by decide +kernel
      have e2 : loadPhys (mPage []) (0x30_2000 + 8 * 0) 8 = 0x30_3001 := by decide +kernel
      have e3 : loadPhys (mPage []) (0x30_3000 + 8 * 0x80) 8 = 0x30_4001 := by decide +kernel
      rw [e0]
      have hr : loadRanges (mPage []) 0 = [] := by decide +kernel
      simp only [hr, List.flatMap_nil, List.append_nil, Bool.not_eq_true]
      refine any_table 3 1 _ 0 (one_entry 0 (by decide +kernel)) rfl ?_
      simp only [e1]
      refine any_table 2 2 0x30_2000 0 (one_entry 0 (by decide +kernel)) rfl ?_
      simp only [e2]
      refine any_table 1 3 0x30_3000 0x80 (one_entry 0x80 (by decide +kernel)) rfl ?_
      simp only [e3]
      refine any_table 0 4 0x30_4000 0x10 (one_entry 0x10 (by decide +kernel)) rfl ?_
      decide +kernel
    · rw [page_root asid (by omega) (by simpa using ha)]; simp
  rw [frameInUse]
  simp only [h1]
  decide +kernel

/-- No image of a patch table, and one. -/
theorem witness_patchTable : patchTable [] = none ∧ ∃ table, patchTable [0x4B50, 0] = some table :=
  ⟨Option.isNone_iff_eq_none.mp (by decide +kernel), _, patchTable_empty⟩
theorem witness_retireRow : tgetD State.reset.hub.spareRows 2047 0 < 64 := by decide
/-- A flit of type 1 with sequence number 0; its payload begins with what the CRC has come to, which makes the rest of the
CRC that of zeros from 0. -/
def flit1 : BitVec 2048 := BitVec.ofNat 2048 (1 + 0x5677_2008 * 2 ^ 64 + 0xFFFF_FFFF * 2 ^ 1984)
/-- The same with a CRC field of 0. -/
def flit2 : BitVec 2048 := BitVec.ofNat 2048 (1 + 0x5677_2008 * 2 ^ 64)
theorem crc_zeros : ∀ n, (List.replicate n (0 : Byte)).foldl crcByte 0 = 0
  | 0 => rfl
  | n + 1 => by rw [List.replicate_succ, List.foldl_cons, show crcByte 0 0 = 0 by decide]; exact crc_zeros n
theorem witness_flit : flitCrcOk flit1.toNat = true ∧ flitType flit1.toNat = 1 ∧
    flitSeq flit1.toNat = (linkAt State.reset 2).expect ∧ flitCrcOk flit2.toNat = false := by
  have h1 : numBytes 248 flit1.toNat =
      [1, 0, 0, 0, 0, 0, 0, 0, 0x08, 0x20, 0x77, 0x56] ++ List.replicate 236 0 := by decide +kernel
  have h2 : numBytes 248 flit2.toNat =
      [1, 0, 0, 0, 0, 0, 0, 0, 0x08, 0x20, 0x77, 0x56] ++ List.replicate 236 0 := by decide +kernel
  refine ⟨?_, by decide +kernel, by decide +kernel, ?_⟩
  all_goals
    rw [flitCrcOk, crc32]
    first | rw [h1] | rw [h2]
    rw [List.foldl_append,
      show ([1, 0, 0, 0, 0, 0, 0, 0, 0x08, 0x20, 0x77, 0x56] : List Byte).foldl crcByte 0xFFFF_FFFF = 0 by decide +kernel, crc_zeros]
    decide +kernel
theorem witness_shutdown : State.reset.launches = [] ∧ (mach []).launches ≠ [] := by decide
theorem witness_ckpt : ckptBusy (setDev (mach []) 0x5200 (2 ^ 63)) = true ∧ (setDev (mach []) 0x5200 (2 ^ 63)).launches ≠ [] ∧
    ckptBusy (setDev State.reset 0x5200 (2 ^ 63)) = true ∧ (setDev State.reset 0x5200 (2 ^ 63)).launches = [] := by decide +kernel

/-! ### Frames, the step, encodings, the hub -/

theorem witness_computes : ∃ t di is, computes (.add g0 2 1 1 0) = some (g0, 2, [1, 1]) ∧ nameInfo (curStrand mS).map 2 = some di ∧
    infos (curStrand mS) [1, 1] = some is ∧ (di :: is).all rowName = true ∧ exec (.add g0 2 1 1 0) mS = .next t :=
  ⟨_, _, _, rfl, some_of (by decide +kernel), some_of (by decide +kernel), by decide +kernel, rfl⟩
theorem witness_compares : ∃ t is, comparesTo (.cmp g0 3 1 2 0) = some (g0, 3, [1, 2]) ∧ infos (curStrand mS) [1, 2] = some is ∧
    is.all rowName = true ∧ exec (.cmp g0 3 1 2 0) mS = .next t :=
  ⟨_, _, rfl, some_of (by decide +kernel), by decide +kernel, rfl⟩
/-- A store and a load of the word at 0x100. -/
theorem witness_frame (write : Bool) : ∃ s1 s2 t xs eas ts, AccessReady mM g0 (.imm ⟨none, 0⟩ 3) write 2 1 i2 [i1] [0] s1 s2 xs eas ts ∧
    (∀ y ∈ ts, ∃ pa leaf, y.tgt = .mem pa leaf) ∧ (MemForm.imm ⟨none, 0⟩ 3).releases = false ∧ i2.kind ≠ 5 ∧
    exec (if write then (MemForm.imm ⟨none, 0⟩ 3).store g0 2 1 else (MemForm.imm ⟨none, 0⟩ 3).load g0 2 1) mM = .next t := by
  cases write
  · exact ⟨_, _, _, _, _, [⟨0, 0x100, .mem (lsBase 0 + 0x100) none⟩],
      ⟨⟨rfl, by decide +kernel, by decide +kernel⟩, rfl, rfl, rfl, rfl, rfl, rfl, ok_pair (by decide +kernel), rfl,
        ok_snd (by decide +kernel) (by decide +kernel)⟩, by simp, rfl, by decide, rfl⟩
  · exact ⟨_, _, _, _, _, [⟨0, 0x100, .mem (lsBase 0 + 0x100) none⟩],
      ⟨⟨rfl, by decide +kernel, by decide +kernel⟩, rfl, rfl, rfl, rfl, rfl, rfl, ok_pair (by decide +kernel), rfl,
        ok_snd (by decide +kernel) (by decide +kernel)⟩, by simp, rfl, by decide, rfl⟩
/-- A line that holds two words at its start. -/
def lineOf2 (a b : BitVec 32) : BitVec 512 := BitVec.ofNat 512 (a.toNat + b.toNat * 2 ^ 32)
/-- The strand about to issue, its line in its buffer. -/
def mI (a b : BitVec 32) : State := mach [] fun t => { t with lineBuf := some (0x4000_0000 / 64, 0, lineOf2 a b) }
/-- The state with its tick counted. -/
def ticked (s : State) : State := { s with tick := s.tick + 1 }
/-- A strand's turn at a word and at a LIMM pair. -/
theorem witness_turn (a b : BitVec 32) (h : (a = 0xFA00_0000 ∧ b = 0) ∨ (a = 0xFE00_0024 ∧ b = 0x3601_B456)) :
    nextIssuer (ticked (mI a b)) = some 0 ∧ (mI a b).hub.powered = true ∧ (mI a b).hub.recovery = false ∧
    (strandAt (ticked (mI a b)) 0).pend = [] ∧ atBreak (ticked (mI a b)) 0 (strandAt (ticked (mI a b)) 0) = false ∧
    (strandAt (ticked (mI a b)) 0).lineBuf = some (0x4000_0000 / 64, 0, lineOf2 a b) ∧
    patchMatch (beginIssue (ticked (mI a b)) 0) = none ∧ lineWord (lineOf2 a b) 0x4000_0000 = a ∧
    (opOf a ≠ 0x7F → isOk (decodeWord a) = true) ∧
    (opOf a = 0x7F → isOk (decodePair (fld 25 0 a) (lineWord (lineOf2 a b) 0x4000_0004)) = true) := by
  rcases h with ⟨rfl, rfl⟩ | ⟨rfl, rfl⟩ <;>
  exact ⟨by decide +kernel, by decide +kernel, by decide +kernel, by decide +kernel, by decide +kernel,
    by decide +kernel, Option.isNone_iff_eq_none.mp (by decide +kernel), by decide +kernel, by decide +kernel, by decide +kernel⟩
/-- No strand; with a pending event and with an input that waits. -/
def mEvent : State := { State.reset with agenda := [.launchAdmit], inputs := [.hostWrite 0x4010 5] }
theorem witness_event : nextIssuer (ticked mEvent) = none ∧ nextIssuer (ticked State.reset) = none :=
  ⟨Option.isNone_iff_eq_none.mp (by decide +kernel), Option.isNone_iff_eq_none.mp (by decide +kernel)⟩
-- R430: an input that is taken is the host's write, which becomes an event
theorem test_input : (takeInput (.hostWrite 0x4010 5) [] mEvent).agenda = [.launchAdmit, .pcapWrite 5] := by decide +kernel
theorem witness_encodable : (Instr.add ⟨true, 3⟩ 5 6 7 1).encodable = true ∧ (Instr.limm 0x24 0x3601_B456).encodable = true := by
  decide +kernel
/-- A hub that meets the invariant, three throttle steps down, and a step from it. -/
def mHub : State := { State.reset with hub := { State.reset.hub with throttle := 3 }, agenda := [.pcapWrite 5] }
theorem witness_hub : HubOk mHub.hub ∧ ∃ t, step mHub = .next t :=
  ⟨⟨by decide, by decide +kernel, ⟨[0x4B50, 0], patchTable_empty, patchHashOf_empty.symm⟩, by decide⟩, by
    have h : step mHub = if Config.agendaFirst (ticked mHub).tick then happen (ticked mHub) (.pcapWrite 5) [] else passCycle (ticked mHub) := rfl
    rw [h]
    split <;> exact ⟨_, rfl⟩⟩
theorem witness_hubEvent : ∃ t, changesHub (.add g0 2 1 1 0) = false ∧ exec (.add g0 2 1 1 0) mS = .next t ∧
    isOk (decodeWord 0) = true := ⟨_, rfl, rfl, by decide⟩
/-- A supervisor strand stores to a register of the hub, and to LQPUSH. -/
theorem witness_deviceStore (ea : Nat) (h : ea = 0x5000_0100 ∨ ea = 0x5000_0000) : ∃ s1 s2 s3 xs y vals fl ev,
    AccessReady (mDev ea) g0 (.imm ⟨none, 0⟩ 3) true 2 1 i2 [i1] [0] s1 s2 xs [(0, ea)] [y] ∧ y.lane = 0 ∧
    y.tgt = .device (ea % 65536) ∧ isOwn ea = false ∧ stateGuard s2 8 [y] = .ok () ∧ overwritable s2 [y] 8 = .ok () ∧
    collect [0] (fun l => storeFit 8 (nth xs 0) l) = .ok (vals, fl) ∧
    (if isPush y then release s2 else relaxed s2) = .ok s3 ∧ s3.agenda = (mDev ea).agenda ++ ev ∧
    ev.all (fun e => !(isDeviceWrite e)) = true := by
  rcases h with rfl | rfl
  · exact ⟨_, _, _, _, ⟨0, 0x5000_0100, .device 0x100⟩, _, _, [], ⟨⟨rfl, by decide +kernel, by decide +kernel⟩, rfl, rfl, rfl, rfl, rfl, rfl,
      ok_pair (by decide +kernel), by decide +kernel, ok_snd (by decide +kernel) (by decide +kernel)⟩, rfl, by decide, by decide +kernel,
      ok_unit (by decide +kernel), ok_unit (by decide +kernel), ok_pair (by decide +kernel), ok_of (by decide +kernel),
      by decide +kernel, rfl⟩
  · exact ⟨_, _, _, _, ⟨0, 0x5000_0000, .device 0⟩, _, _, [], ⟨⟨rfl, by decide +kernel, by decide +kernel⟩, rfl, rfl, rfl, rfl, rfl, rfl,
      ok_pair (by decide +kernel), by decide +kernel, ok_snd (by decide +kernel) (by decide +kernel)⟩, rfl, by decide, by decide +kernel,
      ok_unit (by decide +kernel), ok_unit (by decide +kernel), ok_pair (by decide +kernel), ok_of (by decide +kernel),
      by decide +kernel, rfl⟩
theorem test_deviceStore : out (exec (.std g0 2 1 ⟨none, 0⟩) (mDev 0x5000_0100)) (fun s => s.agenda) =
    some [.deviceRegisterWrite 0x100 9, .accessReply 0] := by decide +kernel

-- Engine commands on one element: R234 a load
def memOf (l : List (Nat × Nat × Nat)) : List Host.Cell := l.foldl (fun m x => memWrite m (lsBase 0 + x.1) x.2.1 x.2.2) []
/-- Element (i, j) of accumulator 0 of core 0. -/
def outAcc (o : Out) (i j : Nat) : Option Nat :=
  out o fun s => fieldN (accAt (coreAt s 0) 0).vals.toNat (32 * (32 * i + j)) 32
-- R266: a block sum is exact; added to the element it is rounded: 2^24 + 1 twice
theorem test_mma_element : accumulate false 0x4B80_0000
      (blockSum [fp32.decode 0x3F80_0000, fp32.decode 0x3F80_0000] [fp32.decode 0x3F80_0000, fp32.decode 0x3F80_0000]) =
    (0x4B80_0001, 0) := by decide +kernel
theorem test_accld : outAcc (exec (.accld 0) (mEn 0 cL Acc.zeroed (memOf [(0x1084, 4, 0x3F80_0000)]))) 1 1 =
    some 0x3F80_0000 := by decide +kernel
theorem test_accz : out (exec (.accz 0) (mEn 0 (cA 4 4 0) { Acc.zeroed with vals := 5 })) (fun s =>
    ((accAt (coreAt s 0) 0).vals, (accAt (coreAt s 0) 0).ty)) = some (0, 1) := by decide +kernel
theorem test_reserved : out (exec (.reservedCommand 0 0) (mEn 0 (cM 200 0))) (fun s =>
    (coreAt s 0).mx.fifo.map fun x => elementStatus x.1) = some [1] := by decide +kernel
-- R250, R401: a copy of one run in one chunk; R191, R346: a value arrives, a guest goes to slot 13 to 15
theorem test_copyChunk : out (exec (.copyChunk 0 1) { mCp (copyOf 0) with mem := memOf [(0x1010, 8, 99)] }) (fun s =>
    (loadPhys s (lsBase 0 + 0x2010) 8, (tget (coreAt s 0).copies 1).map (·.status))) = some (99, some (some 0)) := by
  decide +kernel
theorem test_inbox : out (exec (.inboxDelivery 0 3 7) (mach [])) (fun s => (inboxAt (coreAt s 0) 3).value) = some 7 := by
  decide +kernel
-- R332: a pushed header with a low bit set is refused with status 2; R427: the cap keeps 1,000 to 7,500
theorem test_lqpush : out (exec (.lqpush 0 1) State.reset) (fun s => s.lq) = some [] := by decide +kernel
theorem test_pcap : out (exec (.pcapWrite 5) State.reset) (fun s => devReg s 0x4010) = some 1000 := by decide +kernel
end Sys2Proof.Tests
end

/-! ## Integer results: exact, then fitted (spec/03 R82, R83, R87, R91) -/

namespace Sys2Proof.Machine

open Sys2Proof.Claims

/-! ### Patterns and the numbers they stand for (R82) -/

theorem coe_zpat (v : Int) (w : Nat) : (zpat v w : Int) = v % 2 ^ w :=
  Int.toNat_of_nonneg (Int.emod_nonneg v (by positivity))

theorem zpat_lt (v : Int) (w : Nat) : zpat v w < 2 ^ w := by
  have h : (zpat v w : Int) < 2 ^ w := by
    rw [coe_zpat]; exact Int.emod_lt_of_pos v (by positivity)
  exact_mod_cast h

/-- Read as signed, the low `h + 1` bits of `v` are the number congruent to `v` that lies between the ends of the range. -/
theorem toSigned_zpat_succ (v : Int) (h : Nat) :
    toSigned (h + 1) (zpat v (h + 1)) = -2 ^ h + (v + 2 ^ h) % 2 ^ (h + 1) := by
  have hlt := zpat_lt v (h + 1)
  have hmod : (v + 2 ^ h) % 2 ^ (h + 1) = ((zpat v (h + 1) : Int) + 2 ^ h) % 2 ^ (h + 1) := by
    rw [coe_zpat, Int.emod_add_emod]
  rw [hmod, toSigned, Nat.mod_eq_of_lt hlt]
  generalize zpat v (h + 1) = p at hlt ⊢
  have hcast : ((2 ^ h : Nat) : Int) = 2 ^ h := by push_cast; rfl
  rw [← hcast]
  simp only [pow_succ, ← hcast] at hlt ⊢
  generalize 2 ^ h = H at hlt ⊢
  by_cases hneg : p < H
  · rw [if_pos (by omega), Int.emod_eq_of_lt (by omega) (by omega)]; omega
  · rw [if_neg (by omega), ← Int.sub_emod_right, Int.emod_eq_of_lt (by omega) (by omega)]; omega

/-! ### Fitting (R83) -/

/-- The low bits of any number stand, in an integer name, for the number of the range congruent to it. -/
theorem fitted_zpat {di : NameInfo} (hw : 1 ≤ di.width) (v : Int) :
    fitted di (zpat v di.width)
      ((intRange di.ty di.width).1 + (v - (intRange di.ty di.width).1) % 2 ^ di.width) := by
  refine ⟨zpat_lt v _, ?_⟩
  by_cases hs : di.ty = 1
  · obtain ⟨h, hh⟩ : ∃ h, di.width = h + 1 := ⟨di.width - 1, by omega⟩
    simp [hs, intRange, hh, toSigned_zpat_succ]
  · simp [hs, intRange, coe_zpat]

/-- The range of an integer name holds as many numbers as the name has patterns. -/
theorem intRange_size (ty : Nat) {w : Nat} (hw : 1 ≤ w) : (intRange ty w).2 = (intRange ty w).1 + 2 ^ w - 1 := by
  obtain ⟨h, rfl⟩ : ∃ h, w = h + 1 := ⟨w - 1, by omega⟩
  by_cases hs : ty = 1
  · simp only [intRange, hs, if_true, Nat.add_sub_cancel, pow_succ]; ring
  · simp [intRange, hs]

theorem intRange_nonempty (ty : Nat) {w : Nat} (hw : 1 ≤ w) : (intRange ty w).1 ≤ (intRange ty w).2 := by
  have : (0 : Int) < 2 ^ w := by positivity
  rw [intRange_size ty hw]; omega

/-- The low bits of a number of the range stand for that number. -/
theorem fitted_zpat_of_mem {di : NameInfo} (hw : 1 ≤ di.width) {v : Int}
    (hlo : (intRange di.ty di.width).1 ≤ v) (hhi : v ≤ (intRange di.ty di.width).2) :
    fitted di (zpat v di.width) v := by
  have h := fitted_zpat hw v
  rw [intRange_size di.ty hw] at hhi
  rwa [Int.emod_eq_of_lt (by omega) (by omega), add_sub_cancel] at h

section Fit

variable {di : NameInfo} {v : Int}

theorem fitInt_zero (hk : di.kind = 8) (m : Nat) (v : Int) : fitInt di m v = .ok (0, 0) := by simp [fitInt, hk]

theorem fitInt_inRange (hk : di.kind ≠ 8) (m : Nat) (hlo : (intRange di.ty di.width).1 ≤ v)
    (hhi : v ≤ (intRange di.ty di.width).2) : fitInt di m v = .ok (zpat v di.width, 0) := by
  simp [fitInt, hk, fitAs, hlo, hhi]

/-- Outside the range the mode decides: 2 traps, 1 saturates, another wraps. -/
theorem fitInt_outOfRange (hk : di.kind ≠ 8) (m : Nat)
    (hout : v < (intRange di.ty di.width).1 ∨ (intRange di.ty di.width).2 < v) :
    fitInt di m v =
      if m = 2 then .error (cWIDTH, zpat v 64)
      else if m = 1 then
        .ok (zpat (if v < (intRange di.ty di.width).1 then (intRange di.ty di.width).1
          else (intRange di.ty di.width).2) di.width, flagBit 1)
      else .ok (zpat v di.width, flagBit 0) := by
  have hin : ¬ ((intRange di.ty di.width).1 ≤ v ∧ v ≤ (intRange di.ty di.width).2) := by omega
  simp [fitInt, hk, fitAs, hin]

end Fit

/-! ### Instructions that compute one destination -/

/-- An instruction that runs the computing frame completes with the frame's result, once it is ready. -/
theorem computed_writes {i : Instr} {s s1 : State} {g : Guard} {cls : Cls} {static : Bool} {d : NameIx}
    {srcs : List NameIx} {di : NameInfo} {is : List NameInfo} {lanes : List Nat} {xs : List Src}
    {typesOk : NameInfo → List NameInfo → Bool} {f : NameInfo → List Src → Nat → LaneRes}
    (hi : exec i s = computed s g cls static d srcs typesOk f) (hr : ComputeReady s g cls d srcs di is lanes s1 xs)
    (hs : static = true) (ht : typesOk di is = true) : Writes i s s1 di lanes (f di xs) :=
  fun _ _ _ hv hw => hi.trans (computed_result hr hs ht hv hw)

theorem intBinary_writes {i : Instr} {s s1 : State} {g : Guard} {d a b : NameIx} {f : BitVec 3} {di : NameInfo}
    {is : List NameInfo} {lanes : List Nat} {xs : List Src} {v : NameInfo → Src → Src → Nat → Int}
    (hi : exec i s = intBinary s g d a b f v) (hr : ComputeReady s g (clsD s d) d [a, b] di is lanes s1 xs)
    (hf : f.toNat < 4) (ht : allInt (di :: is) = true) :
    Writes i s s1 di lanes fun l => fitInt di (modeOf f.toNat di) (v di (nth xs 0) (nth xs 1) l) :=
  computed_writes hi hr (decide_eq_true hf) ht

theorem intBinary_congr (s : State) (g : Guard) (d a b : NameIx) (f : BitVec 3)
    {v v' : NameInfo → Src → Src → Nat → Int} (h : ∀ di x y l, v di x y l = v' di x y l) :
    intBinary s g d a b f v = intBinary s g d a b f v' := by
  rw [show v = v' by funext di x y l; exact h di x y l]

/-- Each two-source integer instruction is the fitting frame on its exact result (R87, R91). -/
theorem exec_intOp (o : IntOp) (g : Guard) (d a b : NameIx) (f : BitVec 3) (s : State) :
    exec (o.instr g d a b f) s =
      intBinary s g d a b f fun di x y l => o.exact di.width (x.int l) (y.int l) (x.pat l) := by
  cases o with
  | add => exact exec_add s
  | sub => exact exec_sub s
  | mul => exact exec_mul s
  | and => exact exec_and s
  | or => exact exec_or s
  | xor => exact exec_xor s
  | shl => exact exec_shl s
  | mulh => exact (exec_mulh s).trans <| intBinary_congr s g d a b f fun _ _ _ _ =>
      (Int.fdiv_eq_ediv_of_nonneg _ (by positivity)).symm
  | andn => exact (exec_andn s).trans <| intBinary_congr s g d a b f fun _ x y l =>
      congrArg (intBits (· &&& ·) (x.int l)) (by omega)
  | shr => exact (exec_shr s).trans <| intBinary_congr s g d a b f fun _ _ _ _ => by simp [shiftCount, IntOp.exact]
  | sha => exact (exec_sha s).trans <| intBinary_congr s g d a b f fun _ _ _ _ =>
      (Int.fdiv_eq_ediv_of_nonneg _ (by positivity)).symm
  | min => exact (exec_min s).trans <| intBinary_congr s g d a b f fun _ _ _ _ => (min_def _ _).symm
  | max => exact (exec_max s).trans <| intBinary_congr s g d a b f fun _ _ _ _ => (max_def _ _).symm
  | absd => exact (exec_absd s).trans <| intBinary_congr s g d a b f fun _ _ _ _ => (Int.natCast_natAbs _).symm

end Sys2Proof.Machine

section

open Sys2Proof.Machine Sys2Proof.Claims

/-- Settles O1: a name has as many patterns as its range has numbers, so the low bits that are written stand for the
number of the range congruent to the one fitted, which is that number itself inside the range; every instruction of the
group is the fitting frame on its exact result. -/
theorem integerResultsAreExactThenFitted : Obligations.IntegerResultsAreExactThenFitted := by
  refine ⟨fun di v lo hi _ hw hlo hhi => ?fit,
    fun o s g d a b f di is lanes s1 xs hr hf ht => intBinary_writes (exec_intOp o g d a b f s) hr hf ht⟩
  obtain rfl : lo = (intRange di.ty di.width).1 := by rw [hlo, intRange, apply_ite Prod.fst]
  obtain rfl : hi = (intRange di.ty di.width).2 := by rw [hhi, intRange, apply_ite Prod.snd]
  have hne := intRange_nonempty di.ty hw
  refine ⟨fun m hk => fitInt_zero hk m v,
    fun m hk h1 h2 => ⟨_, fitInt_inRange hk m h1 h2, fitted_zpat_of_mem hw h1 h2⟩,
    fun hk hout => ⟨fitInt_outOfRange hk 2 hout, ⟨_, fitInt_outOfRange hk 1 hout, ?saturated⟩,
      _, fitInt_outOfRange hk 0 hout, fitted_zpat hw v⟩⟩
  split
  · exact fitted_zpat_of_mem hw le_rfl hne
  · exact fitted_zpat_of_mem hw hne le_rfl

end

/-! ## Lane-wide results (spec/03 R115-R118) -/

namespace Sys2Proof.Machine

/-! ### Predicates over the enabled lanes (R115) -/

theorem qLanes_nonempty (t : Strand) (a : BitVec 4) (lanes : List Nat) :
    (!(qLanes t a lanes).isEmpty) = lanes.any fun l => predQ t l (a.toNat % 8) != bitN a.toNat 3 := by
  rw [Bool.eq_iff_iff]; simp [qLanes]

theorem qLanes_length_eq (t : Strand) (a : BitVec 4) (lanes : List Nat) :
    ((qLanes t a lanes).length == lanes.length) =
      lanes.all fun l => predQ t l (a.toNat % 8) != bitN a.toNat 3 := by
  rw [Bool.eq_iff_iff, beq_iff_eq, qLanes, List.length_filter_eq_length_iff, List.all_eq_true]

theorem vpredTo_enabled {s : State} {g : Guard} {d : BitVec 3} {lanes : List Nat} (v : List Nat → Bool)
    (he : Enabled s .lane g lanes) (hd : d ≠ 0) :
    vpredTo s g d v = .next (keepHub s (advance (setCur s fun t => setP t d.toNat (v lanes)))) := by
  rw [vpredTo, gated_enabled he (by simpa using hd) (by simp), finish_ok]

/-! ### VSCAN (R118) -/

/-- One result that does not depend on the lane, collected. -/
theorem collect_const_one (v : Nat) (fl : BitVec 8) :
    collect [0] (fun _ => .ok (v, fl)) = .ok (fun _ => v, fl) := by
  simp [collect]

theorem execVscan_enabled {s s1 s2 s3 : State} {g : Guard} {d a b : NameIx} {f : BitVec 3} {di ai bi : NameInfo}
    {lanes : List Nat} {xs : List Src} {vals : Nat → Nat} {total : Nat} {fl fl' : BitVec 8}
    (he : Enabled s .lane g lanes) (hd : nameInfo (curStrand s).map d = some di)
    (ha : nameInfo (curStrand s).map a = some ai) (hb : nameInfo (curStrand s).map b = some bi)
    (hs : (f.toNat < 6 && laneName di && laneName ai && uniDst bi && redTypes f.toNat [di, ai, bi]) = true)
    (hr : readSrcs s [ai] [] = .ok (s1, xs))
    (hv : collect lanes (fun l => reduceFit f.toNat di (nth xs 0) (lanes.filter (· ≤ l))) = .ok (vals, fl))
    (ht : reduceFit f.toNat bi (nth xs 0) lanes = .ok (total, fl'))
    (hw : writeDst s1 di lanes vals = .ok s2) (hw' : writeDst s2 bi [0] (fun _ => total) = .ok s3) :
    execVscan g d a b f s = .next (keepHub s (advance (setCur s3 fun t => setFlags t (fl ||| fl')))) := by
  simp only [execVscan, hd, ha, hb]
  rw [gated_enabled he hs (by simp)]
  simp only [hr, bind, Except.bind, hv, ht, collect_const_one, hw, hw', finish_ok]

end Sys2Proof.Machine

section

open Sys2Proof Sys2Proof.Machine

/-- Settles O9: VPRED's two counts over the enabled lanes are an `any` and an `all`, VIDX and VSHUF are the computing frame
on their lane results, and VSCAN is enabled with both its writes. -/
theorem laneWideResults : Obligations.LaneWideResults := by
  intro s g d a b dp f pa di ai bi lanes s1 xs
  refine ⟨fun he hp => ⟨?any, ?all⟩,
    fun hr hi hf => computed_writes (exec_vidx s) hr (decide_eq_true hf) hi,
    by decide +kernel,
    fun hr ha hb hfam hf => computed_writes (exec_vshuf s) hr (decide_eq_true hf) (by simp [ha, hb, hfam]),
    fun he hd ha hb hld hla hub hf ht hr vals total fl fl' s2 s3 hv htot hw hw' =>
      (exec_vscan s).trans (execVscan_enabled he hd ha hb (by simp [hld, hla, hub, hf, ht]) hr hv htot hw hw')⟩
  case any => rw [exec_vpredAny, execVpredAny, vpredTo_enabled _ he hp, qLanes_nonempty]
  case all => rw [exec_vpredAll, execVpredAll, vpredTo_enabled _ he hp, qLanes_length_eq]

end

/-! ## Trap entry and return (spec/17 R393; spec/04 R144, R145; spec/02 R58-R60, R69) -/

namespace Sys2Proof.Machine

/-! ### What taking a trap leaves (R393) -/

/-- The strand as it enters supervisor mode at TVEC. -/
def trapEntered (t : Strand) (cause val : Nat) : Strand :=
  { t with epc := t.pc, ecause := BitVec.ofNat 8 cause, eval := word val, psv := t.sv, sv := true, tsl := true,
           pc := t.tvec, answer := none, skipBrk := false }

/-- The strand as a nested trap records it: the PC and the new cause go to EVAL. -/
def trapNested (t : Strand) (cause : Nat) : Strand :=
  { t with ecause := BitVec.ofNat 8 cSTACK, eval := word (t.pc.toNat * 2 ^ 8 + cause), answer := none, skipBrk := false }

theorem takeTrap_enters {s : State} {k : Nat} (hv : (strandAt s k).tvec ≠ 0) (hl : (strandAt s k).tsl = false)
    (cause val : Nat) : takeTrap s k cause val = setStrand s k (trapEntered (strandAt s k) cause val) :=
  (if_neg hv).trans (if_neg (by simp [hl]))

theorem takeTrap_nested {s : State} {k : Nat} (hv : (strandAt s k).tvec ≠ 0) (hl : (strandAt s k).tsl = true)
    (cause val : Nat) : takeTrap s k cause val = stopStrand s k (trapNested (strandAt s k) cause) :=
  (if_neg hv).trans (if_pos hl)

/-- The PC and a cause number fill 56 bits, so EVAL holds both exactly. -/
theorem word_pc_cause_toNat (pc : BitVec 48) {cause : Nat} (hc : cause < 2 ^ 8) :
    (word (pc.toNat * 2 ^ 8 + cause)).toNat = pc.toNat * 2 ^ 8 + cause :=
  Nat.mod_eq_of_lt (by have := pc.isLt; omega)

/-! ### A strand without a task that stops (R339, R393) -/

theorem strandAt_stopStrand_untasked (s : State) (k : Nat) {t : Strand} (ht : t.task = none) :
    strandAt (stopStrand s k t) k = { t with run := .stopped } := by
  simp only [stopStrand, ht]
  exact strandAt_setStrand_self s k _

theorem stopStrand_reports_length (s : State) (k : Nat) {t : Strand} (ht : t.task = none) :
    (stopStrand s k t).reports.length = s.reports.length + 1 := by
  simp [stopStrand, ht, report]

/-! ### Supervisor forms in user mode (R60) -/

/-- A uniform-class supervisor form that has passed its static checks traps PROTECT in user mode, before its guard is looked
at. -/
theorem gated_protect {s : State} (hsv : (curStrand s).sv = false) {g : Guard} {static : Bool}
    {body : List Nat → Res State} (hs : static = true) :
    gated s .uniform g static true body = .next (trapped s s cPROTECT (s.ir.word.toNat + 2 ^ 63)) := by
  have hcls : (Cls.uniform == Cls.lane) = false := rfl
  simp [gated, hs, hsv, hcls, finish_trap]

theorem uniformOp_protect {s : State} (hsv : (curStrand s).sv = false) {g : Guard} {static : Bool}
    {ds srcs : List NameIx} {di is : List NameInfo} {typesOk : List NameInfo → List NameInfo → Bool}
    {body : State → List NameInfo → List Src → Res State} (hs : static = true) (hd : infos (curStrand s) ds = some di)
    (hi : infos (curStrand s) srcs = some is) (hdk : di.all uniDst = true) (hik : is.all uniSrc = true)
    (ht : typesOk di is = true) :
    uniformOp s g true static ds srcs typesOk body = .next (trapped s s cPROTECT (s.ir.word.toNat + 2 ^ 63)) := by
  simp only [uniformOp, hd, hi]
  exact gated_protect hsv (by simp [hs, hdk, hik, ht])

/-! ### TRAP and RTT (R144, R145) -/

theorem execTrap_enabled {s : State} {g : Guard} (i : Imm 15) (he : Enabled s .uniform g [0]) :
    execTrap g i s = .next (trapped s s cTRAP (immUnsigned i + if i.ext.isSome then 2 ^ 63 else 0)) := by
  rw [execTrap, gated_enabled he rfl (by simp), finish_trap, bit]

theorem execRtt_enabled {s : State} {g : Guard} (he : Enabled s .uniform g [0]) (hsv : (curStrand s).sv = true) :
    execRtt g s =
      if (curStrand s).epc.toNat % 4 = 0 then .next (keepHub s (setCur s returnTrap))
      else .next (trapped s s cALIGN (curStrand s).epc.toNat) := by
  rw [execRtt, gated_enabled he rfl fun _ => hsv]
  by_cases ha : (curStrand s).epc.toNat % 4 = 0
  · simp [ha, finish_ok]
  · simp [ha, finish_trap]

/-- A write form may name a control register that exists and is not read-only (R40, R146). -/
theorem ctlOk_write {n : Nat} (he : ctlExists n = true) (hr : ctlReadOnly n = false) : ctlOk n true = true := by
  simp [ctlOk, he, hr]

end Sys2Proof.Machine

section

open Sys2Proof Sys2Proof.Machine

/-- Settles O25: with TVEC set and the trap state not live, taking the trap only puts the strand `trapEntered`, which keeps
every field outside the trap state. -/
theorem trapEntrySavesAndEntersSupervisor : Obligations.TrapEntrySavesAndEntersSupervisor := by
  intro s k cause val hv hl hc hval t
  have ht : t = trapEntered (strandAt s k) cause val := by
    simp only [t, takeTrap_enters hv hl, strandAt_setStrand_self]
  rw [ht, takeTrap_enters hv hl]
  exact ⟨rfl, Nat.mod_eq_of_lt hc, Nat.mod_eq_of_lt hval, rfl, rfl, rfl, rfl, by simp [trapEntered, ← hl], rfl,
    fun j hj => strandAt_setStrand_ne s _ hj, rfl⟩

/-- Settles O26: the strand stops as `trapNested` leaves it, and without a task its stop is one report. -/
theorem nestedTrapStopsTheStrand : Obligations.NestedTrapStopsTheStrand := by
  intro s k cause val hv hl htask hc t
  have ht : t = { trapNested (strandAt s k) cause with run := .stopped } := by
    simp only [t, takeTrap_nested hv hl]
    exact strandAt_stopStrand_untasked s k htask
  rw [ht, takeTrap_nested hv hl]
  exact ⟨rfl, rfl, rfl, word_pc_cause_toNat _ hc, stopStrand_reports_length s k htask⟩

/-- Settles O27: TRAP, RTT and an unassigned opcode run to their endings, and each supervisor form is one of the two shared
frames, which trap PROTECT in user mode whatever the guard. -/
theorem trapAndReturn : Obligations.TrapAndReturn := by
  intro s g i w
  refine ⟨exec_unassignedOpcode s, fun he => ⟨(exec_trap s).trans (execTrap_enabled i he), fun hsv ha => ?aligned,
    fun hsv ha => ?misaligned⟩, rfl, fun hsv => ⟨(exec_rtt s).trans (gated_protect hsv rfl),
    (exec_tlbinvAll s).trans (gated_protect hsv rfl),
    fun e he => (exec_eres s).trans (gated_protect hsv (decide_eq_true he)), fun d a di ai r ha hak => ?named⟩⟩
  case aligned => exact (exec_rtt s).trans ((execRtt_enabled he hsv).trans (if_pos ha))
  case misaligned => exact (exec_rtt s).trans ((execRtt_enabled he hsv).trans (if_neg ha))
  case named =>
    have hsrc : [ai].all uniSrc = true := by simp [hak]
    refine ⟨(exec_tlbinvPage s).trans (uniformOp_protect hsv rfl rfl ha rfl hsrc rfl),
      (exec_tlbinvAsid s).trans (uniformOp_protect hsv rfl rfl ha rfl hsrc rfl),
      (exec_grey s).trans (uniformOp_protect hsv rfl rfl ha rfl hsrc rfl), fun hex hro hsup => ⟨?ctlw, fun hd hdk => ?ctlx⟩⟩
    case ctlw =>
      refine (exec_ctlw s).trans ?_
      rw [execCtlw, hsup]
      exact uniformOp_protect hsv (ctlOk_write hex hro) rfl ha rfl hsrc rfl
    case ctlx =>
      refine (exec_ctlx s).trans ?_
      rw [execCtlx, hsup]
      exact uniformOp_protect hsv (ctlOk_write hex hro) hd ha (by simp [hdk]) hsrc rfl

/-- Settles O28: the return reads EPC and PSV, where the entry has put the PC and the mode. -/
theorem returnUndoesTrapEntry : Obligations.ReturnUndoesTrapEntry := by
  intro s cause val hv hl t
  have ht : t = returnTrap (trapEntered (curStrand s) cause val) := by
    simp only [t, takeTrap_enters hv hl]
    exact congrArg returnTrap (strandAt_setStrand_self s s.cur _)
  rw [ht]
  exact ⟨rfl, rfl, rfl⟩

end

/-! ## The decoder and the encoder agree (spec/02 R51, R52, R56, R57, R61-R69) -/

namespace Sys2Proof

/-! ### The parts of a word that the encoder makes (R52) -/

theorem mkWord_toNat {op low : Nat} (g : Guard) (hop : op < 128) (hl : low < 2 ^ 21) :
    (mkWord op g low).toNat = op * 2 ^ 25 + (if g.gn then 2 ^ 24 else 0) + g.gp.toNat * 2 ^ 21 + low := by
  have := g.gp.isLt
  rw [mkWord, BitVec.toNat_ofNat, Nat.mod_eq_of_lt]
  split <;> omega

theorem opOf_mkWord {op low : Nat} (g : Guard) (hop : op < 128) (hl : low < 2 ^ 21) : opOf (mkWord op g low) = op := by
  have := g.gp.isLt
  rw [opOf, mkWord_toNat g hop hl]
  split <;> omega

theorem guardOf_mkWord {op low : Nat} (g : Guard) (hop : op < 128) (hl : low < 2 ^ 21) :
    guardOf (mkWord op g low) = g := by
  obtain ⟨gn, gp⟩ := g
  have := gp.isLt
  simp only [guardOf, Guard.mk.injEq]
  constructor
  · rw [bitN, mkWord_toNat _ hop hl]
    cases gn <;> simp <;> omega
  · apply BitVec.eq_of_toNat_eq
    rw [fld, mkWord_toNat _ hop hl, BitVec.toNat_ofNat]
    split <;> simp <;> omega

/-- A field below the guard is a field of the word's other bits. -/
theorem lowField_mkWord {op low lo n : Nat} (g : Guard) (hop : op < 128) (hl : low < 2 ^ 21) (hn : lo + n ≤ 21) :
    (mkWord op g low).toNat / 2 ^ lo % 2 ^ n = low / 2 ^ lo % 2 ^ n := by
  obtain ⟨k, hk⟩ : ∃ k, 21 = lo + n + k := ⟨21 - (lo + n), by omega⟩
  obtain ⟨c, hc⟩ : ∃ c, (mkWord op g low).toNat = low + 2 ^ lo * (2 ^ n * (2 ^ k * c)) := by
    refine ⟨op * 2 ^ 4 + (if g.gn then 2 ^ 3 else 0) + g.gp.toNat, ?_⟩
    rw [mkWord_toNat g hop hl, ← mul_assoc, ← mul_assoc, ← pow_add, ← pow_add, ← hk]
    split <;> omega
  rw [hc, Nat.add_mul_div_left _ _ (by positivity), Nat.add_mul_mod_self_left]

/-! ### The rows of an opcode -/

/-- Every row of the table begins with its opcode (R52). -/
theorem opRows_opcode {r : OpRow} (hr : r ∈ opRows) : ∃ op rest, r.fixed = (25, 7, op) :: rest := by
  have h : (opRows.all fun r => r.fixed.head?.any fun f => f.1 == 25 && f.2.1 == 7) = true := by decide +kernel
  have := List.all_eq_true.mp h r hr
  obtain ⟨fixed, build⟩ := r
  rcases fixed with _ | ⟨⟨lo, n, v⟩, rest⟩
  · simp at this
  · simp only [List.head?_cons, Option.any_some, Bool.and_eq_true, beq_iff_eq] at this
    exact ⟨v, rest, by simp [this.1, this.2]⟩

/-- The rows of an opcode. -/
def rowsOf (op : Nat) : List OpRow := opRows.filter fun r => r.fixed.head? == some (25, 7, op)

/-- A row that a word meets has the word's opcode. -/
theorem rowsOf_of_matches {r : OpRow} {w : BitVec 32} (hr : r ∈ opRows) (hm : r.matchesWord w = true) :
    (r.fixed.head? == some (25, 7, opOf w)) = true := by
  obtain ⟨op, rest, h⟩ := opRows_opcode hr
  have hw := w.isLt
  simp only [OpRow.matchesWord, h, List.all_cons, Bool.and_eq_true, beq_iff_eq] at hm
  have : w.toNat / 2 ^ 25 % 2 ^ 7 = opOf w := by rw [opOf]; omega
  rw [h, ← hm.1, this, List.head?_cons, beq_self_eq_true]

theorem find?_rowsOf (w : BitVec 32) :
    opRows.find? (·.matchesWord w) = (rowsOf (opOf w)).find? (·.matchesWord w) := by
  rw [rowsOf, List.find?_filter]
  refine List.find?_congr fun r hr => ?_
  cases hm : r.matchesWord w
  · simp
  · simpa using rowsOf_of_matches hr hm

/-- The bits below the guard have the fixed fields that follow the opcode. -/
def fixedLow (fixed : List (Nat × Nat × Nat)) (low : Nat) : Bool :=
  fixed.tail.all fun f => low / 2 ^ f.1 % 2 ^ f.2.1 == f.2.2

/-- Two rows have some bit fixed that tells them apart. -/
def OpRow.apart (r r' : OpRow) : Bool :=
  r.fixed.any fun f => r'.fixed.any fun f' => (List.range 32).any fun j =>
    f.1 ≤ j && j < f.1 + f.2.1 && f'.1 ≤ j && j < f'.1 + f'.2.1 && f.2.2.testBit (j - f.1) != f'.2.2.testBit (j - f'.1)

/-- A fixed field says what each of its bits is. -/
theorem testBit_of_field {w lo n v j : Nat} (h : w / 2 ^ lo % 2 ^ n = v) (hlo : lo ≤ j) (hhi : j < lo + n) :
    v.testBit (j - lo) = w.testBit j := by
  rw [← h, Nat.testBit_mod_two_pow, Nat.testBit_div_two_pow]
  simp [show j - lo < n by omega, show j - lo + lo = j by omega]

theorem not_matches_of_apart {r r' : OpRow} {w : BitVec 32} (ha : r.apart r' = true) (hm : r'.matchesWord w = true) :
    r.matchesWord w = false := by
  by_contra hr
  simp only [OpRow.matchesWord, Bool.not_eq_false, List.all_eq_true, beq_iff_eq] at hr hm
  simp only [OpRow.apart, List.any_eq_true, Bool.and_eq_true, decide_eq_true_eq, bne_iff_ne] at ha
  obtain ⟨f, hf, f', hf', j, -, ⟨⟨⟨⟨h1, h2⟩, h3⟩, h4⟩, hne⟩⟩ := ha
  exact hne ((testBit_of_field (hr f hf) h1 h2).trans (testBit_of_field (hm f' hf') h3 h4).symm)

/-- No word meets two rows of an opcode, PLOG apart, whose move form is the `xor`-free function of `b` 0. -/
theorem rowsOf_apart {op : Nat} (h : op < 127) (hp : op ≠ 0x4E) : (rowsOf op).Pairwise (·.apart · = true) := by
  have all : ∀ op < 127, op ≠ 0x4E → (rowsOf op).Pairwise (·.apart · = true) := by decide +kernel
  exact all op h hp

theorem find?_of_apart {rows : List OpRow} {r : OpRow} {w : BitVec 32} (ha : rows.Pairwise (·.apart · = true))
    (hr : r ∈ rows) (hm : r.matchesWord w = true) : rows.find? (·.matchesWord w) = some r := by
  induction rows with
  | nil => cases hr
  | cons x rows ih =>
    obtain ⟨hx, ha⟩ := List.pairwise_cons.mp ha
    rcases List.mem_cons.mp hr with rfl | hr
    · simp [hm]
    · simpa [not_matches_of_apart (hx r hr) hm] using ih ha hr

/-- The fixed fields of a row, its opcode apart, lie below the guard. -/
theorem opRows_low {r : OpRow} (hr : r ∈ opRows) : ∀ f ∈ r.fixed.tail, f.1 + f.2.1 ≤ 21 := by
  have h : (opRows.all fun r => r.fixed.tail.all fun f => decide (f.1 + f.2.1 ≤ 21)) = true := by decide +kernel
  simpa using List.all_eq_true.mp h r hr

/-- In a word made from an opcode, a guard and other bits, a row of the opcode sees only those bits. -/
theorem matchesWord_mkWord {op low : Nat} {g : Guard} {r : OpRow} (hop : op < 128) (hl : low < 2 ^ 21)
    (hr : r ∈ rowsOf op) : r.matchesWord (mkWord op g low) = fixedLow r.fixed low := by
  obtain ⟨hmem, hhead⟩ := List.mem_filter.mp hr
  have hlow := opRows_low hmem
  obtain ⟨fixed, build⟩ := r
  rcases fixed with _ | ⟨f, rest⟩
  · cases hhead
  · obtain rfl : f = (25, 7, op) := by simpa using hhead
    have hopc : (mkWord op g low).toNat / 2 ^ 25 % 2 ^ 7 = op :=
      (congrArg (· % 2 ^ 7) (opOf_mkWord g hop hl)).trans (Nat.mod_eq_of_lt hop)
    have hrest : (rest.all fun f => (mkWord op g low).toNat / 2 ^ f.1 % 2 ^ f.2.1 == f.2.2) =
        rest.all fun f => low / 2 ^ f.1 % 2 ^ f.2.1 == f.2.2 := by
      rw [Bool.eq_iff_iff, List.all_eq_true, List.all_eq_true]
      exact forall₂_congr fun f hf => by rw [lowField_mkWord g hop hl (hlow f hf)]
    simp only [OpRow.matchesWord, fixedLow, List.all_cons, List.tail_cons, hopc, beq_self_eq_true,
      Bool.true_and, hrest]

theorem decodeWord_of_find {op low : Nat} {g : Guard} {r : OpRow} (hop : op < 127) (hu : opUnassigned op = false)
    (hl : low < 2 ^ 21) (hr : (rowsOf op).find? (fixedLow ·.fixed low) = some r) :
    decodeWord (mkWord op g low) = .ok (r.build (mkWord op g low)) := by
  have hop' : op < 128 := by omega
  have hfind : (rowsOf op).find? (·.matchesWord (mkWord op g low)) = some r :=
    (List.find?_congr fun r hr => matchesWord_mkWord hop' hl hr).trans hr
  rw [decodeWord, opOf_mkWord g hop' hl, hu, find?_rowsOf, opOf_mkWord g hop' hl, hfind]
  rfl

/-! ### Reading the fields back -/

theorem ofNat_eq_iff {n x : Nat} {v : BitVec n} : BitVec.ofNat n x = v ↔ x % 2 ^ n = v.toNat := by
  rw [← BitVec.toNat_inj, BitVec.toNat_ofNat]

/-- The bits below the guard hold `x` as their field from bit `lo`. -/
def Holds {n : Nat} (low lo : Nat) (x : BitVec n) : Prop := lo + n ≤ 21 ∧ low / 2 ^ lo % 2 ^ n = x.toNat

/-- A field is read back where it stands. -/
theorem fld_mkWord {op low lo n : Nat} {x : BitVec n} (g : Guard) (hop : op < 127) (hl : low < 2 ^ 21)
    (hx : Holds low lo x) : fld n lo (mkWord op g low) = x := by
  rw [fld, ofNat_eq_iff, lowField_mkWord g (by omega) hl hx.1, hx.2]

theorem immOf_mkWord {op low n : Nat} {x : BitVec n} (g : Guard) (hop : op < 127) (hl : low < 2 ^ 21)
    (hx : Holds low 0 x) : immOf n (mkWord op g low) = ⟨none, x⟩ :=
  congrArg (Imm.mk none) (fld_mkWord g hop hl hx)

/-- The bits lie below the guard and have the fixed fields that follow the opcode. -/
def Meets (fixed : List (Nat × Nat × Nat)) (low : Nat) : Prop := low < 2 ^ 21 ∧ fixedLow fixed low = true

/-- A word whose bits meet row `k` of its opcode decodes to what that row builds. -/
theorem decodeWord_mkWord {op low k : Nat} {r : OpRow} (g : Guard) (hr : (rowsOf op)[k]? = some r)
    (hop : op < 127 ∧ op ≠ 0x4E ∧ opUnassigned op = false) (hm : Meets r.fixed low) :
    decodeWord (mkWord op g low) = .ok (r.build (mkWord op g low)) := by
  obtain ⟨hop, hplog, hu⟩ := hop
  obtain ⟨hl, hm⟩ := hm
  have hr := List.mem_of_getElem? hr
  have hw {r : OpRow} (hr : r ∈ rowsOf op) := matchesWord_mkWord (g := g) (by omega) hl hr
  refine decodeWord_of_find hop hu hl ?_
  rw [← find?_of_apart (rowsOf_apart hop hplog) hr ((hw hr).trans hm)]
  exact List.find?_congr fun r hr => (hw hr).symm

/-! ### The formats: a row that reads a guard and up to five fields, or an immediate after up to three

That the bits of a word meet the row and hold its fields is arithmetic on the fields' places. -/

section Formats

variable {op low k n₁ n₂ n₃ n₄ n₅ lo₁ lo₂ lo₃ lo₄ lo₅ : Nat} {fixed : List (Nat × Nat × Nat)} {g : Guard}
  {x : BitVec n₁} {y : BitVec n₂} {z : BitVec n₃} {u : BitVec n₄} {v : BitVec n₅}
  (hop : op < 127 ∧ op ≠ 0x4E ∧ opUnassigned op = false := by decide)
  (hm : Meets fixed low := by
    simp only [Meets, fixedLow, List.tail_cons, List.all_cons, List.all_nil, Bool.and_true, Bool.and_eq_true, eq_self,
      and_true, beq_iff_eq, place] <;> omega)
include hop hm

theorem decodeWord_fields0 {c : Guard → Instr}
    (hr : (rowsOf op)[k]? = some ⟨fixed, fun w => c (guardOf w)⟩) :
    decodeWord (mkWord op g low) = .ok (c g) := by
  refine (decodeWord_mkWord g hr hop hm).trans ?_
  dsimp only
  rw [guardOf_mkWord g (by omega) hm.1]

theorem decodeWord_imm0 {c : Guard → Imm n₁ → Instr}
    (hr : (rowsOf op)[k]? = some ⟨fixed, fun w => c (guardOf w) (immOf n₁ w)⟩)
    (hx : Holds low 0 x := by simp only [Holds, place]; omega) :
    decodeWord (mkWord op g low) = .ok (c g ⟨none, x⟩) := by
  refine (decodeWord_mkWord g hr hop hm).trans ?_
  dsimp only
  rw [guardOf_mkWord g (by omega) hm.1, immOf_mkWord g hop.1 hm.1 hx]

theorem decodeWord_fields1 {c : Guard → BitVec n₁ → Instr}
    (hr : (rowsOf op)[k]? = some ⟨fixed, fun w => c (guardOf w) (fld n₁ lo₁ w)⟩)
    (hx : Holds low lo₁ x := by simp only [Holds, place]; omega) :
    decodeWord (mkWord op g low) = .ok (c g x) := by
  refine (decodeWord_mkWord g hr hop hm).trans ?_
  dsimp only
  rw [guardOf_mkWord g (by omega) hm.1, fld_mkWord g hop.1 hm.1 hx]

theorem decodeWord_imm1 {c : Guard → BitVec n₁ → Imm n₂ → Instr}
    (hr : (rowsOf op)[k]? = some ⟨fixed, fun w => c (guardOf w) (fld n₁ lo₁ w) (immOf n₂ w)⟩)
    (hx : Holds low lo₁ x := by simp only [Holds, place]; omega)
    (hy : Holds low 0 y := by simp only [Holds, place]; omega) :
    decodeWord (mkWord op g low) = .ok (c g x ⟨none, y⟩) := by
  refine (decodeWord_mkWord g hr hop hm).trans ?_
  dsimp only
  rw [guardOf_mkWord g (by omega) hm.1, fld_mkWord g hop.1 hm.1 hx, immOf_mkWord g hop.1 hm.1 hy]

theorem decodeWord_fields2 {c : Guard → BitVec n₁ → BitVec n₂ → Instr}
    (hr : (rowsOf op)[k]? = some ⟨fixed, fun w => c (guardOf w) (fld n₁ lo₁ w) (fld n₂ lo₂ w)⟩)
    (hx : Holds low lo₁ x := by simp only [Holds, place]; omega)
    (hy : Holds low lo₂ y := by simp only [Holds, place]; omega) :
    decodeWord (mkWord op g low) = .ok (c g x y) := by
  refine (decodeWord_mkWord g hr hop hm).trans ?_
  dsimp only
  rw [guardOf_mkWord g (by omega) hm.1, fld_mkWord g hop.1 hm.1 hx, fld_mkWord g hop.1 hm.1 hy]

theorem decodeWord_imm2 {c : Guard → BitVec n₁ → BitVec n₂ → Imm n₃ → Instr}
    (hr : (rowsOf op)[k]? = some ⟨fixed, fun w => c (guardOf w) (fld n₁ lo₁ w) (fld n₂ lo₂ w) (immOf n₃ w)⟩)
    (hx : Holds low lo₁ x := by simp only [Holds, place]; omega)
    (hy : Holds low lo₂ y := by simp only [Holds, place]; omega)
    (hz : Holds low 0 z := by simp only [Holds, place]; omega) :
    decodeWord (mkWord op g low) = .ok (c g x y ⟨none, z⟩) := by
  refine (decodeWord_mkWord g hr hop hm).trans ?_
  dsimp only
  rw [guardOf_mkWord g (by omega) hm.1, fld_mkWord g hop.1 hm.1 hx, fld_mkWord g hop.1 hm.1 hy, immOf_mkWord g hop.1
    hm.1 hz]

theorem decodeWord_fields3 {c : Guard → BitVec n₁ → BitVec n₂ → BitVec n₃ → Instr}
    (hr : (rowsOf op)[k]? = some ⟨fixed, fun w => c (guardOf w) (fld n₁ lo₁ w) (fld n₂ lo₂ w) (fld n₃ lo₃ w)⟩)
    (hx : Holds low lo₁ x := by simp only [Holds, place]; omega)
    (hy : Holds low lo₂ y := by simp only [Holds, place]; omega)
    (hz : Holds low lo₃ z := by simp only [Holds, place]; omega) :
    decodeWord (mkWord op g low) = .ok (c g x y z) := by
  refine (decodeWord_mkWord g hr hop hm).trans ?_
  dsimp only
  rw [guardOf_mkWord g (by omega) hm.1, fld_mkWord g hop.1 hm.1 hx, fld_mkWord g hop.1 hm.1 hy, fld_mkWord g hop.1
    hm.1 hz]

theorem decodeWord_imm3 {c : Guard → BitVec n₁ → BitVec n₂ → BitVec n₃ → Imm n₄ → Instr}
    (hr : (rowsOf op)[k]? = some ⟨fixed,
      fun w => c (guardOf w) (fld n₁ lo₁ w) (fld n₂ lo₂ w) (fld n₃ lo₃ w) (immOf n₄ w)⟩)
    (hx : Holds low lo₁ x := by simp only [Holds, place]; omega)
    (hy : Holds low lo₂ y := by simp only [Holds, place]; omega)
    (hz : Holds low lo₃ z := by simp only [Holds, place]; omega)
    (hu : Holds low 0 u := by simp only [Holds, place]; omega) :
    decodeWord (mkWord op g low) = .ok (c g x y z ⟨none, u⟩) := by
  refine (decodeWord_mkWord g hr hop hm).trans ?_
  dsimp only
  rw [guardOf_mkWord g (by omega) hm.1, fld_mkWord g hop.1 hm.1 hx, fld_mkWord g hop.1 hm.1 hy, fld_mkWord g hop.1
    hm.1 hz, immOf_mkWord g hop.1 hm.1 hu]

theorem decodeWord_fields4 {c : Guard → BitVec n₁ → BitVec n₂ → BitVec n₃ → BitVec n₄ → Instr}
    (hr : (rowsOf op)[k]? = some ⟨fixed,
      fun w => c (guardOf w) (fld n₁ lo₁ w) (fld n₂ lo₂ w) (fld n₃ lo₃ w) (fld n₄ lo₄ w)⟩)
    (hx : Holds low lo₁ x := by simp only [Holds, place]; omega)
    (hy : Holds low lo₂ y := by simp only [Holds, place]; omega)
    (hz : Holds low lo₃ z := by simp only [Holds, place]; omega)
    (hu : Holds low lo₄ u := by simp only [Holds, place]; omega) :
    decodeWord (mkWord op g low) = .ok (c g x y z u) := by
  refine (decodeWord_mkWord g hr hop hm).trans ?_
  dsimp only
  rw [guardOf_mkWord g (by omega) hm.1, fld_mkWord g hop.1 hm.1 hx, fld_mkWord g hop.1 hm.1 hy, fld_mkWord g hop.1
    hm.1 hz, fld_mkWord g hop.1 hm.1 hu]

theorem decodeWord_fields5 {c : Guard → BitVec n₁ → BitVec n₂ → BitVec n₃ → BitVec n₄ → BitVec n₅ → Instr}
    (hr : (rowsOf op)[k]? = some ⟨fixed,
      fun w => c (guardOf w) (fld n₁ lo₁ w) (fld n₂ lo₂ w) (fld n₃ lo₃ w) (fld n₄ lo₄ w) (fld n₅ lo₅ w)⟩)
    (hx : Holds low lo₁ x := by simp only [Holds, place]; omega)
    (hy : Holds low lo₂ y := by simp only [Holds, place]; omega)
    (hz : Holds low lo₃ z := by simp only [Holds, place]; omega)
    (hu : Holds low lo₄ u := by simp only [Holds, place]; omega)
    (hv : Holds low lo₅ v := by simp only [Holds, place]; omega) :
    decodeWord (mkWord op g low) = .ok (c g x y z u v) := by
  refine (decodeWord_mkWord g hr hop hm).trans ?_
  dsimp only
  rw [guardOf_mkWord g (by omega) hm.1, fld_mkWord g hop.1 hm.1 hx, fld_mkWord g hop.1 hm.1 hy, fld_mkWord g hop.1
    hm.1 hz, fld_mkWord g hop.1 hm.1 hu, fld_mkWord g hop.1 hm.1 hv]

end Formats

/-! ### Formats that many instructions share -/

section SharedFormats

variable {op k : Nat} {g : Guard} (hop : op < 127 ∧ op ≠ 0x4E ∧ opUnassigned op = false := by decide)
include hop

/-- Words with ND, NA, NB and FN, like most of format A. -/
theorem decodeWord_names {c : Guard → NameIx → NameIx → NameIx → BitVec 3 → Instr} {d a b : NameIx} {f : BitVec 3}
    (hr : (rowsOf op)[k]? = some ⟨[(25, 7, op)],
      fun w => c (guardOf w) (fld 6 15 w) (fld 6 9 w) (fld 6 3 w) (fld 3 0 w)⟩) :
    decodeWord (mkWord op g (place d.toNat 15 + place a.toNat 9 + place b.toNat 3 + f.toNat)) = .ok (c g d a b f) :=
  decodeWord_fields4 (hop := hop) (hr := hr)

/-- Words with ND, NA and NB whose FN is 0. -/
theorem decodeWord_threeNames {c : Guard → NameIx → NameIx → NameIx → Instr} {d a b : NameIx}
    (hr : (rowsOf op)[k]? = some ⟨[(25, 7, op), (0, 3, 0)],
      fun w => c (guardOf w) (fld 6 15 w) (fld 6 9 w) (fld 6 3 w)⟩) :
    decodeWord (mkWord op g (place d.toNat 15 + place a.toNat 9 + place b.toNat 3)) = .ok (c g d a b) :=
  decodeWord_fields3 (hop := hop) (hr := hr)

/-- Words with ND, NA and FN whose NB is 0. -/
theorem decodeWord_twoNames {c : Guard → NameIx → NameIx → BitVec 3 → Instr} {d a : NameIx} {f : BitVec 3}
    (hr : (rowsOf op)[k]? = some ⟨[(25, 7, op), (3, 6, 0)],
      fun w => c (guardOf w) (fld 6 15 w) (fld 6 9 w) (fld 3 0 w)⟩) :
    decodeWord (mkWord op g (place d.toNat 15 + place a.toNat 9 + f.toNat)) = .ok (c g d a f) :=
  decodeWord_fields3 (hop := hop) (hr := hr)

/-- Words with ND, NA, NB and an access size. -/
theorem decodeWord_sized {c : Guard → NameIx → NameIx → NameIx → BitVec 2 → Instr} {d a b : NameIx} {f : BitVec 2}
    (hr : (rowsOf op)[k]? = some ⟨[(25, 7, op), (2, 1, 0)],
      fun w => c (guardOf w) (fld 6 15 w) (fld 6 9 w) (fld 6 3 w) (fld 2 0 w)⟩) :
    decodeWord (mkWord op g (place d.toNat 15 + place a.toNat 9 + place b.toNat 3 + f.toNat)) = .ok (c g d a b f) :=
  decodeWord_fields4 (hop := hop) (hr := hr)

/-- Words with ND, NA and an immediate of 9 bits, format I. -/
theorem decodeWord_namesImm {c : Guard → NameIx → NameIx → Imm 9 → Instr} {d a : NameIx} {f : BitVec 9}
    (hr : (rowsOf op)[k]? = some ⟨[(25, 7, op)], fun w => c (guardOf w) (fld 6 15 w) (fld 6 9 w) (immOf 9 w)⟩) :
    decodeWord (mkWord op g (place d.toNat 15 + place a.toNat 9 + f.toNat)) = .ok (c g d a ⟨none, f⟩) :=
  decodeWord_imm2 (hop := hop) (hr := hr)

end SharedFormats

/-! ### PLOG, whose move form shares its opcode and is looked for first (R21) -/

theorem decodeWord_plogMov {g : Guard} {d a : BitVec 4} :
    decodeWord (mkWord 0x4E g (place d.toNat 15 + place a.toNat 9 + 3)) = .ok (.plogMov g d a) := by
  have hl : place d.toNat 15 + place a.toNat 9 + 3 < 2 ^ 21 := by simp only [place]; omega
  refine (decodeWord_of_find (by decide) rfl hl (List.find?_cons_of_pos ?_)).trans ?_
  · simp only [fixedLow, List.tail_cons, List.all_cons, List.all_nil, Bool.and_true, Bool.and_eq_true, beq_iff_eq, place]
    omega
  · dsimp only
    rw [guardOf_mkWord g (by omega) hl, fld_mkWord g (by omega) hl (x := d) (by simp only [Holds, place]; omega),
      fld_mkWord g (by omega) hl (x := a) (by simp only [Holds, place]; omega)]

theorem decodeWord_plog {g : Guard} {d a b : BitVec 4} {f : BitVec 2} (h : f = 3 → b ≠ 0) :
    decodeWord (mkWord 0x4E g (place d.toNat 15 + place a.toNat 9 + place b.toNat 3 + f.toNat)) =
      .ok (.plog g d a b f) := by
  have hl : place d.toNat 15 + place a.toNat 9 + place b.toNat 3 + f.toNat < 2 ^ 21 := by simp only [place]; omega
  have hbf : ¬ (f.toNat = 3 ∧ b.toNat = 0) := fun ⟨hf, hb⟩ =>
    h (BitVec.eq_of_toNat_eq hf) (BitVec.eq_of_toNat_eq hb)
  refine (decodeWord_of_find (by decide) rfl hl
    ((List.find?_cons_of_neg ?_).trans (List.find?_cons_of_pos ?_))).trans ?_
  · simp only [fixedLow, List.tail_cons, List.all_cons, List.all_nil, Bool.and_true, Bool.and_eq_true, beq_iff_eq, place]
    omega
  · simp only [fixedLow, List.tail_cons, List.all_cons, List.all_nil, Bool.and_true, Bool.and_eq_true, beq_iff_eq, place]
    omega
  · dsimp only
    rw [guardOf_mkWord g (by omega) hl, fld_mkWord g (by omega) hl (x := d) (by simp only [Holds, place]; omega),
      fld_mkWord g (by omega) hl (x := a) (by simp only [Holds, place]; omega),
      fld_mkWord g (by omega) hl (x := b) (by simp only [Holds, place]; omega),
      fld_mkWord g (by omega) hl (x := f) (by simp only [Holds, place]; omega)]

/-! ### Every word -/

/-- One word of an instruction decodes to it. -/
theorem decodeWord_encode {i : Instr} {w : BitVec 32} (he : i.encodable = true) (hw : encode i = [w]) :
    decodeWord w = .ok i := by
  cases i
  case exit | waitmsg | rtt | nop =>
    cases hw
    exact decodeWord_fields0 (k := 0) (hr := rfl)
  case yield =>
    cases hw
    exact decodeWord_fields0 (k := 1) (hr := rfl)
  case iflushAll =>
    cases hw
    exact decodeWord_fields0 (k := 2) (hr := rfl)
  case tlbinvAll =>
    cases hw
    exact decodeWord_fields0 (k := 5) (hr := rfl)
  case jr | callr | pmovR | cxgo | fdec | roam | bara | join =>
    cases hw
    exact decodeWord_fields1 (k := 0) (hr := rfl)
  case stopref | barw | iflush =>
    cases hw
    exact decodeWord_fields1 (k := 1) (hr := rfl)
  case pmovFc | settle =>
    cases hw
    exact decodeWord_fields1 (k := 2) (hr := rfl)
  case tlbinvPage =>
    cases hw
    exact decodeWord_fields1 (k := 3) (hr := rfl)
  case tlbinvAsid =>
    cases hw
    exact decodeWord_fields1 (k := 4) (hr := rfl)
  case dbrk =>
    cases hw
    exact decodeWord_fields1 (k := 6) (hr := rfl)
  case grey =>
    cases hw
    exact decodeWord_fields1 (k := 10) (hr := rfl)
  case eres =>
    cases hw
    exact decodeWord_fields1 (k := 11) (hr := rfl)
  case vpredAny | vidx | enq | pop | epeek | cxset | fnew | fset | fexp | pubsh | mon | waita | ctlr =>
    cases hw
    exact decodeWord_fields2 (k := 0) (hr := rfl)
  case vpredAll | pmovW | ctlw =>
    cases hw
    exact decodeWord_fields2 (k := 1) (hr := rfl)
  case vpredCount =>
    cases hw
    exact decodeWord_fields2 (k := 2) (hr := rfl)
  case fcancel =>
    cases hw
    exact decodeWord_fields2 (k := 3) (hr := rfl)
  case getid =>
    cases hw
    exact decodeWord_fields2 (k := 7) (hr := rfl)
  case bind =>
    cases hw
    exact decodeWord_fields2 (k := 8) (hr := rfl)
  case unbind =>
    cases hw
    exact decodeWord_fields2 (k := 9) (hr := rfl)
  case widq | ext | ins | send | mrecv | qctl | fget | post | fence | conf =>
    cases hw
    exact decodeWord_fields3 (k := 0) (hr := rfl)
  case fmin | fmax | faa | swp | cas | start =>
    cases hw
    exact decodeWord_threeNames (k := 0) (hr := rfl)
  case fcvt | funOp | bitc | mov | vfirst | vred =>
    cases hw
    exact decodeWord_twoNames (k := 0) (hr := rfl)
  case monx | confExit =>
    cases hw
    exact decodeWord_fields3 (k := 1) (hr := rfl)
  case ctlx =>
    cases hw
    exact decodeWord_fields3 (k := 2) (hr := rfl)
  case fcmp | rsz | cmp =>
    cases hw
    exact decodeWord_fields4 (k := 0) (hr := rfl)
  case add | sub | mul | mulh | div | rem | and | or | xor | andn | shl | shr | sha | rot | min | max | sel | absd |
      mac | fadd | fsub | fmul | ffma | vlane | vshuf | vscan =>
    cases hw
    exact decodeWord_names (k := 0) (hr := rfl)
  case ldx | ldg | stx | sts =>
    cases hw
    exact decodeWord_sized (k := 0) (hr := rfl)
  case ldo | sto =>
    cases hw
    exact decodeWord_fields5 (k := 0) (hr := rfl)
  case br | call | brany | brall | ipf | trap =>
    rename_i i
    obtain ⟨_, _⟩ := i
    cases eq_of_beq he
    cases hw
    exact decodeWord_imm0 (k := 0) (hr := rfl)
  case li | lih | loop | pref | mapld =>
    rename_i i
    obtain ⟨_, _⟩ := i
    cases eq_of_beq he
    cases hw
    exact decodeWord_imm1 (k := 0) (hr := rfl)
  case feset | fetest =>
    rename_i i
    obtain ⟨_, _⟩ := i
    cases eq_of_beq he
    cases hw
    exact decodeWord_imm2 (k := 0) (hr := rfl)
  case addi | muli | andi | ori | xori | shli | shri | shai | roti | mini | maxi | ldb | ldh | ldw | ldd | ldt | ldk |
      stb | sth | stw | std | put | rsv | rel =>
    rename_i i
    obtain ⟨_, _⟩ := i
    cases eq_of_beq he
    cases hw
    exact decodeWord_namesImm (k := 0) (hr := rfl)
  case cmpi =>
    rename_i i
    obtain ⟨_, _⟩ := i
    cases eq_of_beq he
    cases hw
    exact decodeWord_imm3 (k := 0) (hr := rfl)
  case unassignedOpcode => cases hw; exact if_pos he
  case plogMov => cases hw; exact decodeWord_plogMov
  case plog => cases hw; exact decodeWord_plog fun hf hb => by simp [Instr.encodable, hf, hb] at he
  all_goals cases hw

/-- An instruction is one word, or a LIMM and the word after it. -/
theorem encode_one_or_pair {i : Instr} (he : i.encodable = true) : (∃ w, encode i = [w]) ∨ ∃ ext w, i = .limm ext w := by
  cases i
  case limm ext w => exact .inr ⟨ext, w, rfl⟩
  all_goals first | exact .inl ⟨_, rfl⟩ | cases he

/-! ### Bytes (R51) -/

theorem wordOfBytes_bytesOfWord (w : BitVec 32) :
    ∃ a b c d, bytesOfWord w = [a, b, c, d] ∧ wordOfBytes a b c d = w := by
  refine ⟨_, _, _, _, rfl, ?_⟩
  rw [wordOfBytes, ofNat_eq_iff]
  simp only [BitVec.toNat_ofNat]
  omega

/-- No row has the opcode of a LIMM (R56). -/
theorem opOf_ne_limm {w : BitVec 32} {i : Instr} (h : decodeWord w = .ok i) : opOf w ≠ 0x7F := by
  intro hop
  have hrows : rowsOf 0x7F = [] := by decide +kernel
  rw [decodeWord, find?_rowsOf, hop, hrows] at h
  cases h

/-- The reading of a word, as a function that nothing can evaluate: the kernel would run the arithmetic of a symbolic word. -/
theorem wordOfBytes_opaque : ∃ read : Byte → Byte → Byte → Byte → BitVec 32, ∀ a b c d, wordOfBytes a b c d = read a b c d :=
  ⟨wordOfBytes, fun _ _ _ _ => rfl⟩

theorem decodeBytes_word {w : BitVec 32} {i : Instr} (rest : List Byte) (h : decodeWord w = .ok i) :
    decodeBytes (bytesOfWord w ++ rest) = .ok (i, rest) := by
  obtain ⟨a, b, c, d, hb, hw⟩ := wordOfBytes_bytesOfWord w
  obtain ⟨read, hread⟩ := wordOfBytes_opaque
  have hop := opOf_ne_limm h
  generalize hbs : bytesOfWord w ++ rest = bs
  unfold decodeBytes
  simp only [hread] at hw ⊢
  subst hbs
  simp [hb, hw, hop, h]

theorem decodeBytes_pair {u w : BitVec 32} {i : Instr} (rest : List Byte) (hu : opOf u = 0x7F)
    (h : decodePair (fld 25 0 u) w = .ok i) :
    decodeBytes (bytesOfWord u ++ (bytesOfWord w ++ rest)) = .ok (i, rest) := by
  obtain ⟨a, b, c, d, hb, hu'⟩ := wordOfBytes_bytesOfWord u
  obtain ⟨a', b', c', d', hb', hw⟩ := wordOfBytes_bytesOfWord w
  obtain ⟨read, hread⟩ := wordOfBytes_opaque
  generalize hbs : bytesOfWord u ++ (bytesOfWord w ++ rest) = bs
  unfold decodeBytes
  simp only [hread] at hu' hw ⊢
  subst hbs
  simp [hb, hb', hu', hu, hw, h]

end Sys2Proof

section

open Sys2Proof

/-- Settles O57: one word decodes by the row of its opcode that its bits meet, which reads every field back where the encoder
placed it; a LIMM and its word decode as a pair. -/
theorem decodeAndEncodeAgree : Obligations.DecodeAndEncodeAgree := by
  intro i rest he
  rcases encode_one_or_pair he with ⟨w, hw⟩ | ⟨ext, w, rfl⟩
  · simpa [encodeBytes, hw] using decodeBytes_word rest (decodeWord_encode he hw)
  · have hext := ext.isLt
    have hop : opOf (BitVec.ofNat 32 (0x7F * 2 ^ 25 + ext.toNat)) = 0x7F := by
      rw [opOf, BitVec.toNat_ofNat]; omega
    have hfld : fld 25 0 (BitVec.ofNat 32 (0x7F * 2 ^ 25 + ext.toNat)) = ext := by
      rw [fld, ofNat_eq_iff, BitVec.toNat_ofNat]; omega
    simpa [encodeBytes, encode] using
      decodeBytes_pair (w := w) rest hop (by rw [hfld, decodePair]; exact if_pos he)

end


/-! ## Loads and stores: every form is the shared frame with the form's own address (R160-R169) -/

namespace Sys2Proof.Claims

open Sys2Proof.Machine

/-- What a form asks of its reserved fields. -/
def MemForm.static (x : MemForm) : Bool :=
  match x with
  | .ordered sc o _ => orderOk sc o
  | _ => true

/-- What a form asks of its address sources. -/
def MemForm.kinds (x : MemForm) : List NameInfo → Bool :=
  match x with
  | .gather _ _ => uniformBase
  | _ => anyKinds

/-- What a load of a form does before its reads. -/
def MemForm.loadPre (x : MemForm) : State → Res State :=
  match x with
  | .ordered sc o _ => if o = 2 && sc != 0 then settleStores else relaxed
  | _ => relaxed

/-- What a store of a form does before its writes. -/
def MemForm.storePre (x : MemForm) : State → Res State :=
  match x with
  | .ordered sc o _ => orderedPre sc o
  | _ => relaxed

/-- A load of the form is an acquire. -/
def MemForm.acquires (x : MemForm) : Bool :=
  match x with
  | .ordered _ o _ => o != 0
  | _ => false

theorem eaOf_eq (base : Nat) (off : Int) : eaOf base off = (((base : Int) + off) % 2 ^ 48).toNat := by
  unfold eaOf
  push_cast
  rw [Int.emod_add_emod]

theorem address_imm (i : Imm 9) (z : BitVec 2) : (MemForm.imm i z).address = immAddr (2 ^ z.toNat) i := by
  funext xs l
  simp [MemForm.address, immAddr, eaOf_eq]

theorem address_indexed (b : NameIx) (z : BitVec 2) : (MemForm.indexed b z).address = indexAddr (2 ^ z.toNat) := by
  funext xs l
  simp [MemForm.address, indexAddr, eaOf_eq]

theorem address_gather (b : NameIx) (z : BitVec 2) : (MemForm.gather b z).address = indexAddr (2 ^ z.toNat) :=
  address_indexed b z

theorem address_ordered (sc : BitVec 3) (o z : BitVec 2) : (MemForm.ordered sc o z).address = plainAddr := by
  funext xs l
  simp [MemForm.address, plainAddr, eaOf_eq]

/-- The four sizes of the I-format forms, by their code. -/
theorem size_code_cases (z : BitVec 2) : z = 0 ∨ z = 1 ∨ z = 2 ∨ z = 3 := by
  revert z; decide

/-- Every load is the shared frame of loads. -/
theorem exec_load (x : MemForm) (g : Guard) (d a : NameIx) (s : State) :
    exec (x.load g d a) s = loadOp s g (x.cls s d) x.static x.group x.size d (x.srcs a) x.kinds x.address x.acquires
      x.loadPre := by
  cases x with
  | imm i z =>
    rw [address_imm]
    rcases size_code_cases z with rfl | rfl | rfl | rfl
    · exact exec_ldb s
    · exact exec_ldh s
    · exact exec_ldw s
    · exact exec_ldd s
  | indexed b z => rw [address_indexed]; exact exec_ldx s
  | gather b z => rw [address_gather]; exact exec_ldg s
  | ordered sc o z => rw [address_ordered]; exact exec_ldo s

/-- Every store is the shared frame of stores. -/
theorem exec_store (x : MemForm) (g : Guard) (d a : NameIx) (s : State) :
    exec (x.store g d a) s = storeOp s g (x.cls s d) x.static x.group x.size d (x.srcs a) x.kinds x.address x.storePre
      (plainWrite x.size) := by
  cases x with
  | imm i z =>
    rw [address_imm]
    rcases size_code_cases z with rfl | rfl | rfl | rfl
    · exact exec_stb s
    · exact exec_sth s
    · exact exec_stw s
    · exact exec_std s
  | indexed b z => rw [address_indexed]; exact exec_stx s
  | gather b z => rw [address_gather]; exact exec_sts s
  | ordered sc o z => rw [address_ordered]; exact exec_sto s

/-- A legal form has passed the static checks of its frame. -/
theorem legal_static {x : MemForm} {cls : Cls} {ok : Bool} {di : NameInfo} {is : List NameInfo} (hl : x.legal is = true)
    (hc : accessKinds cls true di is = true) (hok : ok = true) :
    (x.static && accessKinds cls (ok && x.kinds is) di is) = true := by
  cases x <;> simp_all [MemForm.legal, MemForm.static, MemForm.kinds, anyKinds, orderOk]

theorem endAccess_finish (s t : State) (far : Bool) :
    finish s (endAccess s t far) = .next (keepHub s (accessEnd s t far)) := by
  unfold endAccess accessEnd
  cases far with
  | false => rfl
  | true =>
    dsimp only [if_true]
    cases (t.agenda.drop s.agenda.length).filter isDeviceWrite <;> rfl

end Sys2Proof.Claims

section

open Sys2Proof Sys2Proof.Machine Sys2Proof.Claims

/-- Settles O15: past the static checks a store is its checked touches, then the writes of the lanes in order. -/
theorem storesWriteWhatTheyFit : Obligations.StoresWriteWhatTheyFit := by
  intro s g x d a di is lanes s1 s2 s3 s4 xs eas ts vals fl ha hguard hover hfit hpre hwrite
  obtain ⟨he, hd, hi, hk, hsz, hl, hc, hr, hp, hch⟩ := ha
  rw [exec_store]
  dsimp only [storeOp]
  rw [hd, hi]
  dsimp only
  rw [gated_enabled he (legal_static hl hc (by simp_all)) (by simp)]
  subst hp
  simp only [if_true] at hr hch
  simp only [bind, Except.bind, hr, hch, hguard, hover, hfit]
  have hpre' : (if ts.any isPush = true then release s2 else x.storePre s2) = .ok s3 := by
    rw [← hpre]; cases x <;> rfl
  split <;> simp_all only [if_true, if_false, Bool.false_eq_true]
  all_goals exact endAccess_finish ..

end


/-! ## What a translation can do to the state (R384-R391) -/

namespace Sys2Proof.Machine

/-- The range descriptor of a launch that covers an address. -/
def rangeOf (s : State) (lid va : Nat) : Option RangeEnt :=
  match launchAt s lid with
  | some l => l.ranges.find? fun (r : RangeEnt) => decide (r.vbase ≤ va) && decide (va ≤ r.vlast)
  | none => none

/-- The state that a walk leaves, its pointers cached and its leaf inserted. -/
def walked (s : State) (via : Via) (acc : Access) (ws : List WalkEnt) (e : TlbEnt) : State :=
  tlbInsert (setCluster s via.home { clusterAt s via.home with walks := ws }) via acc e

/-- A translation comes from a range descriptor, which changes nothing, from a TLB, which takes the entry again, or from a
walk, which may set bits of the leaf. -/
theorem translate_cases {s s' : State} {lid asid va pa leaf : Nat} {via : Via} {sv : Bool} {acc : Access}
    (h : translate s lid via asid sv acc va = .ok (s', pa, leaf)) :
    ((rangeOf s lid va).isSome ∧ s' = s) ∨
    (rangeOf s lid va = none ∧ ∃ e, tlbFind s via asid va acc = some e ∧ s' = tlbInsert s via acc e) ∨
    (rangeOf s lid va = none ∧ tlbFind s via asid va acc = none ∧ ∃ x ws s1 lf e,
      walkWith s via.home asid va = .ok (x, ws) ∧ setBits s x acc = .ok (s1, lf) ∧ s' = walked s1 via acc ws e) := by
  dsimp only [translate] at h
  split at h
  · next r hr =>
    have hsome : rangeOf s lid va = some r := hr
    simp only [bind, Except.bind] at h
    split at h
    · cases h
    · split at h
      · cases h
      · cases h; exact .inl ⟨by simp [hsome], rfl⟩
  · next hr =>
    have hnone : rangeOf s lid va = none := hr
    right
    cases hf : tlbFind s via asid va acc with
    | some e =>
      simp only [hf, bind, Except.bind] at h
      split at h
      · cases h
      · split at h
        · cases h
        · cases h; exact .inl ⟨hnone, e, rfl, rfl⟩
    | none =>
      simp only [hf, bind, Except.bind] at h
      split at h
      · cases h
      · next x hx =>
        split at h
        · cases h
        · split at h
          · cases h
          · split at h
            · cases h
            · next y hy =>
              cases h
              exact .inr ⟨hnone, rfl, x.1, x.2, y.1, y.2, _, hx, hy, rfl⟩

/-- Setting bits of a leaf leaves the state, or is one store of 8 bytes. -/
theorem setBits_cases {s s' : State} {x : Xlat} {acc : Access} {leaf : Nat} (h : setBits s x acc = .ok (s', leaf)) :
    s' = s ∨ ∃ a v, x.entry = some a ∧ s' = storePhys s none a 8 v := by
  unfold setBits at h
  split at h
  · next a he _ =>
    split at h
    · cases h
    · cases h; exact .inr ⟨a, _, he, rfl⟩
  · cases h; exact .inl rfl

/-- A leaf that needs no bit set is left as it is. -/
theorem setBits_ready {s : State} {x : Xlat} {acc : Access} (h : needsUpdate x.leaf acc = false) :
    setBits s x acc = .ok (s, x.leaf) := by
  unfold setBits
  cases x.entry <;> simp [h]

@[simp] theorem coreAt_setCluster (s : State) (c p : Nat) (x : Cluster) : coreAt (setCluster s c x) p = coreAt s p := rfl

theorem coreAt_modCore (s : State) (p q : Nat) (f : Core → Core) :
    coreAt (modCore s p f) q = if q = p then f (coreAt s p) else coreAt s q := by
  by_cases h : q = p
  · subst h; simp [coreAt, modCore, setCore]
  · simp [coreAt, modCore, setCore, h, tgetD_tset_ne]

end Sys2Proof.Machine


/-! ## Loads, and PREF (R164, R169, R176) -/

namespace Sys2Proof.Machine

theorem unlocked_single_ok {s : State} {di : NameInfo} (h : nameLocked (coreAt s (curP s)) (curStrand s) di = false) :
    unlocked s [di] = .ok () := by
  simp [unlocked, h]

theorem unlocked_single_park {s : State} {di : NameInfo} (h : nameLocked (coreAt s (curP s)) (curStrand s) di = true) :
    unlocked s [di] = parkNow .repack := by
  simp [unlocked, h]

/-- Memory, strands and every core are left alone, but for the translations that a D-TLB holds. -/
structure OnlyDtlb (s t : State) : Prop where
  memory  : t.mem = s.mem
  strands : t.strands = s.strands
  cores   : ∀ p, { coreAt t p with dtlb := [] } = { coreAt s p with dtlb := [] }

theorem OnlyDtlb.rfl {s : State} : OnlyDtlb s s := ⟨Eq.refl _, Eq.refl _, fun _ => Eq.refl _⟩

theorem OnlyDtlb.trans {s t u : State} (h : OnlyDtlb s t) (h' : OnlyDtlb t u) : OnlyDtlb s u :=
  ⟨h'.memory.trans h.memory, h'.strands.trans h.strands, fun p => (h'.cores p).trans (h.cores p)⟩

theorem setCluster_onlyDtlb (s : State) (c : Nat) (x : Cluster) : OnlyDtlb s (setCluster s c x) :=
  ⟨Eq.refl _, Eq.refl _, fun _ => Eq.refl _⟩

theorem tlbInsert_onlyDtlb (s : State) (p : Nat) (e : TlbEnt) : OnlyDtlb s (tlbInsert s (.core p) .read e) := by
  refine ⟨Eq.refl _, Eq.refl _, fun q => ?_⟩
  dsimp only [tlbInsert]
  rw [coreAt_modCore]
  split
  · next h => subst h; rfl
  · rfl

theorem countPlace_onlyDtlb (s : State) (c asid va pa : Nat) (wrote : Bool) :
    OnlyDtlb s (countPlace s c asid va pa wrote) := by
  unfold countPlace
  split
  · exact setCluster_onlyDtlb ..
  · exact setCluster_onlyDtlb ..
  · exact .rfl

/-- A prefetch makes no translation that has to set a bit of a leaf. -/
theorem peekTranslate_onlyDtlb {s s' : State} {lid p asid va pa leaf : Nat} {sv walks : Bool}
    (h : peekTranslate s lid (.core p) asid sv walks .read va = some (s', pa, leaf)) : OnlyDtlb s s' := by
  have h' : (if (rangeOf s lid va).isSome || (tlbFind s (.core p) asid va .read).isSome || (walks && _) then
    (translate s lid (.core p) asid sv .read va).toOption else none) = some (s', pa, leaf) := h
  obtain ⟨hc, ht⟩ := Option.ite_none_right_eq_some.mp h'
  replace ht : translate s lid (.core p) asid sv .read va = .ok (s', pa, leaf) := by
    cases hx : translate s lid (.core p) asid sv .read va <;> simp_all [Except.toOption]
  rcases translate_cases ht with ⟨_, rfl⟩ | ⟨_, e, _, rfl⟩ | ⟨hr, hf, x, ws, s1, lf, e, hw, hb, rfl⟩
  · exact .rfl
  · exact tlbInsert_onlyDtlb ..
  · have hready : needsUpdate x.leaf .read = false := by
      simp only [hr, hf, walk, hw, Except.map, Option.isSome_none, Bool.or_self, Bool.false_or, Bool.and_eq_true,
        Bool.not_eq_true'] at hc
      exact hc.2
    rw [setBits_ready hready] at hb
    cases hb
    exact (setCluster_onlyDtlb ..).trans (tlbInsert_onlyDtlb ..)

theorem prefetchData_onlyDtlb (s : State) (va : Nat) : OnlyDtlb s (prefetchData s va) := by
  dsimp only [prefetchData]
  split
  · exact .rfl
  · split
    · exact .rfl
    · next h =>
      split
      · exact .rfl
      · exact (peekTranslate_onlyDtlb h).trans (countPlace_onlyDtlb ..)

end Sys2Proof.Machine

namespace Sys2Proof.Claims

open Sys2Proof.Machine

theorem loadPre_eq_ok {x : MemForm} {s t : State} (h : (match x with
    | .ordered sc o _ => if o = 2 ∧ sc ≠ 0 then settleStores s else .ok s
    | _ => .ok s) = .ok t) : x.loadPre s = .ok t := by
  cases x with
  | ordered sc o z =>
    dsimp only [MemForm.loadPre] at h ⊢
    by_cases hc : o = 2 ∧ sc ≠ 0
    · rw [if_pos hc] at h
      rwa [if_pos (by simpa using hc)]
    · rw [if_neg hc] at h
      rwa [if_neg (by simpa using hc)]
  | _ => exact h

end Sys2Proof.Claims

section

open Sys2Proof Sys2Proof.Machine Sys2Proof.Claims

/-- Settles O14: past the static checks a load is its unlocked row, its reads and its fitted write, and PREF's frame is
its D-TLB. -/
theorem loadsFitWhatTheyReadAndPrefOnlyAdvances : Obligations.LoadsFitWhatTheyReadAndPrefOnlyAdvances := by
  refine ⟨?_, ?_, ?_⟩
  · intro s g x d a di is lanes s1 s2 s2' s3 s4 xs eas ts vs vals fl hlock ha hread hpre htouch hfit hwrite
    obtain ⟨he, hd, hi, hk, hsz, hl, hc, hr, hp, hch⟩ := ha
    rw [exec_load]
    dsimp only [loadOp]
    rw [hd, hi]
    dsimp only
    rw [gated_enabled he (legal_static hl hc (by simp_all)) (by simp)]
    subst hp
    simp only [Bool.false_eq_true, if_false] at hr hch ⊢
    simp only [bind, Except.bind, hr, unlocked_single_ok hlock, hch, hread, loadPre_eq_ok hpre, htouch, hfit, hwrite,
      endAccess_finish]
    cases x with
    | ordered sc o z => by_cases ho : o = 0 <;> simp [MemForm.acquires, ho]
    | _ => rfl
  · intro s g x d a di is lanes s1 xs he hd hi hk hsz hl hc hr hlock
    rw [Parks, exec_load]
    dsimp only [loadOp]
    rw [hd, hi]
    dsimp only
    rw [gated_enabled he (legal_static hl hc (by simp_all)) (by simp)]
    simp only [bind, Except.bind, hr, unlocked_single_park hlock]
    rfl
  · intro s g a i ai he hi hu ht
    have hexec : exec (.pref g a i) s = finish s (match readSrcs s [ai] [] with
        | .ok (s', xs) => .ok (advance (prefetchData s' (eaOf ((nth xs 0).pat 0) (immSigned i * 64))))
        | .error _ => .ok (advance s)) := by
      rw [exec_pref, execPref, hi]
      exact gated_enabled he (by simp [hu, allInt, ht]) (by simp)
    constructor
    · intro s1 xs hr
      obtain ⟨hmem, hstr, hcores⟩ := prefetchData_onlyDtlb s1 (eaOf ((nth xs 0).pat 0) (immSigned i * 64))
      exact ⟨_, by rw [hexec, hr]; rfl, hmem, hstr, hcores⟩
    · intro e hr
      rw [hexec, hr]; rfl

end

/-! ## What waking strands leaves of memory, and the state of a word (R173, R46) -/

namespace Sys2Proof.Machine

@[simp] theorem wake_mem (s : State) (k : Nat) : (wake s k).mem = s.mem := by
  unfold wake
  split
  · split <;> rfl
  · rfl

@[simp] theorem wake_empties (s : State) (k : Nat) : (wake s k).empties = s.empties := by
  unfold wake
  split
  · split <;> rfl
  · rfl

/-- Waking strands keeps what waking one keeps. -/
theorem wakeWhere_keeps {β : Type} (φ : State → β) (h : ∀ (s : State) k, φ (wake s k) = φ s) (s : State)
    (f : Nat → Strand → Park → Bool) : φ (wakeWhere s f) = φ s := by
  unfold wakeWhere
  generalize s.strands = l
  induction l generalizing s with
  | nil => rfl
  | cons e r ih =>
    rw [List.foldl_cons, ih]
    split
    · split
      · exact h s e.1
      · rfl
    · rfl

@[simp] theorem wakeNames_mem (s : State) (p : Nat) : (wakeNames s p).mem = s.mem :=
  wakeWhere_keeps (·.mem) wake_mem s _

@[simp] theorem wakeNames_empties (s : State) (p : Nat) : (wakeNames s p).empties = s.empties :=
  wakeWhere_keeps (·.empties) wake_empties s _

theorem mem_nInsert (l : List Nat) (a b : Nat) : b ∈ nInsert l a ↔ b = a ∨ b ∈ l := by
  induction l with
  | nil => simp [nInsert]
  | cons x r ih =>
    unfold nInsert
    by_cases hx : x = a
    · simp [hx]
    · by_cases hlt : a < x
      · simp [hx, hlt]
      · simp only [hx, hlt, if_false, List.mem_cons, ih]
        tauto

theorem wordFull_iff (s : State) (w : Nat) : wordFull s w = true ↔ w / 8 * 8 ∉ s.empties := by
  simp [wordFull]

theorem sameWord_iff (w pa : Nat) : w / 8 * 8 = pa / 8 * 8 ↔ w / 8 = pa / 8 := by omega

theorem wordFull_congr {s t : State} (h : s.empties = t.empties) (w : Nat) : wordFull s w = wordFull t w := by
  rw [wordFull, wordFull, h]

/-- A word's bit after it has been set. -/
theorem wordFull_setFull (s : State) (pa w : Nat) (b : Bool) :
    wordFull (setFull s pa b) w = if w / 8 = pa / 8 then b else wordFull s w := by
  rw [Bool.eq_iff_iff, wordFull_iff]
  cases b with
  | false =>
    show w / 8 * 8 ∉ nInsert s.empties (pa / 8 * 8) ↔ _
    rw [mem_nInsert, sameWord_iff]
    split_ifs with h
    · simp [h]
    · simp [h, wordFull_iff]
  | true =>
    show w / 8 * 8 ∉ s.empties.filter (· != pa / 8 * 8) ↔ _
    rw [List.mem_filter, bne_iff_ne, Ne, sameWord_iff]
    split_ifs with h
    · simp [h]
    · simp [h, wordFull_iff]

/-- No take is deferred on the word: filling it grants none. -/
theorem grantTake_none {s : State} {pa : Nat} (h : ∀ d ∈ s.deferred, d.1 ≠ pa / 8 * 8) : grantTake s pa = s := by
  have hnone : s.deferred.find? (fun d => d.1 == pa / 8 * 8) = none := by
    simpa [List.find?_eq_none] using fun a b c hm => h (a, b, c) hm
  simp only [grantTake, hnone]

end Sys2Proof.Machine

section

open Sys2Proof Sys2Proof.Machine Sys2Proof.Claims

/-- Settles O17: both set the word's bit, and wake strands. -/
theorem wordStateChangesOnlyThatWord : Obligations.WordStateChangesOnlyThatWord := by
  intro s pa w
  refine ⟨?_, fun a => ?_, fun h => ?_⟩
  · rw [← wordFull_setFull]
    exact wordFull_congr (wakeNames_empties ..) w
  · simp only [emptyWord, wakeNames_mem]
    rfl
  · have hg : grantTake (setFull s pa true) pa = setFull s pa true := grantTake_none h
    refine ⟨?_, fun a => ?_⟩
    · rw [← wordFull_setFull, fillWord, hg]
      exact wordFull_congr (wakeNames_empties ..) w
    · simp only [fillWord, hg, wakeNames_mem]
      rfl

end


/-! ## What the shared operations leave: everything but memory, strands, cores, clusters, launches and pending events -/

namespace Sys2Proof.Machine

theorem map_ok {α β ε : Type} {f : α → β} {x : Except ε α} {y : β} (h : x.map f = .ok y) : ∃ a, x = .ok a ∧ f a = y := by
  cases x with
  | error e => cases h
  | ok a => cases h; exact ⟨a, rfl, rfl⟩

theorem bind_ok {α β ε : Type} {x : Except ε α} {f : α → Except ε β} {y : β} (h : (x >>= f) = .ok y) :
    ∃ a, x = .ok a ∧ f a = .ok y := by
  cases x with
  | error e => cases h
  | ok a => exact ⟨a, rfl, h⟩

/-- A fold keeps what each of its steps keeps. -/
theorem foldl_keeps {σ α β : Type} (view : σ → β) (f : σ → α → σ) (h : ∀ s a, view (f s a) = view s) (l : List α) :
    ∀ s, view (l.foldl f s) = view s := by
  induction l with
  | nil => intro s; rfl
  | cons a r ih => intro s; exact (ih _).trans (h s a)

/-- A state's parts that no write, translation, wake or log entry touches. -/
def ambient (s : State) : State :=
  { s with mem := [], empties := [], cores := [], strands := [], clusters := [], launches := [], saved := [],
           rsvs := [], deferred := [], agenda := [], hist := [],
           poison := [], sectors := [], tolBlocks := [] }

theorem hub_of_ambient {s t : State} (h : ambient s = ambient t) : s.hub = t.hub := (congrArg State.hub h :)

theorem futures_of_ambient {s t : State} (h : ambient s = ambient t) : s.futures = t.futures :=
  (congrArg State.futures h :)

@[simp] theorem wake_ambient (s : State) (k : Nat) : ambient (wake s k) = ambient s := by
  unfold wake
  split
  · split <;> rfl
  · rfl

@[simp] theorem wakeWhere_ambient (s : State) (f : Nat → Strand → Park → Bool) : ambient (wakeWhere s f) = ambient s :=
  wakeWhere_keeps ambient wake_ambient s f

@[simp] theorem setFull_ambient (s : State) (pa : Nat) (b : Bool) : ambient (setFull s pa b) = ambient s := rfl

@[simp] theorem setCluster_ambient (s : State) (c : Nat) (x : Cluster) : ambient (setCluster s c x) = ambient s := rfl

@[simp] theorem addEvent_ambient (s : State) (e : Instr) : ambient (addEvent s e) = ambient s := rfl

@[simp] theorem setRecord_ambient (s : State) (lid : Nat) (l : Launch) : ambient (setRecord s lid l) = ambient s := rfl

@[simp] theorem stopRecord_ambient (s : State) (lid : Nat) (l : Launch) : ambient (stopRecord s lid l) = ambient s := rfl

@[simp] theorem fireMonitors_ambient (s : State) (w : Option Nat) (lo hi : Nat) :
    ambient (fireMonitors s w lo hi) = ambient s := by
  dsimp only [fireMonitors]
  refine (foldl_keeps ambient _ (fun a h => ?_) _ _).trans ?_
  · rfl
  · split <;> rfl

@[simp] theorem wakeEntries_ambient (s : State) (pa n : Nat) : ambient (wakeEntries s pa n) = ambient s := by
  dsimp only [wakeEntries]
  refine (foldl_keeps ambient _ (fun a e => ?_) _ _).trans (wakeWhere_ambient ..)
  split
  · split <;> rfl
  · rfl

@[simp] theorem storePhys_ambient (s : State) (w : Option Nat) (pa n v : Nat) : ambient (storePhys s w pa n v) = ambient s := by
  dsimp only [storePhys]
  split
  · rfl
  · rw [wakeEntries_ambient, fireMonitors_ambient]
    rfl

/-! ### Words, reservations and agents' writes -/

@[simp] theorem wakeNames_ambient (s : State) (p : Nat) : ambient (wakeNames s p) = ambient s := wakeWhere_ambient ..

@[simp] theorem sendBack_ambient (s : State) (w : Nat) : ambient (sendBack s w) = ambient s :=
  foldl_keeps ambient (fun (a : State) (d : Nat × Nat × Nat) => wake a d.2.1) (fun a _ => wake_ambient a _) _ _

@[simp] theorem grantTake_ambient (s : State) (pa : Nat) : ambient (grantTake s pa) = ambient s := by
  dsimp only [grantTake]
  split
  · split
    · exact sendBack_ambient ..
    · split
      · exact wake_ambient ..
      · rfl
  · rfl

@[simp] theorem fillWord_ambient (s : State) (pa : Nat) : ambient (fillWord s pa) = ambient s := by
  simp [fillWord]

@[simp] theorem emptyWord_ambient (s : State) (pa : Nat) : ambient (emptyWord s pa) = ambient s := by
  simp [emptyWord]

@[simp] theorem applyWrite_ambient (s : State) (w : PendWrite) : ambient (applyWrite s w) = ambient s := by
  dsimp only [applyWrite]
  split <;> simp

@[simp] theorem joinWrites_ambient (s : State) (a : Nat) (w : PendWrite) : ambient (joinWrites s a w) = ambient s := rfl

@[simp] theorem homeWrite_ambient (s : State) (w : PendWrite) : ambient (homeWrite s w) = ambient s := by
  unfold homeWrite
  split
  · rfl
  · split
    · rfl
    · exact applyWrite_ambient ..

@[simp] theorem resumeWrite_ambient (s : State) (w : PendWrite) : ambient (resumeWrite s w) = ambient s := by
  unfold resumeWrite
  split <;> simp

@[simp] theorem agentPut_ambient (s : State) (who : Nat) (rel : Bool) (pa n v : Nat) :
    ambient (agentPut s who rel pa n v) = ambient s := by
  unfold agentPut
  split
  · exact storePhys_ambient ..
  · exact foldl_keeps ambient _ (fun a x => homeWrite_ambient a _) _ _

@[simp] theorem agentWrite_ambient (s : State) (who pa n v : Nat) : ambient (agentWrite s who pa n v) = ambient s :=
  agentPut_ambient ..

@[simp] theorem releaseWord_ambient (s : State) (w : Nat) : ambient (releaseWord s w) = ambient s := by
  dsimp only [releaseWord]
  split
  · next r hr =>
    have h : ∀ a : State, ambient (r.writes.foldl resumeWrite a) = ambient a :=
      foldl_keeps ambient _ resumeWrite_ambient _
    split
    · exact (h _).trans (wakeWhere_ambient ..)
    · exact (h _).trans (wakeWhere_ambient ..)
  · rfl

@[simp] theorem letGo_ambient (s : State) (k : Nat) : ambient (letGo s k) = ambient s :=
  foldl_keeps ambient (fun (a : State) (e : Nat × Rsv) => releaseWord a e.1) (fun a _ => releaseWord_ambient a _) _ _

/-! ### Translation -/

@[simp] theorem tlbInsert_ambient (s : State) (via : Via) (acc : Access) (e : TlbEnt) : ambient (tlbInsert s via acc e) = ambient s := by
  cases via <;> rfl

theorem translate_ambient {s s' : State} {lid asid va pa leaf : Nat} {via : Via} {sv : Bool} {acc : Access}
    (h : translate s lid via asid sv acc va = .ok (s', pa, leaf)) : ambient s' = ambient s := by
  rcases translate_cases h with ⟨_, rfl⟩ | ⟨_, e, _, rfl⟩ | ⟨_, _, x, ws, s1, lf, e, _, hb, rfl⟩
  · rfl
  · exact tlbInsert_ambient ..
  · rcases setBits_cases hb with rfl | ⟨a, v, _, rfl⟩ <;> simp [walked]

theorem peekTranslate_ambient {s s' : State} {lid asid va pa leaf : Nat} {via : Via} {sv walks : Bool} {acc : Access}
    (h : peekTranslate s lid via asid sv walks acc va = some (s', pa, leaf)) : ambient s' = ambient s := by
  obtain ⟨_, ht⟩ := Option.ite_none_right_eq_some.mp h
  refine translate_ambient (s' := s') (pa := pa) (leaf := leaf) (lid := lid) (via := via) (asid := asid) (sv := sv)
    (acc := acc) (va := va) ?_
  cases hx : translate s lid via asid sv acc va <;> simp_all [Except.toOption]

@[simp] theorem countPlace_ambient (s : State) (c asid va pa : Nat) (wrote : Bool) :
    ambient (countPlace s c asid va pa wrote) = ambient s := by
  unfold countPlace
  split <;> rfl

/-! ### Record and replay -/

theorem rrAddr_ambient {s s' : State} {l : Launch} {lid off pa : Nat} {acc : Access}
    (h : rrAddr s l lid off acc = .ok (s', pa)) : ambient s' = ambient s := by
  unfold rrAddr at h
  obtain ⟨x, hx, he⟩ := map_ok h
  cases he
  exact translate_ambient hx

@[simp] theorem rrFlush_ambient (lid : Nat) (es : List (Nat × Nat)) : ∀ s : State, ambient (rrFlush lid es s) = ambient s := by
  induction es with
  | nil => intro s; rfl
  | cons e rest ih =>
    intro s
    simp only [rrFlush]
    split
    · rfl
    · split
      · rfl
      · split
        · rfl
        · split
          · next ha =>
            have hs := rrAddr_ambient ha
            split
            · exact hs
            · rw [ih, agentWrite_ambient]; exact hs
          · rfl
          · rfl

@[simp] theorem rrRetry_ambient (s : State) (lid : Nat) : ambient (rrRetry s lid) = ambient s := by
  unfold rrRetry
  split <;> simp

@[simp] theorem rrAppend_ambient (s : State) (lid lo hi : Nat) : ambient (rrAppend s lid lo hi) = ambient s := by
  unfold rrAppend
  split
  · split
    · rfl
    · rw [rrRetry_ambient]; rfl
  · rfl

theorem rrEvents_ambient (l : Launch) (lid : Nat) (n : Nat) : ∀ (i : Nat) (s : State), ambient (rrEvents l lid n i s).1 = ambient s := by
  induction n with
  | zero => intro i s; rfl
  | succ n ih =>
    intro i s
    simp only [rrEvents]
    split
    · rfl
    · next ha =>
      have hs := rrAddr_ambient ha
      split
      · exact hs
      · exact (ih _ _).trans hs

@[simp] theorem rrRead_ambient (s : State) (lid : Nat) : ambient (rrRead s lid).1 = ambient s := by
  unfold rrRead
  split
  · exact rrEvents_ambient ..
  · rfl

theorem rrAllow_ambient {s s' : State} {lid op pl issuer : Nat} (h : rrAllow s lid op pl issuer = some s') :
    ambient s' = ambient s := by
  unfold rrAllow at h
  split at h
  · cases h; rfl
  · split at h
    · split at h
      · cases h; rw [wakeWhere_ambient]; exact rrRead_ambient ..
      · cases h
    · cases h

@[simp] theorem logFut_ambient (s : State) (h : BitVec 32) (x : FutLog) : ambient (logFut s h x) = ambient s := by
  dsimp only [logFut]
  rw [rrAppend_ambient]
  split
  · cases ha : rrAllow s x.lid x.op h.toNat x.who with
    | none => rfl
    | some s' => exact rrAllow_ambient ha
  · rfl

end Sys2Proof.Machine


/-! ## Only the hub's own events change the hub (R60, R427) -/

namespace Sys2Proof.Machine

/-- Whatever next state an outcome is, it has the hub's registers of `s`. -/
structure KeepsHub (s : State) (o : Out) : Prop where
  hub : ∀ t, o = .next t → t.hub = s.hub

theorem finish_keepsHub (s : State) (r : Res State) : KeepsHub s (finish s r) := ⟨fun _ h => finish_hub h⟩

theorem done_keepsHub (s t : State) : KeepsHub s (done s t) := ⟨fun _ h => done_hub h⟩

theorem again_keepsHub (s : State) (e : Instr) : KeepsHub s (again s e) := ⟨fun _ h => by cases h; rfl⟩

theorem holdDelivery_keepsHub (s : State) (e : Instr) (same : Instr → Bool) : KeepsHub s (holdDelivery s e same) :=
  ⟨fun _ h => by cases h; rfl⟩

theorem gated_keepsHub (s : State) (cls : Cls) (g : Guard) (static supOnly : Bool) (body : List Nat → Res State) :
    KeepsHub s (gated s cls g static supOnly body) := finish_keepsHub s _

theorem computed_keepsHub (s : State) (g : Guard) (cls : Cls) (static : Bool) (d : NameIx) (srcs : List NameIx)
    (typesOk : NameInfo → List NameInfo → Bool) (f : NameInfo → List Src → Nat → LaneRes) :
    KeepsHub s (computed s g cls static d srcs typesOk f) := by
  dsimp only [computed]
  cases nameInfo (curStrand s).map d <;> cases infos (curStrand s) srcs <;> exact gated_keepsHub ..

theorem compared_keepsHub (s : State) (g : Guard) (d : Nat) (srcs : List NameIx) (typesOk : List NameInfo → Bool)
    (f : List Src → Nat → Bool) : KeepsHub s (compared s g d srcs typesOk f) := by
  dsimp only [compared]
  cases infos (curStrand s) srcs <;> exact gated_keepsHub ..

theorem uniformOp_keepsHub (s : State) (g : Guard) (supOnly static : Bool) (ds srcs : List NameIx)
    (typesOk : List NameInfo → List NameInfo → Bool) (body : State → List NameInfo → List Src → Res State) :
    KeepsHub s (uniformOp s g supOnly static ds srcs typesOk body) := by
  dsimp only [uniformOp]
  cases infos (curStrand s) ds <;> cases infos (curStrand s) srcs <;> exact gated_keepsHub ..

theorem laneToUniform_keepsHub (s : State) (g : Guard) (static : Bool) (d : NameIx) (srcs : List NameIx)
    (ok : NameInfo → List NameInfo → Bool) (body : State → NameInfo → List Src → List Nat → Res State) :
    KeepsHub s (laneToUniform s g static d srcs ok body) := by
  dsimp only [laneToUniform]
  cases nameInfo (curStrand s).map d <;> cases infos (curStrand s) srcs <;> exact gated_keepsHub ..

theorem loadOp_keepsHub (s : State) (g : Guard) (cls : Cls) (static : Bool) (grp : Grp) (n : Nat) (d : NameIx)
    (srcs : List NameIx) (kinds : List NameInfo → Bool) (addr : List Src → Nat → Nat) (acq : Bool)
    (pre : State → Res State) : KeepsHub s (loadOp s g cls static grp n d srcs kinds addr acq pre) := by
  dsimp only [loadOp]
  cases nameInfo (curStrand s).map d <;> cases infos (curStrand s) srcs <;> exact gated_keepsHub ..

theorem storeOp_keepsHub (s : State) (g : Guard) (cls : Cls) (static : Bool) (grp : Grp) (n : Nat) (d : NameIx)
    (srcs : List NameIx) (kinds : List NameInfo → Bool) (addr : List Src → Nat → Nat) (pre : State → Res State)
    (write : State → Touch → Nat → Res State) :
    KeepsHub s (storeOp s g cls static grp n d srcs kinds addr pre write) := by
  dsimp only [storeOp]
  cases nameInfo (curStrand s).map d <;> cases infos (curStrand s) srcs <;> exact gated_keepsHub ..

theorem plogRun_keepsHub (s : State) (g : Guard) (d a b : BitVec 4) (static : Bool) (f : Nat) :
    KeepsHub s (plogRun s g d a b static f) := by
  dsimp only [plogRun]
  split <;> exact gated_keepsHub ..

theorem deliver_keepsHub (s : State) (e : Instr) (p place issuer : Nat) (put : State → State) :
    KeepsHub s (deliver s e p place issuer put) := by
  dsimp only [deliver]
  split
  · exact done_keepsHub ..
  · split
    · exact again_keepsHub ..
    · exact done_keepsHub ..

theorem KeepsHub.of_hub {s s' : State} {o : Out} (h : KeepsHub s' o) (hs : s'.hub = s.hub) : KeepsHub s o :=
  ⟨fun t ht => (h.hub t ht).trans hs⟩

open Claims in
/-- Every instruction and event other than the hub's own keeps the hub's registers; a LIMM is left to `runPair`. -/
theorem exec_keepsHub_of_ne_limm {i : Instr} (s : State) (hi : changesHub i = false) (hl : ∀ x w, i ≠ .limm x w) :
    KeepsHub s (exec i s) := by
  cases i with
  | pooldecWrite | pcapWrite | attreq | attestationDone | ckptSramImage | ckptWholeDeviceImage | ckptRestore
  | ckptDone | deviceRegisterWrite | migrationWindow | pageMigration | vaultRowRetire | linkFlitReceive
  | patchTableLoad | powerOnReset | thermalThrottle | thermalShutdown | replicaRemovalDone =>
    exact Bool.noConfusion hi
  | limm x w => exact absurd rfl (hl x w)
  | add | sub | mul | mulh | and | or | xor | andn | shl | shr | sha | min | max | absd | div | rem | rot | roti
  | li | lih | mac | ffma | fcvt | funOp | ext | ins | bitc | mov | vidx | vshuf | sel | addi | muli | andi
  | ori | xori | shli | shri | shai | mini | maxi | fadd | fsub | fmul | fmin | fmax =>
    simp only [exec_add, execAdd, exec_sub, execSub, exec_mul, execMul, exec_mulh, execMulh, exec_and, execAnd, exec_or,
      execOr, exec_xor, execXor, exec_andn, execAndn, exec_shl, execShl, exec_shr, execShr, exec_sha, execSha,
      exec_min, execMin, exec_max, execMax, exec_absd, execAbsd, exec_div, execDiv, exec_rem, execRem, exec_rot,
      execRot, exec_roti, execRoti, exec_li, execLi, exec_lih, execLih, exec_mac, execMac, exec_ffma, execFfma,
      exec_fcvt, execFcvt, exec_funOp, execFunOp, exec_ext, execExt, exec_ins, execIns, exec_bitc, execBitc,
      exec_mov, execMov, exec_vidx, execVidx, exec_vshuf, execVshuf, exec_sel, execSel, exec_addi, execAddi,
      exec_muli, execMuli, exec_andi, execAndi, exec_ori, execOri, exec_xori, execXori, exec_shli, execShli,
      exec_shri, execShri, exec_shai, execShai, exec_mini, execMini, exec_maxi, execMaxi, exec_fadd, execFadd,
      exec_fsub, execFsub, exec_fmul, execFmul, exec_fmin, execFmin, exec_fmax, execFmax, intBinary, divBinary,
      intImm, fpBinary, fpPick]
    exact computed_keepsHub ..
  | fcmp | cmp | cmpi =>
    simp only [exec_fcmp, execFcmp, exec_cmp, execCmp, exec_cmpi, execCmpi]
    exact compared_keepsHub ..
  | vfirst | vlane | vred | vpredCount =>
    simp only [exec_vfirst, execVfirst, exec_vlane, execVlane, exec_vred, execVred, exec_vpredCount, execVpredCount]
    exact laneToUniform_keepsHub ..
  | plog | plogMov =>
    simp only [exec_plog, execPlog, exec_plogMov, execPlogMov]
    exact plogRun_keepsHub ..
  | ldb | ldh | ldw | ldd | ldx | ldg | ldo =>
    simp only [exec_ldb, execLdb, exec_ldh, execLdh, exec_ldw, execLdw, exec_ldd, execLdd, exec_ldx, execLdx, exec_ldg,
      execLdg, exec_ldo, execLdo, loadImm]
    exact loadOp_keepsHub ..
  | stb | sth | stw | std | stx | sts | sto | put =>
    simp only [exec_stb, execStb, exec_sth, execSth, exec_stw, execStw, exec_std, execStd, exec_stx, execStx, exec_sts,
      execSts, exec_sto, execSto, exec_put, execPut, storeImm]
    exact storeOp_keepsHub ..
  | br | ipf | fence | exit | yield | waitmsg | trap | rtt | nop | iflushAll | tlbinvAll | dbrk | eres
  | vpredAny | vpredAll | brany | brall | bara | barw =>
    simp only [exec_br, execBr, exec_ipf, execIpf, exec_fence, execFence, exec_exit, execExit, exec_yield, execYield,
      exec_waitmsg, execWaitmsg, exec_trap, execTrap, exec_rtt, execRtt, exec_nop, execNop, exec_iflushAll,
      execIflushAll, exec_tlbinvAll, execTlbinvAll, exec_dbrk, execDbrk, exec_eres, execEres, exec_vpredAny,
      execVpredAny, exec_vpredAll, execVpredAll, exec_brany, execBrany, exec_brall, execBrall, exec_bara,
      execBara, exec_barw, execBarw, vpredTo, laneBranch, barrierOp]
    exact gated_keepsHub ..
  | jr | loop | pmovR | pmovW | pmovFc | rsv | rel | enq | pop | epeek | cxset | cxgo | send | mrecv | qctl
  | fnew | fget | post | roam | settle | mon | monx | waita | start | join | ctlr | ctlw | ctlx | mapld | conf
  | confExit | iflush | tlbinvPage | tlbinvAsid | getid | bind | unbind | grey | faa | swp | cas | feset
  | fetest | fset | fexp | fdec | pubsh | stopref | fcancel =>
    simp only [exec_jr, execJr, exec_loop, execLoop, exec_pmovR, execPmovR, exec_pmovW, execPmovW, exec_pmovFc,
      execPmovFc, exec_rsv, execRsv, exec_rel, execRel, exec_enq, execEnq, exec_pop, execPop, exec_epeek,
      execEpeek, exec_cxset, execCxset, exec_cxgo, execCxgo, exec_send, execSend, exec_mrecv, execMrecv,
      exec_qctl, execQctl, exec_fnew, execFnew, exec_fget, execFget, exec_post, execPost, exec_roam, execRoam,
      exec_settle, execSettle, exec_mon, execMon, exec_monx, execMonx, exec_waita, execWaita, exec_start,
      execStart, exec_join, execJoin, exec_ctlr, execCtlr, exec_ctlw, execCtlw, exec_ctlx, execCtlx, exec_mapld,
      execMapld, exec_conf, execConf, exec_confExit, execConfExit, exec_iflush, execIflush, exec_tlbinvPage,
      execTlbinvPage, exec_tlbinvAsid, execTlbinvAsid, exec_getid, execGetid, exec_bind, execBind, exec_unbind,
      execUnbind, exec_grey, execGrey, exec_faa, execFaa, exec_swp, execSwp, exec_cas, execCas, exec_feset,
      execFeset, exec_fetest, execFetest, exec_fset, execFset, exec_fexp, execFexp, exec_fdec, execFdec,
      exec_pubsh, execPubsh, exec_stopref, execStopref, exec_fcancel, execFcancel, rmw, stateOp, futOp]
    exact uniformOp_keepsHub ..
  | unassignedOpcode =>
    simp only [exec_unassignedOpcode, execUnassignedOpcode]
    exact finish_keepsHub ..
  | barrierRelease | tableSlotWrite | copyChunk | lrheadWrite | futnew | kydbHalt | iflushComplete | kydbResume
  | barrierArrival | mmaqSlotTake | vtkvEntryWake | taskDispatch | backfillJobStart | launchAdmit | fqheadWrite
  | mma | mmas | mmaq | mmat | accz | accld | accst | accadd | reservedCommand | vtmap | vtbin | vtred | vtsmax
  | vtnorm | vtcvt | vthaar | vtihaar | vtconf | vtkvLoad | vtkvStore | copy2 | copy3 | slab | gather | scatter
  | bcast | reduce | table =>
    simp only [exec_barrierRelease, execBarrierRelease, exec_tableSlotWrite, execTableSlotWrite, exec_copyChunk,
      execCopyChunk, exec_lrheadWrite, execLrheadWrite, exec_futnew, execFutnew, exec_kydbHalt, execKydbHalt,
      exec_iflushComplete, execIflushComplete, exec_kydbResume, execKydbResume, exec_barrierArrival,
      execBarrierArrival, exec_mmaqSlotTake, execMmaqSlotTake, exec_vtkvEntryWake, execVtkvEntryWake,
      exec_taskDispatch, execTaskDispatch, exec_backfillJobStart, execBackfillJobStart, exec_launchAdmit,
      execLaunchAdmit, exec_fqheadWrite, execFqheadWrite, exec_mma, execMma, exec_mmas, execMmas, exec_mmaq,
      execMmaq, exec_mmat, execMmat, exec_accz, execAccz, exec_accld, execAccld, exec_accst, execAccst,
      exec_accadd, execAccadd, exec_reservedCommand, execReservedCommand, exec_vtmap, execVtmap, exec_vtbin,
      execVtbin, exec_vtred, execVtred, exec_vtsmax, execVtsmax, exec_vtnorm, execVtnorm, exec_vtcvt, execVtcvt,
      exec_vthaar, execVthaar, exec_vtihaar, execVtihaar, exec_vtconf, execVtconf, exec_vtkvLoad, execVtkvLoad,
      exec_vtkvStore, execVtkvStore, exec_copy2, execCopy2, exec_copy3, execCopy3, exec_slab, execSlab,
      exec_gather, execGather, exec_scatter, execScatter, exec_bcast, execBcast, exec_reduce, execReduce,
      exec_table, execTable, vxCommand, runCommand, startCopy]
    exact done_keepsHub ..
  | widq | callr =>
    simp only [exec_widq, execWidq, exec_callr, execCallr]
    split
    · exact uniformOp_keepsHub ..
    · exact gated_keepsHub ..
  | vscan | call | ldt | ldk | rsz | pref =>
    simp only [exec_vscan, execVscan, exec_call, execCall, exec_ldt, execLdt, exec_ldk, execLdk, exec_rsz, execRsz,
      exec_pref, execPref]
    split <;> exact gated_keepsHub ..
  | patchSubstitute =>
    simp only [exec_patchSubstitute, execPatchSubstitute]
    split
    · exact finish_keepsHub ..
    · exact done_keepsHub ..
  | copyComplete =>
    simp only [exec_copyComplete, execCopyComplete]
    split
    · exact done_keepsHub ..
    · split
      · exact again_keepsHub ..
      · split
        · exact (again_keepsHub _ _).of_hub (wakeWhere_hub ..)
        · exact (deliver_keepsHub ..).of_hub (wakeWhere_hub ..)
  | accessReply | strandRejoin | repackRowWrite | repackUnlock | monitorNotice | waitaTimeout | takeResend
  | reservationGrant | rsvholdTimeout | engineFaultTrap | inboxDelivery | mailboxDelivery | queueTransfer
  | roamPacketArrival | guestAdmit | footprintFetchDone | recordUrgent | taskRetire | groupMemberUpdate
  | confExitJobPost | backfillLayerDone | backfillPlacementTimeout | lqpush | launchStartBroadcast | launchEnd
  | watchdogExpiry | greyOut | restore | faultQueuePost | freply | futfree | fetchLineArrival | tlbinvComplete
  | liftTheFreeze | endLaunchAsHung =>
    simp only [exec_accessReply, execAccessReply, exec_strandRejoin, execStrandRejoin, exec_repackRowWrite,
      execRepackRowWrite, exec_repackUnlock, execRepackUnlock, exec_monitorNotice, execMonitorNotice,
      exec_waitaTimeout, execWaitaTimeout, exec_takeResend, execTakeResend, exec_reservationGrant,
      execReservationGrant, exec_rsvholdTimeout, execRsvholdTimeout, exec_engineFaultTrap, execEngineFaultTrap,
      exec_inboxDelivery, execInboxDelivery, exec_mailboxDelivery, execMailboxDelivery, exec_queueTransfer,
      execQueueTransfer, exec_roamPacketArrival, execRoamPacketArrival, exec_guestAdmit, execGuestAdmit,
      exec_footprintFetchDone, execFootprintFetchDone, exec_recordUrgent, execRecordUrgent, exec_taskRetire,
      execTaskRetire, exec_groupMemberUpdate, execGroupMemberUpdate, exec_confExitJobPost, execConfExitJobPost,
      exec_backfillLayerDone, execBackfillLayerDone, exec_backfillPlacementTimeout,
      execBackfillPlacementTimeout, exec_lqpush, execLqpush, exec_launchStartBroadcast,
      execLaunchStartBroadcast, exec_launchEnd, execLaunchEnd, exec_watchdogExpiry, execWatchdogExpiry,
      exec_greyOut, execGreyOut, exec_restore, execRestore, exec_faultQueuePost, execFaultQueuePost,
      exec_freply, execFreply, exec_futfree, execFutfree, exec_fetchLineArrival, execFetchLineArrival,
      exec_tlbinvComplete, execTlbinvComplete, exec_liftTheFreeze, execLiftTheFreeze, exec_endLaunchAsHung,
      execEndLaunchAsHung, footMoved, layerDone]
    repeat' split
    all_goals first
      | exact done_keepsHub ..
      | exact again_keepsHub ..
      | exact holdDelivery_keepsHub ..
      | exact deliver_keepsHub ..

end Sys2Proof.Machine


/-! ## The hub survives the shared operations -/

namespace Sys2Proof.Machine

/-- A fold on a pair, of which the state is the first part, keeps what each of its steps keeps of the state. -/
theorem foldl_keeps_fst {α γ : Type} (f : State × γ → α → State × γ) (h : ∀ x a, (f x a).1.hub = x.1.hub) (l : List α)
    (x : State × γ) : (l.foldl f x).1.hub = x.1.hub := foldl_keeps (fun y : State × γ => y.1.hub) f h l x

/-! ### Words, reservations and agents' writes -/

@[simp] theorem wakeNames_hub (s : State) (p : Nat) : (wakeNames s p).hub = s.hub :=
  hub_of_ambient (wakeNames_ambient ..)

@[simp] theorem sendBack_hub (s : State) (w : Nat) : (sendBack s w).hub = s.hub :=
  hub_of_ambient (sendBack_ambient ..)

@[simp] theorem grantTake_hub (s : State) (pa : Nat) : (grantTake s pa).hub = s.hub :=
  hub_of_ambient (grantTake_ambient ..)

@[simp] theorem fillWord_hub (s : State) (pa : Nat) : (fillWord s pa).hub = s.hub :=
  hub_of_ambient (fillWord_ambient ..)

@[simp] theorem emptyWord_hub (s : State) (pa : Nat) : (emptyWord s pa).hub = s.hub :=
  hub_of_ambient (emptyWord_ambient ..)

@[simp] theorem applyWrite_hub (s : State) (w : PendWrite) : (applyWrite s w).hub = s.hub :=
  hub_of_ambient (applyWrite_ambient ..)

@[simp] theorem joinWrites_hub (s : State) (a : Nat) (w : PendWrite) : (joinWrites s a w).hub = s.hub :=
  hub_of_ambient (joinWrites_ambient ..)

@[simp] theorem homeWrite_hub (s : State) (w : PendWrite) : (homeWrite s w).hub = s.hub :=
  hub_of_ambient (homeWrite_ambient ..)

@[simp] theorem resumeWrite_hub (s : State) (w : PendWrite) : (resumeWrite s w).hub = s.hub :=
  hub_of_ambient (resumeWrite_ambient ..)

@[simp] theorem agentPut_hub (s : State) (who : Nat) (rel : Bool) (pa n v : Nat) :
    (agentPut s who rel pa n v).hub = s.hub :=
  hub_of_ambient (agentPut_ambient ..)

@[simp] theorem agentWrite_hub (s : State) (who pa n v : Nat) : (agentWrite s who pa n v).hub = s.hub :=
  hub_of_ambient (agentWrite_ambient ..)

@[simp] theorem releaseWord_hub (s : State) (w : Nat) : (releaseWord s w).hub = s.hub :=
  hub_of_ambient (releaseWord_ambient ..)

@[simp] theorem letGo_hub (s : State) (k : Nat) : (letGo s k).hub = s.hub :=
  hub_of_ambient (letGo_ambient ..)

/-! ### Translation -/

@[simp] theorem tlbInsert_hub (s : State) (via : Via) (acc : Access) (e : TlbEnt) : (tlbInsert s via acc e).hub = s.hub :=
  hub_of_ambient (tlbInsert_ambient ..)

theorem translate_hub {s s' : State} {lid asid va pa leaf : Nat} {via : Via} {sv : Bool} {acc : Access}
    (h : translate s lid via asid sv acc va = .ok (s', pa, leaf)) : s'.hub = s.hub :=
  hub_of_ambient (translate_ambient h)

theorem peekTranslate_hub {s s' : State} {lid asid va pa leaf : Nat} {via : Via} {sv walks : Bool} {acc : Access}
    (h : peekTranslate s lid via asid sv walks acc va = some (s', pa, leaf)) : s'.hub = s.hub :=
  hub_of_ambient (peekTranslate_ambient h)

@[simp] theorem countPlace_hub (s : State) (c asid va pa : Nat) (wrote : Bool) :
    (countPlace s c asid va pa wrote).hub = s.hub :=
  hub_of_ambient (countPlace_ambient ..)

/-! ### Instruction fetch -/

@[simp] theorem leaveMiddle_hub (s : State) (c : Nat) (gone : Nat → Bool) : (leaveMiddle s c gone).hub = s.hub := rfl

@[simp] theorem fillMiddle_hub (s : State) (c line : Nat) (data : BitVec 512) : (fillMiddle s c line data).hub = s.hub := by
  dsimp only [fillMiddle]
  split <;> rfl

@[simp] theorem fillL1_hub (s : State) (p line : Nat) (data : BitVec 512) : (fillL1 s p line data).hub = s.hub := by
  dsimp only [fillL1]
  split <;> rfl

@[simp] theorem prefetchInto_hub (l1 : Bool) (s : State) (va : Nat) : (prefetchInto l1 s va).hub = s.hub := by
  dsimp only [prefetchInto]
  split
  · rfl
  · split
    · rfl
    · next h =>
      have hs := peekTranslate_hub h
      repeat' split
      all_goals simp [hs]

@[simp] theorem prefetchNext_hub (s : State) (va : Nat) : (prefetchNext s va).hub = s.hub :=
  foldl_keeps State.hub _ (fun a _ => prefetchInto_hub false a _) _ _

theorem fetchWord_hub {s s' : State} {va : Nat} {head : Bool} {w : BitVec 32} (h : fetchWord s va head = .ok (s', w)) :
    s'.hub = s.hub := by
  dsimp only [fetchWord] at h
  split at h
  · cases h; rfl
  · split at h
    · cases h
    · split at h
      · cases h
      · cases h
      · cases h
      · next ht =>
        have hs := translate_hub ht
        split at h
        · cases h
          split <;> simp [hs]
        · split at h <;> cases h

theorem fetchSecond_hub {s s' : State} {w : BitVec 32} {w2 : Option (BitVec 32)} (h : fetchSecond s w = .ok (s', w2)) :
    s'.hub = s.hub := by
  unfold fetchSecond at h
  split at h
  · split at h
    · next hf => cases h; exact fetchWord_hub hf
    · cases h
  · cases h; rfl

@[simp] theorem beginIssue_hub (s : State) (k : Nat) : (beginIssue s k).hub = s.hub := by
  dsimp only [beginIssue]
  split <;> rfl

/-! ### Reports and time -/

@[simp] theorem writeReports_hub (rs : List (BitVec 128)) : ∀ s : State, (writeReports rs s).hub = s.hub := by
  induction rs with
  | nil => intro s; rfl
  | cons r rest ih =>
    intro s
    simp only [writeReports]
    split
    · rfl
    · rw [ih]; exact agentWrite_hub ..

@[simp] theorem flushReports_hub (s : State) : (flushReports s).hub = s.hub := by
  unfold flushReports
  split <;> simp

@[simp] theorem windowEnd_hub (s : State) : (windowEnd s).hub = s.hub := by
  unfold windowEnd
  split <;> rfl

@[simp] theorem passTime_hub (s : State) : (passTime s).hub = s.hub := by
  simp [passTime]

/-! ### Record and replay -/

@[simp] theorem rrFlush_hub (lid : Nat) (es : List (Nat × Nat)) : ∀ s : State, (rrFlush lid es s).hub = s.hub :=
  fun s => hub_of_ambient (rrFlush_ambient lid es s)

@[simp] theorem rrRetry_hub (s : State) (lid : Nat) : (rrRetry s lid).hub = s.hub :=
  hub_of_ambient (rrRetry_ambient ..)

@[simp] theorem rrAppend_hub (s : State) (lid lo hi : Nat) : (rrAppend s lid lo hi).hub = s.hub :=
  hub_of_ambient (rrAppend_ambient ..)

@[simp] theorem rrRead_hub (s : State) (lid : Nat) : (rrRead s lid).1.hub = s.hub :=
  hub_of_ambient (rrRead_ambient ..)

theorem rrAllow_hub {s s' : State} {lid op pl issuer : Nat} (h : rrAllow s lid op pl issuer = some s') :
    s'.hub = s.hub :=
  hub_of_ambient (rrAllow_ambient h)

/-! ### Futures and traps -/

@[simp] theorem logFut_hub (s : State) (h : BitVec 32) (x : FutLog) : (logFut s h x).hub = s.hub := by
  dsimp only [logFut]
  rw [rrAppend_hub]
  split
  · cases ha : rrAllow s x.lid x.op h.toNat x.who with
    | none => rfl
    | some s' => exact rrAllow_hub ha
  · rfl

@[simp] theorem freeFut_hub (s : State) (i : Nat) : (freeFut s i).hub = s.hub := by
  have hjobs : ∀ (l : Table Job) (a : State), (l.foldl (fun acc j => if j.2.waiting then
      addEvent acc (.backfillJobStart j.2.cluster) else acc) a).hub = a.hub :=
    foldl_keeps State.hub _ fun a j => by split <;> rfl
  dsimp only [freeFut]
  rw [hjobs]; simp

@[simp] theorem freeIfAnon_hub (s : State) (i : Nat) : (freeIfAnon s i).hub = s.hub := by
  dsimp only [freeIfAnon]
  split <;> simp

@[simp] theorem wakeNodes_hub (s : State) (i : Nat) (l : List Waiter) : (wakeNodes s i l).hub = s.hub := by
  unfold wakeNodes
  split <;> simp

@[simp] theorem makeReady_hub (s : State) (t : Nat) : (makeReady s t).hub = s.hub := by
  dsimp only [makeReady]
  split
  · split <;> rfl
  · rfl

@[simp] theorem leaveLists_hub (s : State) (t : Nat) : (leaveLists s t).hub = s.hub :=
  foldl_keeps State.hub (fun (a : State) (e : Nat × Future) => wakeNodes a e.1 e.2.waiters) (fun a _ => wakeNodes_hub a _ _)
    _ _

@[simp] theorem dropTask_hub (s : State) (t : Nat) : (dropTask s t).hub = s.hub := by
  dsimp only [dropTask]
  split
  · split <;> simp [wakePost]
  · rfl

@[simp] theorem answerStrand_hub (s : State) (k : Nat) (v : BitVec 64) (ok : Bool) : (answerStrand s k v ok).hub = s.hub := by
  unfold answerStrand
  split
  · split <;> simp
  · rfl

@[simp] theorem serveSettled_hub (s : State) (w : Waiter) (how : Settle) (v : BitVec 64) :
    (serveSettled s w how v).1.hub = s.hub := by
  unfold serveSettled
  split <;> simp

theorem settleAll_hub (fuel : Nat) : ∀ (s : State) (l : List Settling), (settleAll fuel s l).hub = s.hub := by
  induction fuel with
  | zero => intro s l; rfl
  | succ fuel ih =>
    intro s l
    cases l with
    | nil => rfl
    | cons x rest =>
      obtain ⟨h, how, log⟩ := x
      simp only [settleAll]
      split
      · rw [ih]
        simp only [freeIfAnon_hub, wakeNodes_hub]
        rw [foldl_keeps_fst]
        · split <;> simp
        · exact fun x a => serveSettled_hub ..
      · rw [ih]
        split <;> simp

@[simp] theorem settle_hub (s : State) (h : BitVec 32) (how : Settle) (log : FutLog) : (settle s h how log).hub = s.hub :=
  settleAll_hub ..

@[simp] theorem taskFaulted_hub (s : State) (t code : Nat) : (taskFaulted s t code).hub = s.hub := by
  dsimp only [taskFaulted]
  split <;> simp

@[simp] theorem stopStrand_hub (s : State) (k : Nat) (t : Strand) : (stopStrand s k t).hub = s.hub := by
  dsimp only [stopStrand]
  split <;> simp

@[simp] theorem takeTrap_hub (s : State) (k cause val : Nat) : (takeTrap s k cause val).hub = s.hub := by
  dsimp only [takeTrap]
  split
  · simp
  · split <;> simp

/-! ### Reading sources and writing destinations -/

theorem takeInbox_hub {s s' : State} {p n v : Nat} (h : takeInbox s p n = .ok (s', v)) : s'.hub = s.hub := by
  dsimp only [takeInbox] at h
  split at h
  · cases h
  · cases h; simp [progressCur, wakeSenders]

theorem popInQueue_hub {s s' : State} {p n v : Nat} (h : popInQueue s p n = .ok (s', v)) : s'.hub = s.hub := by
  dsimp only [popInQueue] at h
  split at h
  · cases h; rfl
  · split at h <;> cases h

theorem readStream_hub {s s' : State} {p n width : Nat} {vs : List Nat} (h : readStream s p n width = .ok (s', vs)) :
    s'.hub = s.hub := by
  dsimp only [readStream] at h
  split at h
  · cases h
  · split at h
    · cases h
    · split at h
      · cases h
      · cases h
        exact foldl_keeps State.hub _ emptyWord_hub _ _

theorem readSrc_hub {s s' : State} {i : NameInfo} {x : Src} (h : readSrc s i = .ok (s', x)) : s'.hub = s.hub := by
  dsimp only [readSrc] at h
  split at h
  · obtain ⟨r, hr, he⟩ := map_ok h; cases he; exact takeInbox_hub hr
  · obtain ⟨r, hr, he⟩ := map_ok h; cases he; exact popInQueue_hub hr
  · obtain ⟨r, hr, he⟩ := map_ok h; cases he; exact readStream_hub hr
  · split at h
    · cases h
    · split at h
      · cases h
      · cases h; rfl

theorem readSrcs_hub (is : List NameInfo) : ∀ {s s' : State} {acc xs : List Src}, readSrcs s is acc = .ok (s', xs) →
    s'.hub = s.hub := by
  induction is with
  | nil => intro s s' acc xs h; cases h; rfl
  | cons i r ih =>
    intro s s' acc xs h
    simp only [readSrcs] at h
    split at h
    · exact ih h
    · split at h
      · next hr => exact (ih h).trans (readSrc_hub hr)
      · cases h

theorem pushOutQueue_hub {s s' : State} {p n v : Nat} (h : pushOutQueue s p n v = .ok s') : s'.hub = s.hub := by
  dsimp only [pushOutQueue] at h
  split at h
  · split at h <;> cases h
  · cases h; split <;> rfl

theorem writeStream_hub {s s' : State} {p n width : Nat} {vals : List Nat} (h : writeStream s p n width vals = .ok s') :
    s'.hub = s.hub := by
  dsimp only [writeStream] at h
  split at h
  · cases h
  · split at h
    · cases h
    · cases h
      exact foldl_keeps State.hub _ (fun a w => homeWrite_hub a _) _ _

theorem writeRows_hub {s s' : State} {i : NameInfo} {lanes : List Nat} {vals : Nat → Nat}
    (h : writeRows s i lanes vals = .ok s') : s'.hub = s.hub := by
  dsimp only [writeRows] at h
  split at h
  · cases h
  · split at h <;> cases h; rfl

theorem writeDst_hub {s s' : State} {i : NameInfo} {lanes : List Nat} {vals : Nat → Nat}
    (h : writeDst s i lanes vals = .ok s') : s'.hub = s.hub := by
  unfold writeDst at h
  split at h
  · cases h; rfl
  · exact pushOutQueue_hub h
  · exact writeStream_hub h
  · exact writeRows_hub h

theorem writeOne_hub {s s' : State} {i : NameInfo} {r : LaneRes} (h : writeOne s i r = .ok s') : s'.hub = s.hub := by
  unfold writeOne at h
  split at h
  · cases h
  · obtain ⟨a, ha, he⟩ := bind_ok h
    cases he
    exact (setCur_hub ..).trans (writeDst_hub ha)

/-! ### WAITA -/

theorem endWaita_hub {s s' : State} {di ai : NameInfo} {w : Nat} (h : endWaita s di ai w = .ok s') : s'.hub = s.hub := by
  unfold endWaita at h
  obtain ⟨⟨s1, xs⟩, h1, h⟩ := bind_ok h
  obtain ⟨s2, h2, h⟩ := bind_ok h
  cases h
  exact (writeOne_hub h2).trans (readSrcs_hub _ h1)

theorem waitaWord_hub {s s' : State} {k w reason : Nat} {deadline : Option Nat}
    (h : waitaWord s k deadline reason = some (s', w)) : s'.hub = s.hub := by
  dsimp only [waitaWord] at h
  generalize (if reason = 0 then keptReason (strandAt s k) else reason) = r at h
  split at h
  · split at h
    · split at h
      · cases h; rfl
      · cases h
    · cases h
  · split at h
    · cases h
    · cases h; exact rrAppend_hub ..

@[simp] theorem tryWaita_hub (s : State) (k reason : Nat) : (tryWaita s k reason).hub = s.hub := by
  dsimp only [tryWaita]
  split
  · rfl
  · split
    · split
      · next hw _ _ =>
        have hs := waitaWord_hub hw
        dsimp only
        split
        · rw [wake_hub]; exact hs
        · split
          · next he => rw [wake_hub]; exact (endWaita_hub he).trans hs
          · rw [wake_hub, takeTrap_hub]; exact hs
          · exact hs
      · rfl
    · rfl

@[simp] theorem spurious_hub (s : State) (reason : Nat) (pick : Nat → Strand → Monitor → Bool) :
    (spurious s reason pick).hub = s.hub :=
  foldl_keeps State.hub (fun (a : State) (e : Nat × Strand) => tryWaita a e.1 reason) (fun a _ => tryWaita_hub a _ _) _ _

end Sys2Proof.Machine


/-! ## Every step keeps the hub's invariant (R417, R427, R429, R438) -/

namespace Sys2Proof.Machine

/-- Two hubs agree in what the invariant speaks of. -/
structure SameGuarded (h h' : Hub) : Prop where
  dev      : h'.dev = h.dev
  patch    : h'.patch = h.patch
  hash     : h'.patchHash = h.patchHash
  throttle : h'.throttle = h.throttle

theorem SameGuarded.ok {h h' : Hub} (hs : SameGuarded h h') (ho : HubOk h) : HubOk h' := by
  obtain ⟨hd, hp, hh, ht⟩ := hs
  obtain ⟨cap, dec, pat, thr⟩ := ho
  exact ⟨by rwa [hd], by rwa [hd], by rwa [hp, hh], by rwa [ht]⟩

theorem HubOk.guarded {h h' : Hub} (ho : HubOk h) (hs : SameGuarded h h') : HubOk h' := hs.ok ho

theorem HubOk.of_eq {h h' : Hub} (ho : HubOk h) (he : h' = h) : HubOk h' := he ▸ ho

/-! ### The link, migration and checkpoint operations -/

@[simp] theorem keepOnce_hub (s : State) (e : Instr) : (keepOnce s e).hub = s.hub := by
  unfold keepOnce
  split <;> rfl

@[simp] theorem greyAll_hub (s : State) : (greyAll s).hub = s.hub :=
  foldl_keeps State.hub (fun (a : State) (e : Nat × Launch) => keepOnce a (.greyOut e.1)) (fun a _ => keepOnce_hub a _) _ _

@[simp] theorem requeue_hub (s : State) (l : Launch) (lid : Nat) : (requeue s l lid).hub = s.hub := by
  dsimp only [requeue]
  split
  · rfl
  · exact keepOnce_hub ..

@[simp] theorem requeueAll_hub (s : State) : (requeueAll s).hub = s.hub :=
  foldl_keeps State.hub (fun (a : State) (e : Nat × Saved) => requeue a e.2.launch e.1) (fun a _ => requeue_hub a _ _) _ _

@[simp] theorem restoreImage_hub (s : State) (x : Image) : (restoreImage s x).hub = s.hub := requeueAll_hub _

@[simp] theorem reshelve_hub (old s : State) : (reshelve old s).hub = s.hub := rfl

@[simp] theorem remoteMessage_hub (s : State) (m : BitVec 2 × BitVec 64 × BitVec 64 × BitVec 64 × BitVec 16) :
    (remoteMessage s m).hub = s.hub := by
  dsimp only [remoteMessage]
  split <;> rfl

@[simp] theorem remoteBeat_hub (s : State) (b : BitVec 46 × BitVec 512) : (remoteBeat s b).hub = s.hub := by
  dsimp only [remoteBeat]
  split <;> simp

@[simp] theorem flitAccept_hub (s : State) (f : Nat) : (flitAccept s f).hub = s.hub := by
  unfold flitAccept
  split
  · dsimp only [flitDeliver]
    rw [foldl_keeps State.hub _ remoteBeat_hub, foldl_keeps State.hub _ remoteMessage_hub]
  · rfl

theorem setLink_guarded (s : State) (dir : Nat) (k : Link) : SameGuarded s.hub (setLink s dir k).hub :=
  ⟨rfl, rfl, rfl, rfl⟩

theorem SameGuarded.refl (h : Hub) : SameGuarded h h := ⟨rfl, rfl, rfl, rfl⟩

theorem SameGuarded.trans {a b c : Hub} (h : SameGuarded a b) (h' : SameGuarded b c) : SameGuarded a c :=
  ⟨h'.dev.trans h.dev, h'.patch.trans h.patch, h'.hash.trans h.hash, h'.throttle.trans h.throttle⟩

theorem SameGuarded.of_eq {a b : Hub} (h : b = a) : SameGuarded a b := h ▸ .refl a

theorem sendPackets_guarded (ms : List LinkMsg) : ∀ (kept : List LinkMsg) (s : State),
    SameGuarded s.hub (sendPackets ms kept s).hub := by
  induction ms with
  | nil => intro kept s; exact .refl _
  | cons m rest ih =>
    intro kept s
    simp only [sendPackets]
    split
    · exact ih _ _
    · split
      · exact ih _ _
      · exact (setLink_guarded ..).trans (ih _ _)

theorem pumpLinks_guarded (s : State) : SameGuarded s.hub (pumpLinks s).hub := by
  unfold pumpLinks
  split
  · exact .refl _
  · exact sendPackets_guarded ..

@[simp] theorem dropPage_hub (s : State) (asid page : Nat) : (dropPage s asid page).hub = s.hub := rfl

theorem unholdPage_guarded (s : State) (asid page : Nat) : SameGuarded s.hub (unholdPage s asid page).hub := by
  dsimp only [unholdPage, wakePage]
  rw [wakeWhere_hub]
  exact ⟨rfl, rfl, rfl, rfl⟩

@[simp] theorem wakeMonitors_hub (s : State) (asid page : Nat) : (wakeMonitors s asid page).hub = s.hub := spurious_hub ..

@[simp] theorem movePagePart_hub (frame : Nat) (s : State) (x : PagePart) : (movePagePart frame s x).hub = s.hub :=
  storePhys_hub ..

@[simp] theorem dropLines_hub (s : State) (frame : Nat) : (dropLines s frame).hub = s.hub :=
  foldl_keeps State.hub (fun (a : State) (c : Nat × Cluster) => leaveMiddle a c.1 fun line => line / 1024 == frame)
    (fun a _ => leaveMiddle_hub a _ _) _ _

theorem migrateNow_guarded (s : State) (asid page frame : Nat) (ps : List PagePart) :
    SameGuarded s.hub (migrateNow s asid page frame ps).hub := by
  dsimp only [migrateNow]
  refine .trans ?_ (unholdPage_guarded ..)
  rw [dropPage_hub]
  have h : ∀ a : State, (ps.foldl (movePagePart frame) a).hub = a.hub := foldl_keeps State.hub _ (movePagePart_hub frame) _
  have hs := (h (wakeMonitors (dropLines s frame) asid page)).trans ((wakeMonitors_hub ..).trans (dropLines_hub ..))
  exact (SameGuarded.of_eq hs).trans ⟨rfl, rfl, rfl, rfl⟩

@[simp] theorem copyPart_hub (s : State) (old new : Nat) : (copyPart s old new).hub = s.hub := rfl

@[simp] theorem fillFrame_hub (ps : List (Nat × Nat)) (s : State) (frame : Nat) : (fillFrame ps s frame).hub = s.hub :=
  foldl_keeps State.hub (fun (a : State) (x : Nat × Nat) => copyPart a x.2 (65536 * frame + 4096 * x.1))
    (fun _ _ => rfl) _ _

@[simp] theorem replicate_hub (s : State) (asid page : Nat) (frames : Table Nat) :
    (replicate s asid page frames).hub = s.hub := by
  dsimp only [replicate]
  split
  · rfl
  · rw [addEvent_hub, dropPage_hub, wakeMonitors_hub]
    exact foldl_keeps State.hub _ (fillFrame_hub _) _ _

@[simp] theorem applyDecision_hub (s : State) (d : Decision) : (applyDecision s d).hub = s.hub := by
  cases d <;> simp [applyDecision]

/-! ### Writes to the registers that the invariant speaks of -/

/-- A register outside the pool decoder and PCAP. -/
theorem setDev_ok {s : State} {off : Nat} {v : BitVec 64} (h : HubOk s.hub) (hcap : off ≠ 0x4010)
    (hdec : ∀ j, j < 64 → off ≠ 0x3000 + 8 * j) : HubOk (setDev s off v).hub := by
  obtain ⟨cap, dec, pat, thr⟩ := h
  refine ⟨?_, fun j hj => ?_, pat, thr⟩
  · simpa only [setDev, tgetD_tset_ne _ _ _ hcap.symm] using cap
  · simpa only [setDev, tgetD_tset_ne _ _ _ (hdec j hj).symm] using dec j hj

theorem word_toNat (n : Nat) : (word n).toNat = n % 2 ^ 64 := by
  rw [word, BitVec.toNat_ofNat]

theorem capOf_range (v : Nat) : 1000 ≤ capOf v ∧ capOf v ≤ 7500 := by
  unfold capOf
  constructor
  · exact Nat.le_max_left ..
  · exact Nat.max_le.mpr ⟨by decide, Nat.min_le_left ..⟩

theorem pcapWrite_ok {s : State} (v : BitVec 64) (h : HubOk s.hub) : HubOk (setDev s 0x4010 (word (capOf v.toNat))).hub := by
  obtain ⟨cap, dec, pat, thr⟩ := h
  obtain ⟨lo, hi⟩ := capOf_range v.toNat
  refine ⟨?_, fun j hj => ?_, pat, thr⟩
  · have hmod : capOf v.toNat % 2 ^ 64 = capOf v.toNat := Nat.mod_eq_of_lt (by omega)
    simpa only [setDev, tgetD_tset_self, word_toNat, hmod] using ⟨lo, hi⟩
  · have hne : 0x3000 + 8 * j ≠ 0x4010 := by omega
    simpa only [setDev, tgetD_tset_ne _ _ _ hne] using dec j hj

theorem pooldecWrite_ok {s : State} {j : Nat} {v : BitVec 64} (h : HubOk s.hub) (hj : j < 64)
    (hv : poolDecReserved v.toNat = false) :
    HubOk (setDev s (0x3000 + 8 * j) v).hub := by
  obtain ⟨cap, dec, pat, thr⟩ := h
  refine ⟨?_, fun k hk => ?_, pat, thr⟩
  · have hne : 0x4010 ≠ 0x3000 + 8 * j := by omega
    simpa only [setDev, tgetD_tset_ne _ _ _ hne] using cap
  · by_cases hkj : k = j
    · subst hkj; simp [setDev, poolDecOk, hv]
    · have hne : 0x3000 + 8 * k ≠ 0x3000 + 8 * j := by omega
      simpa only [setDev, tgetD_tset_ne _ _ _ hne] using dec k hk

/-! ### The hub's own events -/

theorem devMask_plain {off v x : Nat} (h : devMask off v = some x) :
    off ≠ 0x4010 ∧ ∀ j, j < 64 → off ≠ 0x3000 + 8 * j := by
  refine ⟨?_, fun j hj => ?_⟩
  · rintro rfl
    cases h
  · rintro rfl
    rw [devMask, if_neg (by omega), if_neg (by omega), if_neg (by simp; omega), if_neg (by simp; omega),
      if_neg (by omega)] at h
    cases h

theorem execDeviceRegisterWrite_ok {s t : State} {off : Nat} {v : BitVec 64} (h : HubOk s.hub)
    (he : execDeviceRegisterWrite off v s = .next t) : HubOk t.hub := by
  unfold execDeviceRegisterWrite at he
  split at he
  · next x hx =>
    obtain ⟨hcap, hdec⟩ := devMask_plain hx
    have hset := setDev_ok (v := word x) h hcap hdec
    cases he
    split
    · exact hset.of_eq (flushReports_hub _)
    · exact hset
  · cases he; exact h

theorem attestServe_guarded (s : State) (req : Nat) : SameGuarded s.hub (attestServe s req).hub := by
  dsimp only [attestServe]
  split
  · exact ⟨rfl, rfl, rfl, rfl⟩
  · split
    · exact .of_eq (agentPut_hub ..)
    · exact .of_eq (by simp [attestReport, attestFlag])

theorem ckpt_free (j : Nat) (hj : j < 64) : (0x5200 : Nat) ≠ 0x3000 + 8 * j := by omega

theorem ckptStart_ok {s : State} (v : BitVec 64) (h : HubOk s.hub) : HubOk (ckptStart v s).hub := by
  dsimp only [ckptStart]
  split
  · exact setDev_ok h (by decide) ckpt_free
  · exact (setDev_ok h (by decide) ckpt_free).of_eq (greyAll_hub _)

theorem ckptEnd_ok {s : State} (r : Nat) (h : HubOk s.hub) : HubOk (ckptEnd s r).hub :=
  setDev_ok h (by decide) ckpt_free

theorem ckptAct_ok {s : State} (r : Nat) (h : HubOk s.hub) : HubOk (ckptAct s r).hub := by
  dsimp only [ckptAct]
  split
  · split
    · exact ckptEnd_ok _ (h.of_eq (restoreImage_hub ..))
    · exact ckptEnd_ok _ h
    · exact ckptEnd_ok _ h
  · split
    · split
      · exact ckptEnd_ok _ (h.guarded ⟨rfl, rfl, rfl, rfl⟩)
      · exact ckptEnd_ok _ h
    · exact ckptEnd_ok _ h

theorem installPatch_ok {s : State} (image : List (BitVec 64)) (fw : BitVec 32) (h : HubOk s.hub) :
    HubOk (installPatch image fw s).hub := by
  unfold installPatch
  split
  · next t ht => exact ⟨h.cap, h.decoders, ⟨image, ht, rfl⟩, h.throttle⟩
  · exact h

/-- The registers of the hub at reset that the invariant speaks of. -/
theorem reset_ok : HubOk Hub.reset :=
  ⟨by decide, by decide, ⟨_, patchTable_empty, patchHashOf_empty.symm⟩, by decide⟩

theorem resetFrom_ok (s : State) (m : Table (BitVec 256)) (bad : Bool) : HubOk (resetFrom s m bad).hub :=
  reset_ok.guarded ⟨rfl, rfl, rfl, rfl⟩

theorem bootPatch_ok {s : State} (x : FlashImage) (h : HubOk s.hub) : HubOk (bootPatch x s).hub := by
  have h1 : HubOk { s.hub with firmware := x.fw } := h.guarded ⟨rfl, rfl, rfl, rfl⟩
  dsimp only [bootPatch]
  split
  · exact h1
  · exact installPatch_ok _ _ h1

theorem execPowerOnReset_ok {s t : State} {o : ResetOrigin} (he : execPowerOnReset o s = .next t) : HubOk t.hub := by
  dsimp only [execPowerOnReset] at he
  cases he
  split
  · exact resetFrom_ok ..
  · exact bootPatch_ok _ (resetFrom_ok ..)

theorem execThermalThrottle_ok {s t : State} {w c : Nat} (h : HubOk s.hub) (he : execThermalThrottle w c s = .next t) :
    HubOk t.hub := by
  obtain ⟨cap, dec, pat, thr⟩ := h
  dsimp only [execThermalThrottle] at he
  cases he
  have hstep : ∀ n, n < 16 → HubOk { s.hub with throttle := n } := fun n hn => ⟨cap, dec, pat, hn⟩
  have hn : (if devReg s 0x4010 < w || 95 ≤ c then Nat.min 15 (s.hub.throttle + 1) else s.hub.throttle - 1) < 16 := by
    split
    · exact Nat.lt_of_le_of_lt (Nat.min_le_left ..) (by decide)
    · omega
  split
  · exact (hstep _ hn).of_eq (keepOnce_hub ..)
  · exact hstep _ hn

theorem execThermalShutdown_ok {s t : State} (h : HubOk s.hub) (he : execThermalShutdown s = .next t) : HubOk t.hub := by
  dsimp only [execThermalShutdown] at he
  split at he
  · cases he
    exact h.of_eq ((keepOnce_hub ..).trans (greyAll_hub _))
  · cases he
    split <;> exact h.guarded ⟨rfl, rfl, rfl, rfl⟩

theorem execLinkFlitReceive_ok {s t : State} {dir : Nat} {f : BitVec 2048} (h : HubOk s.hub)
    (he : execLinkFlitReceive dir f s = .next t) : HubOk t.hub := by
  dsimp only [execLinkFlitReceive] at he
  split at he
  · cases he
    refine (pumpLinks_guarded _).ok ?_
    split
    · exact ((setLink_guarded ..).ok h).of_eq (flitAccept_hub ..)
    · exact (setLink_guarded ..).ok h
  · cases he
    exact (setLink_guarded ..).ok h

theorem execVaultRowRetire_ok {s t : State} {v r : Nat} (h : HubOk s.hub) (he : execVaultRowRetire v r s = .next t) :
    HubOk t.hub := by
  dsimp only [execVaultRowRetire] at he
  repeat' split at he
  all_goals cases he
  · exact h
  · exact h
  · exact h.guarded ⟨rfl, rfl, rfl, rfl⟩
  · exact h.guarded ⟨rfl, rfl, rfl, rfl⟩

theorem execPageMigration_ok {s t : State} {asid page frame : Nat} (h : HubOk s.hub)
    (he : execPageMigration asid page frame s = .next t) : HubOk t.hub := by
  dsimp only [execPageMigration] at he
  repeat' split at he
  all_goals first
    | exact h.of_eq (done_hub he)
    | cases he
  · exact (unholdPage_guarded ..).ok h
  · exact h
  · exact (migrateNow_guarded ..).ok h
  · exact h
  · exact h
  · exact h

theorem execReplicaRemovalDone_ok {s t : State} {asid page : Nat} (h : HubOk s.hub)
    (he : execReplicaRemovalDone asid page s = .next t) : HubOk t.hub := by
  dsimp only [execReplicaRemovalDone] at he
  repeat' split at he
  · exact h.of_eq (done_hub he)
  · cases he; exact (unholdPage_guarded ..).ok h
  · cases he; exact h

theorem execMigrationWindow_ok {s t : State} (h : HubOk s.hub) (he : execMigrationWindow s = .next t) : HubOk t.hub := by
  dsimp only [execMigrationWindow] at he
  split at he
  · cases he; exact h.guarded ⟨rfl, rfl, rfl, rfl⟩
  · exact h.of_eq (done_hub he)

/-! ### Inputs -/

theorem hostRead_ok {s : State} {off : Nat} (h : HubOk s.hub) : HubOk (hostRead off s).hub := by
  dsimp only [hostRead]
  split
  · exact h
  · refine h.of_eq ?_
    dsimp only [deviceRead]
    split
    · dsimp only [futNewUnowned]
      split <;> rfl
    · rfl

theorem writeCoreTable_ok {s : State} {ctx addr : Nat} (h : HubOk s.hub) (hc : ctx < 16) :
    HubOk (writeCoreTable ctx addr s).hub := by
  dsimp only [writeCoreTable]
  refine setDev_ok (h.of_eq ?_) (by omega) (by omega)
  exact foldl_keeps State.hub
    (fun (a : State) (l : Nat) => agentWrite a hubWriter (addr / 4 * 4 + 4 * l) 4 (defaultEntry l))
    (fun a _ => agentWrite_hub a _ _ _ _) _ _

@[simp] theorem requeueReady_hub (old s : State) : (requeueReady old s).hub = s.hub :=
  foldl_keeps State.hub (fun (acc : State) (e : Nat × Saved) =>
    if waitsForCore old e.1 e.2 && (faultyCores acc e.2.launch).isEmpty then requeue acc e.2.launch e.1 else acc)
    (fun a e => by split <;> simp) _ _

@[simp] theorem retireCore_hub (ctx l : Nat) (s : State) : (retireCore ctx l s).hub = s.hub := by
  dsimp only [retireCore]
  repeat' split
  all_goals simp

theorem takeDecisions_guarded (ds : List Decision) (s : State) : SameGuarded s.hub (takeDecisions ds s).hub := by
  unfold takeDecisions
  rw [foldl_keeps State.hub _ applyDecision_hub]
  exact ⟨rfl, rfl, rfl, rfl⟩

theorem declareFaulty_guarded (s : State) (u : FaultUnit) : SameGuarded s.hub (declareFaulty s u).hub := by
  dsimp only [declareFaulty]
  split
  · exact ⟨rfl, rfl, rfl, rfl⟩
  · exact ⟨rfl, rfl, rfl, rfl⟩
  · exact ⟨rfl, rfl, rfl, rfl⟩
  · split
    · rw [keepOnce_hub]; exact ⟨rfl, rfl, rfl, rfl⟩
    · exact ⟨rfl, rfl, rfl, rfl⟩
  · exact ⟨rfl, rfl, rfl, rfl⟩

theorem countError_guarded {s0 s : State} (hs : s.hub = s0.hub) (u : FaultUnit) (b : Bool) :
    SameGuarded s0.hub (countError u b s).hub := by
  rw [← hs]
  dsimp only [countError]
  generalize (if b then errorThreshold s + 1 else 1) = n
  split
  · refine SameGuarded.trans ?_ (declareFaulty_guarded _ u)
    exact ⟨rfl, rfl, rfl, rfl⟩
  · exact ⟨rfl, rfl, rfl, rfl⟩

theorem badBlock_guarded (b kind : Nat) (x : BitVec 2048) (s : State) : SameGuarded s.hub (badBlock b kind x s).hub := by
  unfold badBlock
  split
  · exact .of_eq (storePhys_hub ..)
  · exact countError_guarded (by rfl) ..

/-- An input changes none of the registers that the invariant speaks of, but for the core-table register of a context. -/
theorem applyInput_ok {s : State} (i : Input) (h : HubOk s.hub) : HubOk (applyInput i s).hub := by
  cases i with
  | hostWrite off v =>
    refine h.of_eq ?_
    dsimp only [applyInput, hostWrite]
    split <;> rfl
  | hostRead off => exact hostRead_ok h
  | message off v | answer off v =>
    dsimp only [applyInput, bar2Put]
    split
    · exact h.guarded ⟨rfl, rfl, rfl, rfl⟩
    · exact h
  | messageRead off | serve off =>
    refine h.of_eq ?_
    dsimp only [applyInput, bar2Read, bar2Serve]
    split <;> rfl
  | hubCore i c =>
    dsimp only [applyInput]
    split
    · exact h.guarded ⟨rfl, rfl, rfl, rfl⟩
    · exact h
  | extend reg d =>
    dsimp only [applyInput, extendReg]
    split
    · exact h.guarded ⟨rfl, rfl, rfl, rfl⟩
    · exact h
  | coreTable ctx addr =>
    dsimp only [applyInput]
    split
    · next hc => exact writeCoreTable_ok h hc
    · exact h
  | forward dest dir => exact h.guarded ⟨rfl, rfl, rfl, rfl⟩
  | flash b x => cases b <;> exact h.guarded ⟨rfl, rfl, rfl, rfl⟩
  | error u b => exact h.guarded (countError_guarded (by rfl) ..)
  | badWord w => exact h.guarded (countError_guarded (by rfl) ..)
  | badBlock b k x => exact h.guarded (badBlock_guarded ..)
  | badRow p b r => exact h.guarded (countError_guarded (by rfl) ..)
  | badSlot p k => exact h.guarded (countError_guarded (by rfl) ..)
  | setBreak | clearBreak | attach | detach => exact h
  | override on => exact h.guarded ⟨rfl, rfl, rfl, rfl⟩
  | decide ds => exact h.guarded (takeDecisions_guarded ..)
  | hubStore pa n v => exact h.of_eq (agentWrite_hub ..)
  | retireCore ctx l => exact h.of_eq (retireCore_hub ..)

theorem takeInput_ok {s : State} (i : Input) (rest : List Input) (h : HubOk s.hub) : HubOk (takeInput i rest s).hub := by
  dsimp only [takeInput]
  split
  · exact h
  · exact applyInput_ok i h

end Sys2Proof.Machine


/-! ## An instruction word is none of the hub's events -/

namespace Sys2Proof.Machine

open Claims in
/-- Every row of the opcode table builds an instruction. -/
theorem opRows_keepsHub : ∀ r ∈ opRows, ∀ w, changesHub (r.build w) = false := by
  simp only [opRows, opRows0, opRows1, opRows2, opRows3, opRows4, opRows5, List.forall_mem_append, List.forall_mem_cons,
    List.not_mem_nil, false_implies, implies_true, and_true]
  repeat' apply And.intro
  all_goals exact fun _ => rfl

open Claims in
theorem decodeWord_keepsHub {w : BitVec 32} {i : Instr} (h : decodeWord w = .ok i) : changesHub i = false := by
  unfold decodeWord at h
  split at h
  · cases h; rfl
  · split at h
    · next r hr => cases h; exact opRows_keepsHub r (List.mem_of_find?_eq_some hr) w
    · cases h

end Sys2Proof.Machine


/-! ## The pair of a LIMM and its word, and the whole step -/

namespace Sys2Proof.Machine

/-- An instruction word by itself runs as `exec` says, or is no word that may stand behind a LIMM or in a substitute. -/
theorem runWord_cases (w : Instr) (s : State) :
    runWord w s = exec w s ∨ runWord w s = finish s (illegal s) := by
  cases w with
  | limm | pooldecWrite | pcapWrite | attreq | attestationDone | ckptSramImage | ckptWholeDeviceImage
  | ckptRestore | ckptDone | deviceRegisterWrite | migrationWindow | pageMigration | vaultRowRetire | linkFlitReceive
  | patchTableLoad | powerOnReset | thermalThrottle | thermalShutdown | replicaRemovalDone
  | unassignedOpcode | patchSubstitute | accessReply | strandRejoin | repackRowWrite | repackUnlock
  | monitorNotice | waitaTimeout | barrierArrival | barrierRelease | takeResend | reservationGrant | rsvholdTimeout
  | mma | mmas | mmaq | mmat | accz | accld | accst | accadd | vtmap | vtbin | vtred | vtsmax | vtnorm | vtcvt
  | vthaar | vtihaar | vtconf | vtkvLoad | vtkvStore | mmaqSlotTake | vtkvEntryWake | engineFaultTrap | copy2
  | copy3 | slab | gather | scatter | bcast | reduce | table | tableSlotWrite | copyChunk | copyComplete
  | inboxDelivery | mailboxDelivery | queueTransfer | roamPacketArrival | guestAdmit | taskDispatch
  | footprintFetchDone | recordUrgent | taskRetire | groupMemberUpdate | confExitJobPost | backfillJobStart
  | backfillLayerDone | backfillPlacementTimeout | lqpush | launchAdmit | launchStartBroadcast | launchEnd
  | watchdogExpiry | greyOut | restore | faultQueuePost | freply | fqheadWrite | lrheadWrite | futnew | futfree
  | kydbHalt | kydbResume | fetchLineArrival | iflushComplete | tlbinvComplete | liftTheFreeze | endLaunchAsHung
  | reservedCommand =>
    exact .inr rfl
  | _ => exact .inl rfl

open Claims in
/-- A LIMM and the hub's own events are no such words. -/
theorem runWord_hubEvent (w : Instr) (s : State) (h : changesHub w = true ∨ ∃ x v, w = .limm x v) :
    runWord w s = finish s (illegal s) := by
  rcases h with h | ⟨x, v, rfl⟩
  · cases w with
    | pooldecWrite | pcapWrite | attreq | attestationDone | ckptSramImage | ckptWholeDeviceImage
    | ckptRestore | ckptDone | deviceRegisterWrite | migrationWindow | pageMigration | vaultRowRetire | linkFlitReceive
    | patchTableLoad | powerOnReset | thermalThrottle | thermalShutdown | replicaRemovalDone => rfl
    | _ => exact Bool.noConfusion h
  · rfl

open Claims in
theorem runWord_keepsHub (w : Instr) (s : State) : KeepsHub s (runWord w s) := by
  by_cases hc : changesHub w = true ∨ ∃ x v, w = .limm x v
  · rw [runWord_hubEvent w s hc]
    exact finish_keepsHub ..
  · rw [not_or, Bool.not_eq_true] at hc
    rcases runWord_cases w s with he | he
    · rw [he]
      exact exec_keepsHub_of_ne_limm s hc.1 fun x v hw => hc.2 ⟨x, v, hw⟩
    · rw [he]
      exact finish_keepsHub ..

theorem runPair_keepsHub (x : BitVec 25) (w : BitVec 32) (len : Nat) (s : State) : KeepsHub s (runPair x w len s) := by
  dsimp only [runPair]
  split
  · split
    · exact (runWord_keepsHub _ _).of_hub rfl
    · exact (finish_keepsHub _ _).of_hub rfl
  · exact (finish_keepsHub _ _).of_hub rfl

open Claims in
/-- Every instruction and event other than the hub's own keeps the hub's registers. -/
theorem exec_keepsHub {i : Instr} (s : State) (hi : changesHub i = false) : KeepsHub s (exec i s) := by
  by_cases hl : ∃ x w, i = .limm x w
  · obtain ⟨x, w, rfl⟩ := hl
    rw [exec_limm]
    exact runPair_keepsHub ..
  · exact exec_keepsHub_of_ne_limm s hi fun x w he => hl ⟨x, w, he⟩

open Claims in
theorem execPooldecWrite_ok {s t : State} {j : Nat} {v : BitVec 64} (h : HubOk s.hub)
    (he : execPooldecWrite j v s = .next t) : HubOk t.hub := by
  dsimp only [execPooldecWrite] at he
  split at he
  · cases he; exact h
  · next hn =>
    simp only [Bool.or_eq_true, decide_eq_true_eq, not_or, Bool.not_eq_true] at hn
    cases he
    exact pooldecWrite_ok h (by omega) hn.1

open Claims in
theorem attestServe_ok {s : State} (req : Nat) (h : HubOk s.hub) : HubOk (attestServe s req).hub :=
  h.guarded (attestServe_guarded s req)

open Claims in
theorem execAttestationDone_ok {s t : State} (h : HubOk s.hub) (he : execAttestationDone s = .next t) :
    HubOk t.hub := by
  unfold execAttestationDone at he
  split at he
  · cases he; exact h
  · next r rest _ =>
    have hq : HubOk ({ s with hub := { s.hub with attQueue := rest } } : State).hub := h.guarded ⟨rfl, rfl, rfl, rfl⟩
    rw [← Host.Outcome.next.inj he]
    exact attestServe_ok r.toNat hq

open Claims in
theorem execCkptDone_ok {s t : State} {r : Nat} (h : HubOk s.hub) (he : execCkptDone r s = .next t) :
    HubOk t.hub := by
  unfold execCkptDone at he
  split at he
  · cases he; exact h
  · split at he
    · cases he; exact h.of_eq ((keepOnce_hub ..).trans (greyAll_hub _))
    · cases he; exact (ckptAct_ok r h).of_eq (keepOnce_hub ..)

open Claims in
/-- Every instruction and event keeps the invariant. -/
theorem exec_ok {s t : State} (i : Instr) (h : HubOk s.hub) (he : exec i s = .next t) : HubOk t.hub := by
  cases hc : changesHub i with
  | false => exact h.of_eq ((exec_keepsHub s hc).hub t he)
  | true =>
    cases i with
    | deviceRegisterWrite off v => rw [exec_deviceRegisterWrite] at he; exact execDeviceRegisterWrite_ok h he
    | pooldecWrite j v => rw [exec_pooldecWrite] at he; exact execPooldecWrite_ok h he
    | pcapWrite v => rw [exec_pcapWrite] at he; cases he; exact pcapWrite_ok v h
    | attreq v => rw [exec_attreq] at he; cases he; exact h.guarded ⟨rfl, rfl, rfl, rfl⟩
    | attestationDone => rw [exec_attestationDone] at he; exact execAttestationDone_ok h he
    | ckptSramImage v => rw [exec_ckptSramImage] at he; cases he; exact ckptStart_ok v h
    | ckptWholeDeviceImage v => rw [exec_ckptWholeDeviceImage] at he; cases he; exact ckptStart_ok v h
    | ckptRestore v => rw [exec_ckptRestore] at he; cases he; exact ckptStart_ok v h
    | ckptDone r => rw [exec_ckptDone] at he; exact execCkptDone_ok h he
    | patchTableLoad image => rw [exec_patchTableLoad] at he; cases he; exact installPatch_ok _ _ h
    | vaultRowRetire v r => rw [exec_vaultRowRetire] at he; exact execVaultRowRetire_ok h he
    | linkFlitReceive dir f => rw [exec_linkFlitReceive] at he; exact execLinkFlitReceive_ok h he
    | powerOnReset o => rw [exec_powerOnReset] at he; exact execPowerOnReset_ok he
    | thermalThrottle w c => rw [exec_thermalThrottle] at he; exact execThermalThrottle_ok h he
    | thermalShutdown => rw [exec_thermalShutdown] at he; exact execThermalShutdown_ok h he
    | pageMigration a p f => rw [exec_pageMigration] at he; exact execPageMigration_ok h he
    | migrationWindow => rw [exec_migrationWindow] at he; exact execMigrationWindow_ok h he
    | replicaRemovalDone a p => rw [exec_replicaRemovalDone] at he; exact execReplicaRemovalDone_ok h he
    | _ => exact Bool.noConfusion hc

theorem keepPacket_hub {s t : State} {two : Bool} {o : Out} (h : keepPacket s two o = .next t) :
    ∃ u, o = .next u ∧ t.hub = u.hub := by
  unfold keepPacket at h
  split at h
  · next u =>
    dsimp only at h
    split at h <;> cases h <;> exact ⟨_, rfl, rfl⟩
  · next hx => exact absurd h (hx t)

theorem runFetched_ok {s t : State} {w : BitVec 32} {w2 : Option (BitVec 32)} (h : HubOk s.hub)
    (he : runFetched s w w2 = .next t) : HubOk t.hub := by
  dsimp only [runFetched] at he
  split at he
  · exact exec_ok (s := { s with ir := latchOf w w2 }) _ h he
  · exact (show HubOk ({ s with ir := latchOf w w2 } : State).hub from h).of_eq (finish_hub he)

theorem issueTurn_ok {s t : State} {second : Bool} (h : HubOk s.hub) (he : issueTurn second s = .next t) : HubOk t.hub := by
  dsimp only [issueTurn] at he
  split at he
  · exact h.of_eq (finish_hub he)
  · split at he
    · exact h.of_eq (finish_hub he)
    · next s' w hf =>
      have hs := h.of_eq (fetchWord_hub hf)
      split at he
      · next e _ => exact exec_ok (s := { s' with ir := ⟨w, 4⟩ }) _ hs he
      · split at he
        · exact hs.of_eq (finish_hub he)
        · next hf2 =>
          obtain ⟨u, hu, hhub⟩ := keepPacket_hub he
          exact (runFetched_ok (hs.of_eq (fetchSecond_hub hf2)) hu).of_eq hhub

theorem issue_ok {s t : State} {k : Nat} (h : HubOk s.hub) (he : issue s k = .next t) : HubOk t.hub := by
  unfold issue at he
  split at he
  · unfold haltAtBreak at he
    refine exec_ok _ ?_ he
    exact h
  · exact issueTurn_ok (h.of_eq (beginIssue_hub s k)) he

theorem passCycle_ok {s t : State} (h : HubOk s.hub) (he : passCycle s = .next t) : HubOk t.hub := by
  cases he
  exact (h.of_eq (passTime_hub s)).guarded (pumpLinks_guarded _)

theorem happen_ok {s t : State} {e : Instr} {rest : List Instr} (h : HubOk s.hub) (he : happen s e rest = .next t) :
    HubOk t.hub := exec_ok (s := { s with agenda := rest }) e h he

theorem hubStep_ok {s t : State} (h : HubOk s.hub) (he : hubStep s = .next t) : HubOk t.hub := by
  unfold hubStep at he
  split at he
  · exact passCycle_ok h he
  · next e rest _ =>
    by_cases hc : (if s.hub.recovery then recoveryEvent e else hubEvent e) = true
    · rw [if_pos hc] at he
      exact happen_ok h he
    · rw [if_neg hc] at he
      cases he; exact h

theorem workStep_ok {s t : State} (h : HubOk s.hub) (he : workStep s = .next t) : HubOk t.hub := by
  unfold workStep at he
  split at he
  · exact happen_ok h he
  · exact passCycle_ok h he
  · exact issue_ok h he
  · split at he
    · exact happen_ok h he
    · exact passCycle_ok h he
  · split at he
    · exact happen_ok h he
    · exact issue_ok h he

end Sys2Proof.Machine

section

open Sys2Proof Sys2Proof.Machine Sys2Proof.Claims

/-- Settles O58: an input, a hub step and a working step each keep the registers in their ranges. -/
theorem everyStepKeepsTheHubInvariant : Obligations.EveryStepKeepsTheHubInvariant := by
  intro s t h he
  have h1 : HubOk ({ s with tick := s.tick + 1 } : State).hub := h
  dsimp only [step] at he
  split at he
  · split at he
    · cases he; exact takeInput_ok _ _ h1
    · split at he
      · exact hubStep_ok h1 he
      · exact workStep_ok h1 he
  · split at he
    · exact hubStep_ok h1 he
    · exact workStep_ok h1 he

/-- Settles O59: the registers read 0 but for PCAP, and the table is empty. -/
theorem resetMeetsTheHubInvariant : Obligations.ResetMeetsTheHubInvariant := reset_ok

end


/-! ## A store to a device register posts its event (R162, R163, R316, R427) -/

namespace Sys2Proof.Claims

open Sys2Proof.Machine

theorem isDeviceWrite_deviceEvent (off v : Nat) : isDeviceWrite (deviceEvent off v) = true := by
  simp only [deviceEvent, apply_ite isDeviceWrite]
  simp only [isDeviceWrite, ite_self]

theorem filter_deviceWrite_of_none {ev : List Instr} (h : ev.all (fun e => !(isDeviceWrite e)) = true) :
    ev.filter isDeviceWrite = [] := by
  simpa using h

/-- An access to the one device register whose event the instruction has posted leaves the strand waiting for it. -/
theorem accessEnd_device {s u : State} {ev : List Instr} {e : Instr} (hu : u.agenda = s.agenda ++ ev ++ [e])
    (hev : ev.all (fun e => !(isDeviceWrite e)) = true) (he : isDeviceWrite e = true) :
    accessEnd s u true = parkStrand (addEvent (advance { u with agenda := s.agenda ++ ev ++ [e] })
      (.accessReply u.cur)) s.cur (.device [e]) := by
  have hdrop : u.agenda.drop s.agenda.length = ev ++ [e] := by rw [hu, List.append_assoc, List.drop_left]
  have hall : ev.filter (fun e => !(isDeviceWrite e)) = ev := by
    simpa [List.filter_eq_self] using hev
  simp [accessEnd, hdrop, filter_deviceWrite_of_none hev, he, hall]

theorem strandAt_parkStrand_self (s : State) (k : Nat) (w : Park) :
    (strandAt (parkStrand s k w) k).run = .parked w := by
  simp [parkStrand]

end Sys2Proof.Claims

section

open Sys2Proof Sys2Proof.Machine Sys2Proof.Claims

/-- Settles O60: every operation's frame keeps the hub, no word decodes to a hub event, and a device store ends with
its event posted. -/
theorem onlyHubEventsChangeTheHub : Obligations.OnlyHubEventsChangeTheHub := by
  refine ⟨fun i s t hi he => (exec_keepsHub s hi).hub t he, fun w i => decodeWord_keepsHub, ?_⟩
  intro s s1 s2 s3 g x d a di is xs ea off y vals fl ev ha hlane htgt hown hguard hover hfit hpre hag hev
  have hwrite : writeTouches (plainWrite x.size) vals s3 [y] = .ok (addEvent s3 (deviceEvent off (vals 0))) := by
    simp only [writeTouches, plainWrite, writeTouch, htgt, hlane, bind, Except.bind]
  have hdone := storesWriteWhatTheyFit s g x d a di is [0] s1 s2 s3 _ xs [(0, ea)] [y] vals fl ha hguard hover hfit
    (by simpa using hpre) hwrite
  have hfar : anyFar [(0, ea)] = true := by simp [anyFar, hown]
  refine ⟨_, hdone, rfl, ?_, ?_⟩
  · rw [hfar, accessEnd_device (by simp [hag]) hev (isDeviceWrite_deviceEvent off (vals 0))]
    simp [keepHub, parkStrand, advance]
  · rw [hfar, accessEnd_device (by simp [hag]) hev (isDeviceWrite_deviceEvent off (vals 0))]
    exact strandAt_parkStrand_self ..

end

/-! ## The bits of a field that is replaced, and PMOV.w (R22) -/

namespace Sys2Proof.Machine

theorem bitN_eq_testBit (x i : Nat) : bitN x i = x.testBit i := by
  rw [bitN, Nat.testBit_eq_decide_div_mod_eq, beq_eq_decide]

theorem setFieldN_eq (x lo len v : Nat) :
    setFieldN x lo len v = 2 ^ lo * (2 ^ len * (x / 2 ^ (lo + len)) + v % 2 ^ len) + x % 2 ^ lo := by
  rw [setFieldN, Nat.pow_add]
  ring

/-- The bits of a field are those of its value, the others stay. -/
theorem bitN_setFieldN (x lo len v i : Nat) :
    bitN (setFieldN x lo len v) i = if lo ≤ i ∧ i < lo + len then bitN v (i - lo) else bitN x i := by
  have hlow : x % 2 ^ lo < 2 ^ lo := Nat.mod_lt _ (Nat.two_pow_pos lo)
  have hmid : v % 2 ^ len < 2 ^ len := Nat.mod_lt _ (Nat.two_pow_pos len)
  simp only [bitN_eq_testBit]
  rw [setFieldN_eq, Nat.testBit_two_pow_mul_add _ hlow]
  by_cases h1 : i < lo
  · rw [if_pos h1, if_neg (by omega), Nat.testBit_mod_two_pow, decide_eq_true h1, Bool.true_and]
  · rw [if_neg h1, Nat.testBit_two_pow_mul_add _ hmid]
    by_cases h2 : i - lo < len
    · rw [if_pos h2, if_pos (by omega), Nat.testBit_mod_two_pow, decide_eq_true h2, Bool.true_and]
    · rw [if_neg h2, if_neg (by omega), Nat.testBit_div_two_pow]
      congr 1
      omega

theorem bitN_div_two_pow (v k i : Nat) : bitN (v / 2 ^ k) i = bitN v (i + k) := by
  rw [bitN_eq_testBit, bitN_eq_testBit, Nat.testBit_div_two_pow, Nat.add_comm]

theorem bitN_ofNat {w : Nat} (x i : Nat) (h : i < w) : bitN (BitVec.ofNat w x).toNat i = bitN x i := by
  rw [bitN_eq_testBit, bitN_eq_testBit, BitVec.toNat_ofNat, Nat.testBit_mod_two_pow, decide_eq_true h, Bool.true_and]

end Sys2Proof.Machine

section

open Sys2Proof Sys2Proof.Machine Sys2Proof.Claims

/-- Settles O11: the two fields that FN selects, bit by bit. -/
theorem pmovWritesOnlyTheSelectedHalves : Obligations.PmovWritesOnlyTheSelectedHalves := by
  intro w f v i hi
  have hp : bitN (if bitN f 0 then setFieldN w.toNat 1 7 (v / 2) else w.toNat) i =
      if 1 ≤ i ∧ i < 8 ∧ bitN f 0 = true then bitN v i else bitN w.toNat i := by
    cases bitN f 0 with
    | false => simp
    | true =>
      rw [if_pos rfl, bitN_setFieldN, show v / 2 = v / 2 ^ 1 from rfl, bitN_div_two_pow]
      by_cases h : 1 ≤ i ∧ i < 8
      · rw [if_pos (by omega), if_pos ⟨h.1, h.2, rfl⟩, Nat.sub_add_cancel h.1]
      · rw [if_neg (by omega), if_neg (by tauto)]
  rw [pmovWord, bitN_ofNat _ _ hi]
  cases hf : bitN f 1 with
  | false =>
    rw [if_neg Bool.false_ne_true, hp, if_neg Bool.false_ne_true]
    grind
  | true =>
    rw [if_pos rfl, bitN_setFieldN, hp, bitN_div_two_pow]
    grind

end

/-! ## Control registers read back (R40, R41) -/

namespace Sys2Proof.Machine

theorem fieldN_lt (x lo len : Nat) : fieldN x lo len < 2 ^ len := Nat.mod_lt _ (Nat.two_pow_pos len)

theorem ctlMask_lt (n v : Nat) : ctlMask n v < 2 ^ 64 := by
  have h1 := fieldN_lt v 0 31
  have h2 := fieldN_lt v 0 32
  have h3 := fieldN_lt v 6 42
  have h4 := fieldN_lt v 0 33
  have h5 := fieldN_lt v 5 12
  have h6 := fieldN_lt v 37 12
  unfold ctlMask
  split_ifs <;> omega

theorem word_toNat_of_lt {v : Nat} (h : v < 2 ^ 64) : (word v).toNat = v := by
  rw [word, BitVec.toNat_ofNat, Nat.mod_eq_of_lt h]

/-- The per-core registers are read from the core. -/
theorem ctlRead_core {n : Nat} (s : State) (h1 : 4 < n) (h2 : n < 0x18) : ctlRead s n = ctlOf (coreAt s (curP s)) n := by
  unfold ctlRead
  split
  case h_10 => rw [if_neg (by simp; omega), if_neg (by simp; omega)]
  all_goals omega

@[simp] theorem ctlWriteStrand_sv (t : Strand) (n v : Nat) : (ctlWriteStrand t n v).sv = t.sv := by
  unfold ctlWriteStrand
  split <;> rfl

theorem ctlWrite_strand {s s' : State} {n v : Nat} (hn : n ≤ 4) (h : ctlWrite s n v = .ok s') :
    s' = setCur s fun t => ctlWriteStrand t n v := by
  rw [ctlWrite, if_pos hn] at h
  exact (Except.ok.inj h).symm

theorem ctlWrite_core {s s' : State} {n v : Nat} (hn : 4 < n) (h : ctlWrite s n v = .ok s') :
    s' = modCore s (curP s) fun c => { c with ctl := tset c.ctl n (word (ctlMask n v)) } := by
  rw [ctlWrite, if_neg (by omega)] at h
  split at h
  · cases h
  · exact (Except.ok.inj h).symm

end Sys2Proof.Machine

section

open Sys2Proof Sys2Proof.Machine Sys2Proof.Claims

/-- Settles O30: a register is the core's or the strand's. -/
theorem controlRegisterReadsBack : Obligations.ControlRegisterReadsBack := by
  intro s s' n v _ hro hv h
  have hlt : n < 0x18 := by simpa [ctlReadOnly] using hro
  by_cases hn : n ≤ 4
  · rw [ctlWrite_strand hn h]
    refine ⟨fun h4 => absurd h4 (by omega), by simp, ?_, ?_, ?_, ?_⟩
    · rintro rfl
      simp only [ctlRead, curStrand_setCur, ctlWriteStrand, BitVec.toNat_ofNat]
      omega
    · rintro rfl
      simp only [ctlRead, curStrand_setCur, ctlWriteStrand, BitVec.toNat_ofNat]
    · rintro rfl
      simp only [ctlRead, curStrand_setCur, ctlWriteStrand, BitVec.toNat_ofNat]
    · rintro rfl
      simp only [ctlRead, curStrand_setCur, ctlWriteStrand]
      exact word_toNat_of_lt hv
  · have h4 : 4 < n := by omega
    rw [ctlWrite_core h4 h]
    refine ⟨fun _ k hk => ?_, rfl, by omega, by omega, by omega, by omega⟩
    rw [ctlRead_core _ h4 hlt]
    have hcore : coreAt (modCore s (curP s) fun c => { c with ctl := tset c.ctl n (word (ctlMask n v)) }) (keyCore k) =
        { coreAt s (curP s) with ctl := tset (coreAt s (curP s)).ctl n (word (ctlMask n v)) } := by
      rw [hk, coreAt_modCore_self]
    show ctlOf (coreAt _ (keyCore k)) n = _
    refine (congrArg (ctlOf · n) hcore).trans ?_
    simp [ctlOf, tgetD, word_toNat_of_lt (ctlMask_lt n v)]

end

/-! ## A settled entry stays as it is (R198, R359) -/

namespace Sys2Proof.Machine

/-- An entry after its settling: no waiter, not PENDING, not anonymous. -/
structure AtRest (s : State) (i : Nat) (f : Future) : Prop where
  entry   : futAt s i = f
  settled : f.st ≠ .pending
  alone   : f.waiters = []
  named   : f.anon = false

theorem futAt_congr {s t : State} (h : s.futures = t.futures) (i : Nat) : futAt s i = futAt t i := by
  rw [futAt, futAt, h]

theorem AtRest.of_eq {s t : State} {i : Nat} {f : Future} (h : AtRest s i f) (ht : t.futures = s.futures) :
    AtRest t i f := ⟨(futAt_congr ht i).trans h.entry, h.settled, h.alone, h.named⟩

theorem AtRest.of_ambient {s t : State} {i : Nat} {f : Future} (h : AtRest s i f) (ht : ambient t = ambient s) :
    AtRest t i f := h.of_eq (futures_of_ambient ht)

theorem futAt_setFut_ne (s : State) {i j : Nat} (g : Future) (h : i ≠ j) : futAt (setFut s j g) i = futAt s i :=
  tgetD_tset_ne _ _ _ h

theorem setFut_atRest {s : State} {i j : Nat} {f : Future} (g : Future) (h : AtRest s i f) (hij : i ≠ j) :
    AtRest (setFut s j g) i f := ⟨(futAt_setFut_ne s g hij).trans h.entry, h.settled, h.alone, h.named⟩

/-! ### What serving a waiter leaves of the entries -/

@[simp] theorem wakeNodes_ambient (s : State) (i : Nat) (l : List Waiter) : ambient (wakeNodes s i l) = ambient s := by
  unfold wakeNodes
  split
  · rfl
  · exact wakeWhere_ambient ..

@[simp] theorem answerStrand_ambient (s : State) (k : Nat) (v : BitVec 64) (ok : Bool) :
    ambient (answerStrand s k v ok) = ambient s := by
  unfold answerStrand
  split
  · split
    · rw [wake_ambient]; rfl
    · rfl
  · rfl

theorem makeReady_futures (s : State) (t : Nat) : (makeReady s t).futures = s.futures := by
  unfold makeReady
  split
  · dsimp only
    split <;> rfl
  · rfl

/-- Leaving the waiting lists changes no entry that has no waiter. -/
theorem leaveLists_atRest {s : State} {i : Nat} {f : Future} (t : Nat) (h : AtRest s i f) :
    AtRest (leaveLists s t) i f := by
  refine AtRest.of_ambient ?_ (foldl_keeps ambient (fun (a : State) (e : Nat × Future) => wakeNodes a e.1 e.2.waiters)
    (fun a e => wakeNodes_ambient a e.1 e.2.waiters) _ _)
  refine ⟨?_, h.settled, h.alone, h.named⟩
  have hget : (tget s.futures i).getD Future.reset = f := h.entry
  simp only [futAt, tgetD, tget_tmap]
  cases hf : tget s.futures i with
  | none => rw [hf] at hget; exact hget
  | some g =>
    rw [hf] at hget
    obtain rfl : g = f := hget
    have hw := h.alone
    cases g
    cases hw
    rfl

theorem dropTask_atRest {s : State} {i : Nat} {f : Future} (t : Nat) (h : AtRest s i f) : AtRest (dropTask s t) i f := by
  unfold dropTask
  split
  · next x hx =>
    have h1 : AtRest (leaveLists { s with tasks := tdel s.tasks t } t) i f := 
      leaveLists_atRest t (h.of_eq rfl)
    have h2 : AtRest (wakePost (leaveLists { s with tasks := tdel s.tasks t } t) x.home) i f :=
      h1.of_ambient (wakeWhere_ambient ..)
    dsimp only
    split
    · exact h2.of_eq rfl
    · exact h2
  · exact h

theorem serveSettled_atRest {s : State} {i : Nat} {f : Future} (w : Waiter) (how : Settle) (v : BitVec 64)
    (h : AtRest s i f) : AtRest (serveSettled s w how v).1 i f := by
  unfold serveSettled
  split
  · exact h.of_ambient (answerStrand_ambient ..)
  · exact dropTask_atRest _ h
  · exact dropTask_atRest _ h
  · exact h.of_eq (makeReady_futures ..)
  · exact dropTask_atRest _ h

theorem freeFut_atRest {s : State} {i j : Nat} {f : Future} (h : AtRest s i f) (hij : i ≠ j) :
    AtRest (freeFut s j) i f := by
  dsimp only [freeFut]
  refine AtRest.of_ambient ?_ ((foldl_keeps ambient _ (fun a x => ?_) _ _).trans (wakeWhere_ambient ..))
  · exact (setFut_atRest _ h hij).of_ambient (logFut_ambient ..)
  · split <;> rfl

theorem freeIfAnon_atRest {s : State} {i : Nat} {f : Future} (j : Nat) (h : AtRest s i f) :
    AtRest (freeIfAnon s j) i f := by
  dsimp only [freeIfAnon]
  split
  · next hj =>
    refine freeFut_atRest h ?_
    rintro rfl
    rw [h.entry, h.named] at hj
    exact absurd hj (by simp)
  · exact h

/-- An entry at rest is not settled again: a PENDING one that a settling names is another. -/
theorem AtRest.ne_hIndex {s : State} {i : Nat} {f : Future} {h : BitVec 32} (hr : AtRest s i f)
    (hp : ((futOf s h).getD Future.reset).st = .pending) : i ≠ hIndex h := by
  rintro rfl
  unfold futOf at hp
  dsimp only at hp
  split at hp
  · exact absurd hp (by decide)
  · exact hr.settled (hr.entry ▸ hp)

/-- The waiters of one settling, in turn. -/
theorem serveAll_atRest {i : Nat} {f : Future} (how : Settle) (v : BitVec 64) (ws : List Waiter)
    (p : State × List Settling) (h : AtRest p.1 i f) :
    AtRest (ws.foldl (fun (acc : State × List Settling) w =>
      let r := serveSettled acc.1 w how v
      (r.1, acc.2 ++ r.2)) p).1 i f := by
  induction ws generalizing p with
  | nil => exact h
  | cons w r ih => exact ih _ (serveSettled_atRest w how v h)

/-- Whatever settlings follow, an entry at rest stays. -/
theorem settleAll_atRest {i : Nat} {f : Future} (fuel : Nat) (s : State) (l : List Settling) (h : AtRest s i f) :
    AtRest (settleAll fuel s l) i f := by
  induction fuel generalizing s l with
  | zero => exact h
  | succ n ih =>
    cases l with
    | nil => exact h
    | cons x rest =>
      obtain ⟨hd, how, log⟩ := x
      simp only [settleAll]
      split
      · next hp =>
        have h1 (g : Future) : AtRest (logFut (setFut s (hIndex hd) g) hd log) i f :=
          (setFut_atRest g h (h.ne_hIndex hp)).of_ambient (logFut_ambient ..)
        refine ih _ _ (freeIfAnon_atRest _ (AtRest.of_ambient (serveAll_atRest _ _ _ _ ?_) (wakeNodes_ambient ..)))
        split
        · exact h1 _
        · exact (h1 _).of_eq rfl
      · refine ih _ _ ?_
        split
        · exact h
        · exact h.of_ambient (logFut_ambient ..)

theorem futOf_some {s : State} {h : BitVec 32} {e : Future} (hf : futOf s h = some e) :
    futAt s (hIndex h) = e ∧ e.st ≠ .empty := by
  unfold futOf at hf
  dsimp only at hf
  split at hf
  · cases hf
  · next hc =>
    cases hf
    exact ⟨rfl, by simp_all⟩

end Sys2Proof.Machine

section

open Sys2Proof Sys2Proof.Machine Sys2Proof.Claims

/-- Settles O34: the entry is at rest after its own step, and stays so through all that this brings about. -/
theorem settlingAnEntryHappensOnce : Obligations.SettlingAnEntryHappensOnce := by
  refine ⟨fun s h e v log hf hp ha => ?_, fun s h how log => ⟨fun e hf hst => ?_, fun hf => ?_⟩⟩
  · have hrest : AtRest (settle s h (.resolve (some v)) log) (hIndex h)
        { e with st := .resolved, shade := 15, pub := true, value := v, waiters := [] } := by
      have hfuel : ∀ n, 2 + s.futures.length + n = (1 + s.futures.length + n) + 1 := fun n => by omega
      rw [settle, hfuel]
      simp only [settleAll, hf, Option.getD_some, hp, if_true]
      refine settleAll_atRest _ _ _ (freeIfAnon_atRest _ (AtRest.of_ambient (serveAll_atRest _ _ _ _ ?_)
        (wakeNodes_ambient ..)))
      have h1 : AtRest (setFut s (hIndex h) { e with st := .resolved, shade := 15, pub := true, value := v, waiters := [] })
          (hIndex h) { e with st := .resolved, shade := 15, pub := true, value := v, waiters := [] } :=
        ⟨futAt_setFut_self .., nofun, rfl, ha⟩
      have h2 := h1.of_ambient (logFut_ambient _ h log)
      split
      · exact h2
      · exact h2.of_eq rfl
    simp only [hrest.entry, and_self]
  · have hempty := (futOf_some hf).2
    have hfuel : ∀ n, 2 + s.futures.length + n = (s.futures.length + n) + 1 + 1 := fun n => by omega
    rw [settle, hfuel]
    simp only [settleAll, hf, Option.getD_some, hst, hempty, if_false]
  · have hfuel : ∀ n, 2 + s.futures.length + n = (s.futures.length + n) + 1 + 1 := fun n => by omega
    rw [settle, hfuel]
    have hr : Future.reset.st = .empty := rfl
    simp [settleAll, hf, hr]

end

/-! ## IFLUSH, TLBINV and GREY (R155, R156, R158) -/

namespace Sys2Proof.Machine

theorem cacheGet_filter {c : List (Nat × BitVec 512)} {gone : Nat → Bool} {line : Nat} (h : gone line = true) :
    cacheGet (c.filter fun e => !(gone e.1)) line = none := by
  have hnone : (c.filter fun e => !(gone e.1)).find? (fun e => e.1 == line) = none := by
    rw [List.find?_eq_none]
    rintro ⟨a, b⟩ hm ha
    obtain rfl : a = line := by simpa using ha
    simp [h] at hm
  rw [cacheGet, hnone]
  rfl

/-- A core of a table that a function has changed: one that is not listed stays at reset. -/
theorem tgetD_tmap {β : Type} (t : Table β) (f : Nat → β → β) (k : Nat) (d : β) :
    tgetD (tmap t f) k d = ((tget t k).map (f k)).getD d := by
  rw [tgetD, tget_tmap]

/-- What holds of every core that a function gives, and of the one at reset, holds of every core. -/
theorem tgetD_tmap_cases {β : Type} (P : β → β → Prop) {t : Table β} {f : Nat → β → β} {d : β} (hd : P d d)
    (k : Nat) (hf : ∀ x, P (f k x) x) : P (tgetD (tmap t f) k d) (tgetD t k d) := by
  rw [tgetD_tmap, tgetD]
  cases tget t k with
  | none => exact hd
  | some x => exact hf x

/-- A line that a test picks is in no cache and no line buffer of the cluster. -/
theorem leaveMiddle_gone (s : State) (c : Nat) {gone : Nat → Bool} {line : Nat} (h : gone line = true) :
    cacheGet (clusterAt (leaveMiddle s c gone) c).icache line = none ∧
    (∀ p, clusterOf p = c → cacheGet (coreAt (leaveMiddle s c gone) p).l1 line = none) ∧
    ∀ k t, clusterOf (keyCore k) = c → tget (leaveMiddle s c gone).strands k = some t →
      ∀ b, t.lineBuf = some b → b.2.1 ≠ line := by
  refine ⟨?_, fun p hp => ?_, fun k t hk ht b hb => ?_⟩
  · simp only [leaveMiddle, dropBuffers, clusterAt, setCluster, tgetD_tset_self]
    exact cacheGet_filter h
  · simp only [leaveMiddle, dropBuffers, coreAt, setCluster_cores]
    refine tgetD_tmap_cases (fun x _ => cacheGet x.l1 line = none) (t := s.cores) (d := Core.reset) rfl p fun x => ?_
    rw [if_pos hp]
    exact cacheGet_filter h
  · rintro rfl
    simp only [leaveMiddle, dropBuffers, tget_tmap, Option.map_eq_some_iff] at ht
    obtain ⟨x, -, rfl⟩ := ht
    split at hb
    · cases hb
    · next hc =>
      refine hc ?_
      simp [hk, hb, h]

end Sys2Proof.Machine

namespace Sys2Proof.Claims

open Sys2Proof.Machine

/-- An instruction that is a flush of lines, once the strand's stores are performed. -/
theorem flushes_of {i : Instr} {s s1 s2 : State} {drop : Nat → Bool} {gone : Nat → Prop}
    (he : exec i s = finish s (flushLines s1 drop)) (hs : settleStores s1 = .ok s2)
    (hg : ∀ line, gone line → drop line = true) : Flushes i s s2 gone := by
  refine ⟨leaveMiddle s2 (clusterOf (curP s2)) drop, ?_, rfl, rfl, fun line hl => leaveMiddle_gone _ _ (hg line hl)⟩
  rw [he]
  simp only [flushLines, bind, Except.bind, hs]
  rfl

theorem loses_filter {drop : Nat → Nat → Nat → Bool} {gone : Nat → Nat → Nat → Prop}
    (hg : ∀ a lo hi, drop a lo hi = true ↔ gone a lo hi) (l : List TlbEnt) :
    Loses gone (l.filter fun e => !(drop e.asid e.va (e.va + 2 ^ e.bits - 1))) l := by
  intro e
  rw [List.mem_filter, Bool.not_eq_true', ← hg, Bool.not_eq_true]

theorem mem_heldChunks {s : State} {drop : Nat → Nat → Nat → Bool} {p id page : Nat} :
    (p, id, page) ∈ heldChunks s drop ↔ ∃ c x h, (p, c) ∈ s.cores ∧ (id, x) ∈ c.copies ∧ h ∈ copyHolds s p id x ∧
      h.page = page ∧ h.lo ≤ h.hi ∧ drop x.asid h.lo h.hi = true := by
  simp only [heldChunks, List.mem_flatMap, List.mem_map, List.mem_filter, Bool.and_eq_true, decide_eq_true_eq, Prod.exists,
    Prod.mk.injEq]
  constructor
  · rintro ⟨p', c, hc, id', x, hx, h, ⟨hh, hle, hd⟩, rfl, rfl, rfl⟩
    exact ⟨c, x, h, hc, hx, hh, rfl, hle, hd⟩
  · rintro ⟨c, x, h, hc, hx, hh, rfl, hle, hd⟩
    exact ⟨p, c, hc, id, x, hx, h, ⟨hh, hle, hd⟩, rfl, rfl, rfl⟩

/-- A monitor's page is one that TLBINV drops: it is named, or some TLB holds an entry that goes and meets it. -/
def pageLost (s : State) (drop : Nat → Nat → Nat → Bool) (pages : Nat → Nat → Bool) (asid page : Nat) : Bool :=
  pages asid page || anyEntry s fun e =>
    drop e.asid e.va (e.va + 2 ^ e.bits - 1) && e.asid == asid && e.va < page * 65536 + 65536 &&
      page * 65536 < e.va + 2 ^ e.bits

/-- An instruction that drops translations, once the strand's stores are performed. -/
theorem invalidates_of {i : Instr} {s s1 s2 : State} {drop : Nat → Nat → Nat → Bool} {gone : Nat → Nat → Nat → Prop}
    {ranges : State → Launch → List RangeEnt} {rs : Launch → List RangeEnt} {pages : Nat → Nat → Bool}
    (he : exec i s = finish s (dropEntries s1 drop ranges pages)) (hs : settleStores s1 = .ok s2)
    (hg : ∀ a lo hi, drop a lo hi = true ↔ gone a lo hi) (hr : ranges s2 = rs) : Invalidates i s s2 gone rs := by
  refine ⟨mapRanges (dropTranslations s2 drop) (ranges s2),
    fun _ t m => !(isNear (m.page * 65536)) &&
      pageLost s2 drop pages (asidOf (mapRanges (dropTranslations s2 drop) (ranges s2)) t.lid) m.page,
    heldChunks s2 drop, fun p => ?_, fun c => ?_, fun lid => ?_,
    fun p id page => ?_, rfl, rfl, rfl, ?_⟩
  · simp only [coreAt, mapRanges, dropTranslations]
    refine tgetD_tmap_cases (fun x y => Loses gone x.itlb y.itlb ∧ Loses gone x.dtlb y.dtlb) (t := s2.cores) (d := Core.reset)
      ⟨loses_filter hg [], loses_filter hg []⟩ p fun x => ?_
    exact ⟨loses_filter hg x.itlb, loses_filter hg x.dtlb⟩
  · simp only [clusterAt, mapRanges, dropTranslations]
    refine tgetD_tmap_cases (fun x y => Loses gone x.l2tlb y.l2tlb ∧
        ∀ w, w ∈ x.walks ↔ w ∈ y.walks ∧ ¬ gone w.asid w.va (w.va + 2 ^ (48 - 9 * w.level) - 1))
      (t := s2.clusters) (d := Cluster.reset) ⟨loses_filter hg [], by simp [Cluster.reset]⟩ c fun x => ?_
    refine ⟨loses_filter hg x.l2tlb, fun w => ?_⟩
    rw [List.mem_filter, Bool.not_eq_true', ← hg, Bool.not_eq_true]
  · rw [← hr]
    simp only [launchAt, mapRanges, dropTranslations, tget_tmap]
  · rw [mem_heldChunks]
    simp only [hg]
  · rw [he]
    simp only [dropEntries, bind, Except.bind, hs]
    rfl

end Sys2Proof.Claims

section

open Sys2Proof Sys2Proof.Machine Sys2Proof.Claims

/-- Settles O38: each is a flush, an invalidation or a wait, after the strand's stores. -/
theorem systemInstructionsResults : Obligations.SystemInstructionsResults := by
  intro s g a ai s1 s2 xs l va
  refine ⟨fun hr => ⟨fun hs => ?_, fun hsv => ⟨fun hs => ⟨?_, ?_⟩, fun hne => ⟨fun hgrey => ?_, fun hl hgrey => ?_⟩⟩⟩,
    fun he hs => ⟨?_, fun hsv => ?_⟩⟩
  · exact flushes_of ((exec_iflush s).trans (uniformOp_ready hr rfl rfl (by simp))) hs fun line hl => by simpa [va] using hl.symm
  · exact invalidates_of ((exec_tlbinvPage s).trans (uniformOp_ready hr rfl rfl fun _ => hsv)) hs
      (fun a lo hi => by simp [va]) rfl
  · refine invalidates_of ((exec_tlbinvAsid s).trans (uniformOp_ready hr rfl rfl fun _ => hsv)) hs (fun a lo hi => ?_)
      (funext fun l => ?_)
    · simp
    · split
      · next h => rw [h]
      · rfl
  · rw [exec_grey, execGrey, uniformOp_ready hr rfl rfl fun _ => hsv]
    dsimp only
    rw [if_neg hne]
    cases hla : launchAt s1 (srcWord s (nth xs 0)) with
    | none => rfl
    | some y => simp only [hgrey y hla, if_true]; rfl
  · rw [exec_grey, execGrey, uniformOp_ready hr rfl rfl fun _ => hsv]
    dsimp only
    rw [if_neg hne, hl]
    simp only [hgrey, if_false]
    rfl
  · exact flushes_of ((exec_iflushAll s).trans (gated_enabled he rfl (by simp))) hs fun _ _ => rfl
  · exact invalidates_of ((exec_tlbinvAll s).trans (gated_enabled he rfl fun _ => hsv)) hs (fun a lo hi => by simp) rfl

end

section

open Sys2Proof Sys2Proof.Machine Sys2Proof.Claims

/-- Settles O56: the decoder evaluated on each word. -/
theorem wordsOfTheEncodingTablesDecode : Obligations.WordsOfTheEncodingTablesDecode := by
  unfold Obligations.WordsOfTheEncodingTablesDecode
  decide +kernel

end

/-! ## How an instruction on names alone ends, and what it leaves alone (R36, R56, R83) -/

namespace Sys2Proof.Machine

/-- What a body comes to: a value of which `P` holds, or a stop with nothing of the instruction kept. -/
def EndsBare {α : Type} (P : α → Prop) (r : Res α) : Prop :=
  match r with
  | .ok a => P a
  | .error (.trap _ _ k) => k = none
  | .error (.park _ k) => k = none

theorem endsBare_trapNow {α : Type} {P : α → Prop} (c v : Nat) : EndsBare P (trapNow c v) := rfl

theorem endsBare_parkNow {α : Type} {P : α → Prop} (w : Park) : EndsBare P (parkNow w) := rfl

theorem EndsBare.bind {α β : Type} {P : α → Prop} {Q : β → Prop} {r : Res α} {f : α → Res β} (h : EndsBare P r)
    (hf : ∀ a, P a → EndsBare Q (f a)) : EndsBare Q (r >>= f) := by
  cases r with
  | ok a => exact hf a h
  | error e => cases e <;> exact h

theorem EndsBare.mono {α : Type} {P Q : α → Prop} {r : Res α} (h : EndsBare P r) (hpq : ∀ a, P a → Q a) :
    EndsBare Q r := by
  cases r with
  | ok a => exact hpq a h
  | error e => cases e <;> exact h

open Claims in
theorem EndsBare.finish {P : State → Prop} {s t : State} {r : Res State} (h : EndsBare P r)
    (he : finish s r = .next t) : StopsShort s t ∨ ∃ u, P u ∧ t = keepHub s u := by
  cases he
  cases r with
  | ok u => exact .inr ⟨u, h, rfl⟩
  | error e =>
    cases e with
    | trap c v k => cases h; exact .inl (.inl ⟨c, v, rfl⟩)
    | park w k => cases h; exact .inl (.inr ⟨w, rfl⟩)

open Claims in
/-- The frame of an instruction whose body ends bare: it stops short, only advances, or does what the body does. -/
theorem gated_endsBare {P : State → Prop} {s t : State} {cls : Cls} {g : Guard} {static supOnly : Bool}
    {body : List Nat → Res State} (hadv : P (advance s))
    (hbody : ∀ lanes, static = true → (cls = .uniform → lanes = [0]) →
      (cls = .lane → lanes = enabledLanes (curStrand s) g) → EndsBare P (body lanes))
    (he : gated s cls g static supOnly body = .next t) : StopsShort s t ∨ ∃ u, P u ∧ t = keepHub s u := by
  refine EndsBare.finish ?_ he
  split
  · exact endsBare_trapNow ..
  · next hs =>
    have hst : static = true := by simp_all
    split
    · exact endsBare_trapNow ..
    · split
      · exact hadv
      · cases cls with
        | uniform =>
          dsimp only
          split
          · exact hbody [0] hst (fun _ => rfl) nofun
          · exact hadv
        | lane => exact hbody _ hst nofun fun _ => rfl

/-! ### Reading names of the row store -/

theorem rowName_cases {i : NameInfo} (h : rowName i = true) : i.kind = 0 ∨ i.kind = 1 ∨ i.kind = 6 ∨ i.kind = 8 := by
  simpa [rowName, or_assoc] using h

theorem readSrc_endsBare {s : State} {i : NameInfo} (h : rowName i = true) :
    EndsBare (fun r => r.1 = s) (readSrc s i) := by
  unfold readSrc
  have hk := rowName_cases h
  dsimp only
  split
  · omega
  · omega
  · omega
  · split
    · exact endsBare_parkNow ..
    · split
      · exact endsBare_trapNow ..
      · exact rfl

/-- Reading names of the row store changes nothing. -/
theorem readSrcs_endsBare {s : State} {is : List NameInfo} (h : is.all rowName = true) (acc : List Src) :
    EndsBare (fun r => r.1 = s) (readSrcs s is acc) := by
  induction is generalizing acc with
  | nil => exact rfl
  | cons i r ih =>
    obtain ⟨hi, hr⟩ := (List.all_cons ..).symm.trans h |> Bool.and_eq_true_iff.mp
    unfold readSrcs
    split
    · exact ih hr _
    · have hsrc := readSrc_endsBare (s := s) hi
      split
      · next s' x hx =>
        rw [hx] at hsrc
        obtain rfl : s' = s := hsrc
        exact ih hr _
      · next e hx =>
        rw [hx] at hsrc
        cases e <;> exact hsrc

theorem collect_endsBare (lanes : List Nat) (f : Nat → LaneRes) : EndsBare (fun _ => True) (collect lanes f) := by
  unfold collect
  dsimp only
  split
  · exact endsBare_trapNow ..
  · split
    · exact endsBare_trapNow ..
    · trivial

/-! ### Writing a name of the row store -/

theorem bitN_bank_setFieldN {w : Nat} (b : BitVec w) {lo len v j : Nat} (h : ¬(lo ≤ j ∧ j < lo + len)) :
    bitN (BitVec.ofNat w (setFieldN b.toNat lo len v)).toNat j = bitN b.toNat j := by
  by_cases hj : j < w
  · rw [bitN_ofNat _ _ hj, bitN_setFieldN, if_neg h]
  · have hz (x : BitVec w) : bitN x.toNat j = false := by
      rw [bitN_eq_testBit]
      exact Nat.testBit_lt_two_pow (x.isLt.trans_le (Nat.pow_le_pow_right (by decide) (by omega)))
    rw [hz, hz]

/-- A lane name written to some lanes: of the core only the lane banks change, and of them only the name's bits. -/
theorem rowWrite_lanes (t : Strand) (i : NameInfo) (hk : i.kind = 1) (vals : Nat → Nat) (lanes : List Nat) (c : Core) :
    ∃ lb, lanes.foldl (fun c l => rowWrite c t i l (vals l)) c = { c with lbank := lb } ∧
      ∀ j, ¬ inLanes t i lanes j → bitN lb.toNat j = bitN c.lbank.toNat j := by
  induction lanes generalizing c with
  | nil => exact ⟨c.lbank, rfl, fun _ _ => rfl⟩
  | cons l r ih =>
    obtain ⟨lb, he, hb⟩ := ih (rowWrite c t i l (vals l))
    refine ⟨lb, ?_, fun j hj => ?_⟩
    · rw [List.foldl_cons, he]
      simp [rowWrite, hk]
    · rw [hb j fun ⟨hk', m, hm, hr⟩ => hj ⟨hk', m, List.mem_cons_of_mem _ hm, hr⟩]
      simp only [rowWrite, hk, if_true]
      exact bitN_bank_setFieldN _ fun hr => hj ⟨hk, l, List.mem_cons_self, hr⟩

/-- What writing a name of the row store to some lanes leaves alone. -/
structure DstWritten (s u : State) (i : NameInfo) (lanes : List Nat) : Prop where
  only    : OnlyStrandAndRows s u
  strands : u.strands = s.strands
  ubank   : ∀ j, ¬ inUniform (curStrand s) i j →
    bitN (coreAt u (curP s)).ubank.toNat j = bitN (coreAt s (curP s)).ubank.toNat j
  lbank   : ∀ j, ¬ inLanes (curStrand s) i lanes j →
    bitN (coreAt u (curP s)).lbank.toNat j = bitN (coreAt s (curP s)).lbank.toNat j
  healed  : ∀ r, r ∈ (coreAt s (curP s)).badRows → r ∉ (coreAt u (curP s)).badRows →
    rowInside (curStrand s) i lanes r

theorem OnlyStrandAndRows.refl (s : State) : OnlyStrandAndRows s s :=
  ⟨fun _ => rfl, fun _ _ => rfl, fun _ _ => rfl, ⟨_, _, _, rfl⟩, fun _ => id, rfl⟩

theorem DstWritten.refl (s : State) (i : NameInfo) (lanes : List Nat) : DstWritten s s i lanes :=
  ⟨.refl s, rfl, fun _ _ => rfl, fun _ _ => rfl, fun _ h h' => absurd h h'⟩

/-- New banks and fewer bad rows in the core of the strand that issues. -/
theorem onlyStrandAndRows_setCore {s : State} {u : BitVec 16384} {l : BitVec 131072} {b : List (Nat × Nat)}
    (hb : ∀ r ∈ b, r ∈ (coreAt s (curP s)).badRows) :
    OnlyStrandAndRows s (setCore s (curP s) { coreAt s (curP s) with ubank := u, lbank := l, badRows := b }) := by
  refine ⟨fun _ => rfl, fun _ _ => rfl, fun p hp => coreAt_setCore_ne s _ hp, ⟨u, l, b, coreAt_setCore_self ..⟩, ?_, rfl⟩
  rw [coreAt_setCore_self]
  exact hb

/-- A row that a write of a name heals lies whole in the name. -/
theorem rowInside_of_whole {c : Core} {t : Strand} {i : NameInfo} {lanes : List Nat} {r : Nat × Nat}
    (hk : rowName i = true) (h8 : i.kind ≠ 8) (hr : r ∈ badWrites c t i lanes) (hw : wholeRow t i r.2 = true) :
    rowInside t i lanes r := by
  have hkind := rowName_cases hk
  obtain ⟨hlo, hhi⟩ : nameBit t i ≤ 64 * r.2 ∧ 64 * r.2 + 64 ≤ nameBit t i + i.width := by simpa [wholeRow] using hw
  have hrow := (List.mem_filter.mp hr).2
  simp only [Bool.and_eq_true] at hrow
  obtain ⟨⟨hbank, -⟩, -⟩ := hrow
  intro j hj
  by_cases h1 : i.kind = 1
  · simp only [h1, if_true, Bool.and_eq_true, bne_iff_ne, List.contains_iff_mem] at hbank
    exact ⟨fun h0 => absurd h0 hbank.1, fun _ => ⟨h1, r.1 - 1, hbank.2, by omega, by omega⟩⟩
  · simp only [h1, if_false, beq_iff_eq] at hbank
    exact ⟨fun _ => ⟨by omega, by omega, by omega⟩, fun h => absurd hbank h⟩

theorem writeRows_endsBare {s : State} {i : NameInfo} (lanes : List Nat) (vals : Nat → Nat) (hk : rowName i = true)
    (h8 : i.kind ≠ 8) : EndsBare (fun u => DstWritten s u i lanes) (writeRows s i lanes vals) := by
  have hkind := rowName_cases hk
  dsimp only [writeRows]
  split
  · exact endsBare_parkNow ..
  · split
    · exact endsBare_trapNow ..
    · next hfind =>
      have hwhole : ∀ r ∈ badWrites (coreAt s (curP s)) (curStrand s) i lanes, wholeRow (curStrand s) i r.2 = true := by
        simpa [List.find?_eq_none] using hfind
      have hheal (r : Nat × Nat) (h : r ∈ (coreAt s (curP s)).badRows) (h' : r ∉ (coreAt s (curP s)).badRows.filter
          fun b => !((badWrites (coreAt s (curP s)) (curStrand s) i lanes).contains b)) :
          rowInside (curStrand s) i lanes r := by
        have hr : r ∈ badWrites (coreAt s (curP s)) (curStrand s) i lanes := by
          simpa [List.mem_filter, h] using h'
        exact rowInside_of_whole hk h8 hr (hwhole r hr)
      by_cases h1 : i.kind = 1
      · obtain ⟨lb, he, hb⟩ := rowWrite_lanes (curStrand s) i h1 vals lanes { coreAt s (curP s) with
          badRows := (coreAt s (curP s)).badRows.filter
            fun b => !((badWrites (coreAt s (curP s)) (curStrand s) i lanes).contains b) }
        simp only [EndsBare, h1, if_true, he]
        refine ⟨onlyStrandAndRows_setCore fun r hr => (List.mem_filter.mp hr).1, rfl, fun j _ => ?_, fun j hj => ?_, ?_⟩
        · rw [coreAt_setCore_self]
        · rw [coreAt_setCore_self]; exact hb j hj
        · rw [coreAt_setCore_self]; exact hheal
      · simp only [EndsBare, h1, if_false, rowWrite]
        refine ⟨onlyStrandAndRows_setCore fun r hr => (List.mem_filter.mp hr).1, rfl, fun j hj => ?_, fun j _ => ?_, ?_⟩
        · rw [coreAt_setCore_self]
          exact bitN_bank_setFieldN _ fun hr => hj ⟨by omega, hr.1, hr.2⟩
        · rw [coreAt_setCore_self]
        · rw [coreAt_setCore_self]; exact hheal

theorem writeDst_endsBare {s : State} {i : NameInfo} (lanes : List Nat) (vals : Nat → Nat) (hk : rowName i = true) :
    EndsBare (fun u => DstWritten s u i lanes) (writeDst s i lanes vals) := by
  have hkind := rowName_cases hk
  unfold writeDst
  split
  · exact DstWritten.refl ..
  · omega
  · omega
  · next h8 _ _ => exact writeRows_endsBare lanes vals hk h8

/-! ### The end of an instruction -/

/-- A strand as an instruction that completes leaves it, at another PC. -/
def advanced (x : Strand) (pc : BitVec 48) : Strand :=
  { x with pc := pc, takes := x.takes.filter (·.pc != x.pc), answer := none, skipBrk := false }

theorem strandAt_advance_cur (s : State) : strandAt (advance s) s.cur = advanced (curStrand s) (nextPc s (curStrand s)) :=
  strandAt_setStrand_self ..

/-- A change of the strand that issues is none elsewhere. -/
theorem OnlyStrandAndRows.setCur {s u : State} (h : OnlyStrandAndRows s u) (f : Strand → Strand) :
    OnlyStrandAndRows s (setCur u f) := by
  obtain ⟨hm, hs, hc, hcore, hbad, hrest⟩ := h
  have hcur : u.cur = s.cur := (congrArg State.cur hrest :)
  exact ⟨hm, fun k hk => (tget_tset_ne _ _ (hcur.symm ▸ hk)).trans (hs k hk), hc, hcore, hbad, hrest⟩

theorem OnlyStrandAndRows.keepHub {s u : State} (h : OnlyStrandAndRows s u) : OnlyStrandAndRows s (keepHub s u) := by
  obtain ⟨hm, hs, hc, hcore, hbad, hrest⟩ := h
  exact ⟨hm, hs, hc, hcore, hbad, (congrArg (fun x : State => { x with hub := s.hub }) hrest :)⟩

theorem OnlyStrandAndRows.advance {s u : State} (h : OnlyStrandAndRows s u) :
    OnlyStrandAndRows s (Machine.keepHub s (advance u)) := (h.setCur _).keepHub

theorem strandAt_advance_setCur {s u : State} (h : OnlyStrandAndRows s u) (hs : u.strands = s.strands)
    (f : Strand → Strand) (hpc : (f (curStrand s)).pc = (curStrand s).pc) :
    strandAt (keepHub s (advance (setCur u f))) s.cur = advanced (f (curStrand s)) (nextPc s (curStrand s)) := by
  have hcur : u.cur = s.cur := (congrArg State.cur h.rest :)
  have hir : u.ir = s.ir := (congrArg State.ir h.rest :)
  have hstrand : curStrand u = curStrand s := by simp [curStrand, strandAt, hs, hcur]
  have := strandAt_advance_cur (setCur u f)
  simp only [setCur_cur, curStrand_setCur, hstrand] at this
  rw [← hcur]
  refine this.trans ?_
  simp [nextPc, hpc, hir]

theorem setFlags_bits (x : Strand) (fl : BitVec 8) (i : Nat) :
    bitN (setFlags x fl).pword.toNat i = (bitN x.pword.toNat i || (decide (8 ≤ i) && fl.toNat.testBit (i - 8))) := by
  have hf : (fl ++ (0 : BitVec 8) : BitVec 16).toNat = fl.toNat <<< 8 :=
    (BitVec.toNat_append fl (0 : BitVec 8)).trans (Nat.or_zero _)
  simp only [setFlags, bitN_eq_testBit, BitVec.toNat_or, Nat.testBit_or, hf, Nat.testBit_shiftLeft, ge_iff_le]

theorem strandKept_setFlags (x : Strand) (fl : BitVec 8) (pc : BitVec 48) :
    StrandKept x (advanced (setFlags x fl) pc) pc false := by
  refine ⟨rfl, fun i h8 _ hb => ?_, fun _ i hi => ?_, fun _ => rfl, rfl⟩
  · exact (setFlags_bits x fl i).trans (by rw [hb, Bool.true_or])
  · exact (setFlags_bits x fl i).trans (by simp [show ¬ 8 ≤ i by omega])

/-- What O52 asks of the state that a computing instruction leaves, its hub aside. -/
structure ComputedFrame (s t : State) (g : Guard) (di : NameInfo) : Prop where
  only   : OnlyStrandAndRows s t
  strand : StrandKept (curStrand s) (strandAt t s.cur) (nextPc s (curStrand s)) false
  ubank  : ∀ j, ¬ inUniform (curStrand s) di j →
    bitN (coreAt t (curP s)).ubank.toNat j = bitN (coreAt s (curP s)).ubank.toNat j
  lbank  : ∀ j, ¬ inLanes (curStrand s) di (enabledLanes (curStrand s) g) j →
    bitN (coreAt t (curP s)).lbank.toNat j = bitN (coreAt s (curP s)).lbank.toNat j
  healed : ∀ r, r ∈ (coreAt s (curP s)).badRows → r ∉ (coreAt t (curP s)).badRows →
    rowInside (curStrand s) di (enabledLanes (curStrand s) g) r

theorem strandKept_advanced (x : Strand) (pc : BitVec 48) (preds : Bool) : StrandKept x (advanced x pc) pc preds :=
  ⟨rfl, fun _ _ _ hb => hb, fun _ _ _ => rfl, fun _ => rfl, rfl⟩

/-- An instruction that only goes on. -/
theorem computedFrame_advance (s : State) (g : Guard) (di : NameInfo) :
    ComputedFrame s (keepHub s (advance s)) g di := by
  refine ⟨(OnlyStrandAndRows.refl s).advance, ?_, fun _ _ => rfl, fun _ _ => rfl, fun _ h h' => absurd h h'⟩
  have h : strandAt (keepHub s (advance s)) s.cur = advanced (curStrand s) (nextPc s (curStrand s)) := strandAt_advance_cur s
  rw [h]
  exact strandKept_advanced ..

/-- The lanes of the write are the enabled ones wherever the destination has lanes. -/
theorem DstWritten.frame {s u : State} {g : Guard} {di : NameInfo} {lanes : List Nat} (h : DstWritten s u di lanes)
    (hl : di.kind = 1 → lanes = enabledLanes (curStrand s) g) (fl : BitVec 8) :
    ComputedFrame s (keepHub s (advance (setCur u fun t => setFlags t fl))) g di := by
  have hin (j : Nat) : inLanes (curStrand s) di lanes j ↔ inLanes (curStrand s) di (enabledLanes (curStrand s) g) j := by
    unfold inLanes
    constructor
    · rintro ⟨hk, hr⟩; exact ⟨hk, hl hk ▸ hr⟩
    · rintro ⟨hk, hr⟩; exact ⟨hk, (hl hk).symm ▸ hr⟩
  refine ⟨(h.only.setCur _).advance, ?_, h.ubank, fun j hj => h.lbank j (mt (hin j).mp hj), fun r hr hr' j hj => ?_⟩
  · rw [strandAt_advance_setCur h.only h.strands _ rfl]
    exact strandKept_setFlags ..
  · obtain ⟨h0, h1⟩ := h.healed r hr hr' j hj
    exact ⟨h0, fun hne => (hin _).mp (h1 hne)⟩

open Claims in
/-- The frame of computing instructions, on names of the row store. -/
theorem computed_frame {s t : State} {g : Guard} {cls : Cls} {static : Bool} {d : NameIx} {srcs : List NameIx}
    {di : NameInfo} {is : List NameInfo} {typesOk : NameInfo → List NameInfo → Bool}
    {f : NameInfo → List Src → Nat → LaneRes} (hd : nameInfo (curStrand s).map d = some di)
    (hi : infos (curStrand s) srcs = some is) (hrow : (di :: is).all rowName = true)
    (he : computed s g cls static d srcs typesOk f = .next t) : StopsShort s t ∨ ComputedFrame s t g di := by
  obtain ⟨hdi, his⟩ := (List.all_cons ..).symm.trans hrow |> Bool.and_eq_true_iff.mp
  simp only [computed, hd, hi] at he
  refine (gated_endsBare (P := fun u => ComputedFrame s (keepHub s u) g di) (computedFrame_advance s g di) ?_ he).imp_right
    fun ⟨u, hu, ht⟩ => ht ▸ hu
  intro lanes hst _ hl
  refine (readSrcs_endsBare his []).bind ?_
  rintro ⟨s', xs⟩ rfl
  refine (collect_endsBare lanes (f di xs)).bind ?_
  rintro ⟨vals, flags⟩ -
  refine (writeDst_endsBare lanes vals hdi).bind fun u hw => hw.frame (fun hk => ?_) flags
  cases cls with
  | uniform => simp [NameInfo.isLane, hk] at hst
  | lane => exact hl rfl

/-- What an instruction does is the frame of computing instructions, for some result. -/
def IsComputed (s : State) (g : Guard) (d : NameIx) (srcs : List NameIx) (o : Out) : Prop :=
  ∃ cls static typesOk f, o = computed s g cls static d srcs typesOk f

theorem isComputed (s : State) (g : Guard) (d : NameIx) (srcs : List NameIx) (cls : Cls) (static : Bool)
    (typesOk : NameInfo → List NameInfo → Bool) (f : NameInfo → List Src → Nat → LaneRes) :
    IsComputed s g d srcs (computed s g cls static d srcs typesOk f) := ⟨cls, static, typesOk, f, rfl⟩

theorem intBinary_isComputed (s : State) (g : Guard) (d a b : NameIx) (f : BitVec 3)
    (v : NameInfo → Src → Src → Nat → Int) : IsComputed s g d [a, b] (intBinary s g d a b f v) := isComputed ..

theorem divBinary_isComputed (s : State) (g : Guard) (d a b : NameIx) (f : BitVec 3) (v : Int → Int → Int) :
    IsComputed s g d [a, b] (divBinary s g d a b f v) := isComputed ..

theorem intImm_isComputed (s : State) (g : Guard) (d a : NameIx) (static : Bool) (v : NameInfo → Src → Nat → Int) :
    IsComputed s g d [a] (intImm s g d a static v) := isComputed ..

theorem fpBinary_isComputed (s : State) (g : Guard) (d a b : NameIx) (f : BitVec 3) (v : FVal → FVal → FVal × Bool) :
    IsComputed s g d [a, b] (fpBinary s g d a b f v) := isComputed ..

theorem fpPick_isComputed (s : State) (g : Guard) (d a b : NameIx) (max : Bool) :
    IsComputed s g d [a, b] (fpPick s g d a b max) := isComputed ..

open Claims in
/-- Every instruction that computes one name from names is that frame. -/
theorem exec_computes {i : Instr} {g : Guard} {d : NameIx} {srcs : List NameIx} (h : computes i = some (g, d, srcs))
    (s : State) : IsComputed s g d srcs (exec i s) := by
  cases i with
  | add => cases h; rw [exec_add, execAdd]; exact intBinary_isComputed ..
  | sub => cases h; rw [exec_sub, execSub]; exact intBinary_isComputed ..
  | mul => cases h; rw [exec_mul, execMul]; exact intBinary_isComputed ..
  | mulh => cases h; rw [exec_mulh, execMulh]; exact intBinary_isComputed ..
  | and => cases h; rw [exec_and, execAnd]; exact intBinary_isComputed ..
  | or => cases h; rw [exec_or, execOr]; exact intBinary_isComputed ..
  | xor => cases h; rw [exec_xor, execXor]; exact intBinary_isComputed ..
  | andn => cases h; rw [exec_andn, execAndn]; exact intBinary_isComputed ..
  | shl => cases h; rw [exec_shl, execShl]; exact intBinary_isComputed ..
  | shr => cases h; rw [exec_shr, execShr]; exact intBinary_isComputed ..
  | sha => cases h; rw [exec_sha, execSha]; exact intBinary_isComputed ..
  | min => cases h; rw [exec_min, execMin]; exact intBinary_isComputed ..
  | max => cases h; rw [exec_max, execMax]; exact intBinary_isComputed ..
  | absd => cases h; rw [exec_absd, execAbsd]; exact intBinary_isComputed ..
  | div => cases h; rw [exec_div, execDiv]; exact divBinary_isComputed ..
  | rem => cases h; rw [exec_rem, execRem]; exact divBinary_isComputed ..
  | fadd => cases h; rw [exec_fadd, execFadd]; exact fpBinary_isComputed ..
  | fsub => cases h; rw [exec_fsub, execFsub]; exact fpBinary_isComputed ..
  | fmul => cases h; rw [exec_fmul, execFmul]; exact fpBinary_isComputed ..
  | fmin => cases h; rw [exec_fmin, execFmin]; exact fpPick_isComputed ..
  | fmax => cases h; rw [exec_fmax, execFmax]; exact fpPick_isComputed ..
  | addi => cases h; rw [exec_addi, execAddi]; exact intImm_isComputed ..
  | muli => cases h; rw [exec_muli, execMuli]; exact intImm_isComputed ..
  | andi => cases h; rw [exec_andi, execAndi]; exact intImm_isComputed ..
  | ori => cases h; rw [exec_ori, execOri]; exact intImm_isComputed ..
  | xori => cases h; rw [exec_xori, execXori]; exact intImm_isComputed ..
  | shli => cases h; rw [exec_shli, execShli]; exact intImm_isComputed ..
  | shri => cases h; rw [exec_shri, execShri]; exact intImm_isComputed ..
  | shai => cases h; rw [exec_shai, execShai]; exact intImm_isComputed ..
  | mini => cases h; rw [exec_mini, execMini]; exact intImm_isComputed ..
  | maxi => cases h; rw [exec_maxi, execMaxi]; exact intImm_isComputed ..
  | rot => cases h; rw [exec_rot, execRot]; exact isComputed ..
  | sel => cases h; rw [exec_sel, execSel]; exact isComputed ..
  | vshuf => cases h; rw [exec_vshuf, execVshuf]; exact isComputed ..
  | mac => cases h; rw [exec_mac, execMac]; exact isComputed ..
  | ffma => cases h; rw [exec_ffma, execFfma]; exact isComputed ..
  | roti => cases h; rw [exec_roti, execRoti]; exact isComputed ..
  | mov => cases h; rw [exec_mov, execMov]; exact isComputed ..
  | ext => cases h; rw [exec_ext, execExt]; exact isComputed ..
  | bitc => cases h; rw [exec_bitc, execBitc]; exact isComputed ..
  | fcvt => cases h; rw [exec_fcvt, execFcvt]; exact isComputed ..
  | funOp => cases h; rw [exec_funOp, execFunOp]; exact isComputed ..
  | ins => cases h; rw [exec_ins, execIns]; exact isComputed ..
  | li => cases h; rw [exec_li, execLi]; exact isComputed ..
  | vidx => cases h; rw [exec_vidx, execVidx]; exact isComputed ..
  | lih => cases h; rw [exec_lih, execLih]; exact isComputed ..
  | _ => cases h

end Sys2Proof.Machine

section

open Sys2Proof Sys2Proof.Machine Sys2Proof.Claims

/-- Settles O52: the frame of computing instructions reads nothing away, and writes ND alone. -/
theorem computedInstructionsChangeOnlyTheirDestination : Obligations.ComputedInstructionsChangeOnlyTheirDestination := by
  intro i s t g d srcs di is hc hd hi hrow he
  obtain ⟨cls, static, typesOk, f, hx⟩ := exec_computes hc s
  refine (computed_frame hd hi hrow (hx ▸ he)).imp_right fun h => ?_
  exact ⟨h.only, h.strand, h.ubank, h.lbank, h.healed⟩

end

/-! ## What a compare leaves alone (R15, R16, R102, R111) -/

namespace Sys2Proof.Machine

theorem strandKept_preds {x y : Strand} (pc : BitVec 48)
    (hflags : ∀ i, 8 ≤ i → i < 16 → bitN y.pword.toNat i = bitN x.pword.toNat i)
    (hrest : { y with pword := x.pword, q := x.q } = x) : StrandKept x (advanced y pc) pc true := by
  refine ⟨rfl, fun i h8 h16 hb => (hflags i h8 h16).trans hb, nofun, nofun, ?_⟩
  have h := congrArg (fun z : Strand => { z with pc := x.pc, takes := x.takes, answer := x.answer, skipBrk := x.skipBrk })
    hrest
  exact (h :)

/-- What writing a predicate of a strand leaves alone: p`d`, or q`d` of some lanes. -/
structure PredWritten (x y : Strand) (cls : Cls) (lanes : List Nat) (d : Nat) : Prop where
  rest : { y with pword := x.pword, q := x.q } = x
  p    : cls = .lane → y.pword = x.pword
  q    : cls = .uniform → y.q = x.q
  bitP : ∀ k, k ≠ d → bitN y.pword.toNat k = bitN x.pword.toNat k
  bitQ : ∀ l k, k < 8 → k ≠ d ∨ l ∉ lanes → bitN y.q.toNat (8 * l + k) = bitN x.q.toNat (8 * l + k)

theorem setP_written (x : Strand) (lanes : List Nat) (d : Nat) (b : Bool) : PredWritten x (setP x d b) .uniform lanes d := by
  unfold setP
  split
  · exact ⟨rfl, fun _ => rfl, fun _ => rfl, fun _ _ => rfl, fun _ _ _ _ => rfl⟩
  · exact ⟨rfl, nofun, fun _ => rfl, fun k hk => bitN_bank_setFieldN _ (by omega), fun _ _ _ _ => rfl⟩

theorem setQs_written (x : Strand) (lanes : List Nat) (d : Nat) (hd : d < 8) (v : Nat → Bool) :
    PredWritten x (lanes.foldl (fun t l => setQ t l d (v l)) x) .lane lanes d := by
  induction lanes generalizing x with
  | nil => exact ⟨rfl, fun _ => rfl, fun _ => rfl, fun _ _ => rfl, fun _ _ _ _ => rfl⟩
  | cons m r ih =>
    obtain ⟨hrest, hp, _, hbp, hbq⟩ := ih (setQ x m d (v m))
    have hone : { setQ x m d (v m) with q := x.q } = x := by
      unfold setQ
      split <;> rfl
    have hpw : (setQ x m d (v m)).pword = x.pword := (congrArg Strand.pword hone :)
    have hq (l k : Nat) (hk : k < 8) (h : k ≠ d ∨ l ≠ m) :
        bitN (setQ x m d (v m)).q.toNat (8 * l + k) = bitN x.q.toNat (8 * l + k) := by
      unfold setQ
      split
      · rfl
      · exact bitN_bank_setFieldN _ (by omega)
    refine ⟨?_, fun hl => (hp hl).trans hpw, nofun, fun k hk => (hbp k hk).trans (by rw [hpw]), fun l k hk h => ?_⟩
    · have h1 := congrArg (fun z : Strand => { z with pword := x.pword, q := x.q }) hrest
      have h2 := congrArg (fun z : Strand => { z with pword := x.pword }) hone
      exact (h1 :).trans h2
    · refine (hbq l k hk (h.imp_right fun hm hr => hm (List.mem_cons_of_mem _ hr))).trans (hq l k hk ?_)
      exact h.imp_right fun hm he => hm (he ▸ List.mem_cons_self)

theorem writePred_eq (s : State) (cls : Cls) (lanes : List Nat) (d : Nat) (v : Nat → Bool) (hd : d < 8) :
    ∃ f : Strand → Strand, writePred s cls lanes d v = setCur s f ∧
      PredWritten (curStrand s) (f (curStrand s)) cls lanes d := by
  cases cls with
  | uniform => exact ⟨fun t => setP t d (v 0), rfl, setP_written ..⟩
  | lane => exact ⟨fun t => lanes.foldl (fun t l => setQ t l d (v l)) t, rfl, setQs_written _ lanes d hd v⟩

/-- What O53 asks of the state that a compare leaves, its hub aside. -/
structure ComparedFrame (s t : State) (g : Guard) (d : BitVec 3) (is : List NameInfo) : Prop where
  only   : OnlyStrandAndRows s t
  strand : StrandKept (curStrand s) (strandAt t s.cur) (nextPc s (curStrand s)) true
  cores  : t.cores = s.cores
  other  : if is.head?.any (·.isLane) then (strandAt t s.cur).pword = (curStrand s).pword
    else (strandAt t s.cur).q = (curStrand s).q
  bitP   : ∀ k, k < 16 → k = 0 ∨ k ≠ d.toNat → bitN (strandAt t s.cur).pword.toNat k = bitN (curStrand s).pword.toNat k
  bitQ   : ∀ l k, l < 16 → k < 8 → k = 0 ∨ k ≠ d.toNat ∨ l ∉ enabledLanes (curStrand s) g →
    bitN (strandAt t s.cur).q.toNat (8 * l + k) = bitN (curStrand s).q.toNat (8 * l + k)

theorem comparedFrame_advance (s : State) (g : Guard) (d : BitVec 3) (is : List NameInfo) :
    ComparedFrame s (keepHub s (advance s)) g d is := by
  have h : strandAt (keepHub s (advance s)) s.cur = advanced (curStrand s) (nextPc s (curStrand s)) := strandAt_advance_cur s
  refine ⟨(OnlyStrandAndRows.refl s).advance, ?_, rfl, ?_, ?_, ?_⟩
  · rw [h]; exact strandKept_advanced ..
  · rw [h]; split <;> rfl
  · rw [h]; exact fun _ _ _ => rfl
  · rw [h]; exact fun _ _ _ _ _ => rfl

/-- The class of a compare is that of its first source. -/
def compareCls (is : List NameInfo) : Cls := if is.head?.any (·.isLane) then .lane else .uniform

theorem PredWritten.frame {s : State} {g : Guard} {d : BitVec 3} {is : List NameInfo} {lanes : List Nat}
    {f : Strand → Strand} (h : PredWritten (curStrand s) (f (curStrand s)) (compareCls is) lanes d.toNat)
    (hd : d.toNat ≠ 0) (hl : compareCls is = .lane → lanes = enabledLanes (curStrand s) g) :
    ComparedFrame s (keepHub s (advance (setCur s f))) g d is := by
  obtain ⟨hrest, hp, hq, hbp, hbq⟩ := h
  have hpc : (f (curStrand s)).pc = (curStrand s).pc := (congrArg Strand.pc hrest :)
  have hs := strandAt_advance_setCur (OnlyStrandAndRows.refl s) rfl f hpc
  have hd8 : d.toNat < 8 := d.isLt
  refine ⟨((OnlyStrandAndRows.refl s).setCur f).advance, ?_, rfl, ?_, fun k _ hk => ?_, fun l k _ hk hor => ?_⟩
  · rw [hs]
    exact strandKept_preds _ (fun i h8 _ => hbp i (by omega)) hrest
  · rw [hs]
    split
    · next hc => exact hp (if_pos hc)
    · next hc => exact hq (if_neg hc)
  · rw [hs]
    exact hbp k (by omega)
  · rw [hs]
    cases hcls : compareCls is with
    | uniform => exact congrArg (fun z => bitN (BitVec.toNat z) (8 * l + k)) (hq hcls)
    | lane =>
      refine hbq l k hk ?_
      rw [hl hcls]
      rcases hor with h0 | h
      · exact .inl (by omega)
      · exact h

/-- A compare whose sources are declared, by its class. -/
theorem compared_eq {s : State} {srcs : List NameIx} {is : List NameInfo} (g : Guard) (d : Nat)
    (typesOk : List NameInfo → Bool) (f : List Src → Nat → Bool) (hi : infos (curStrand s) srcs = some is) :
    ∃ kinds, compared s g d srcs typesOk f =
      gated s (compareCls is) g (d != 0 && kinds && typesOk is) false (fun lanes => (do
        let (s', xs) ← readSrcs s is []
        .ok (advance (writePred s' (compareCls is) lanes d (f xs))))) := by
  cases is with
  | nil => simp only [compared, hi]; exact ⟨_, rfl⟩
  | cons i r =>
    have hc : compareCls (i :: r) = if i.isLane then .lane else .uniform := rfl
    simp only [compared, hi, hc]
    exact ⟨_, rfl⟩

open Claims in
/-- The frame of compares, on names of the row store. -/
theorem compared_frame {s t : State} {g : Guard} {d : BitVec 3} {srcs : List NameIx} {is : List NameInfo}
    {typesOk : List NameInfo → Bool} {f : List Src → Nat → Bool} (hi : infos (curStrand s) srcs = some is)
    (hrow : is.all rowName = true) (he : compared s g d.toNat srcs typesOk f = .next t) :
    StopsShort s t ∨ ComparedFrame s t g d is := by
  obtain ⟨kinds, hc⟩ := compared_eq g d.toNat typesOk f hi
  rw [hc] at he
  refine (gated_endsBare (P := fun u => ComparedFrame s (keepHub s u) g d is) (comparedFrame_advance s g d is) ?_ he).imp_right
    fun ⟨u, hu, ht⟩ => ht ▸ hu
  intro lanes hst _ hl
  refine (readSrcs_endsBare hrow []).bind ?_
  rintro ⟨s', xs⟩ rfl
  have hd : d.toNat ≠ 0 := by
    simp only [Bool.and_eq_true, bne_iff_ne] at hst
    exact hst.1.1
  obtain ⟨p, hp, hw⟩ := writePred_eq s' (compareCls is) lanes d.toNat (f xs) d.isLt
  have hbody := hw.frame hd hl
  rw [← hp] at hbody
  exact hbody

open Claims in
/-- Every compare is that frame. -/
theorem exec_comparesTo {i : Instr} {g : Guard} {d : BitVec 3} {srcs : List NameIx}
    (h : comparesTo i = some (g, d, srcs)) (s : State) :
    ∃ typesOk f, exec i s = compared s g d.toNat srcs typesOk f := by
  cases i with
  | cmp => cases h; rw [exec_cmp, execCmp]; exact ⟨_, _, rfl⟩
  | fcmp => cases h; rw [exec_fcmp, execFcmp]; exact ⟨_, _, rfl⟩
  | cmpi => cases h; rw [exec_cmpi, execCmpi]; exact ⟨_, _, rfl⟩
  | _ => cases h

end Sys2Proof.Machine

section

open Sys2Proof Sys2Proof.Machine Sys2Proof.Claims

/-- Settles O53: the frame of compares writes one predicate. -/
theorem comparesChangeOnlyTheirPredicate : Obligations.ComparesChangeOnlyTheirPredicate := by
  intro i s t g d srcs is hc hi hrow he
  obtain ⟨typesOk, f, hx⟩ := exec_comparesTo hc s
  refine (compared_frame hi hrow (hx ▸ he)).imp_right fun h => ?_
  have hcore : coreAt t (curP s) = coreAt s (curP s) := by rw [coreAt, coreAt, h.cores]
  refine ⟨h.only, h.strand, ?_, ?_, ?_, h.other, h.bitP, h.bitQ⟩ <;> rw [hcore]

end

/-! ## The bytes that loads and stores change (R46, R165-R167) -/

namespace Sys2Proof.Machine

theorem ok_bind {α β : Type} (a : α) (f : α → Res β) : ((Except.ok a : Res α) >>= f) = f a := rfl

open Claims in
/-- A step of a body that ends bare: the instruction stops short, or goes on from what the step gives. -/
theorem finish_bind_bare {α : Type} {P : α → Prop} {s t : State} {r : Res α} {f : α → Res State} (h : EndsBare P r)
    (he : finish s (r >>= f) = .next t) : StopsShort s t ∨ ∃ a, P a ∧ r = .ok a ∧ finish s (f a) = .next t := by
  cases r with
  | ok a => exact .inr ⟨a, h, rfl, he⟩
  | error e =>
    cases he
    cases e with
    | trap c v k => cases h; exact .inl (.inl ⟨c, v, rfl⟩)
    | park w k => cases h; exact .inl (.inr ⟨w, rfl⟩)

/-! ### What keeps memory -/

@[simp] theorem fireMonitors_mem (s : State) (w : Option Nat) (lo hi : Nat) : (fireMonitors s w lo hi).mem = s.mem := by
  dsimp only [fireMonitors]
  refine (foldl_keeps State.mem _ (fun a h => ?_) _ _).trans ?_
  · rfl
  · split <;> rfl

@[simp] theorem wakeEntries_mem (s : State) (pa n : Nat) : (wakeEntries s pa n).mem = s.mem := by
  dsimp only [wakeEntries]
  refine (foldl_keeps State.mem _ (fun a e => ?_) _ _).trans (wakeWhere_keeps State.mem wake_mem s _)
  split
  · split <;> rfl
  · rfl

theorem storePhys_mem (s : State) (w : Option Nat) (pa n v : Nat) : (storePhys s w pa n v).mem = memWrite s.mem pa n v := by
  dsimp only [storePhys]
  split
  · rfl
  · rw [wakeEntries_mem, fireMonitors_mem]

@[simp] theorem emptyWord_mem (s : State) (pa : Nat) : (emptyWord s pa).mem = s.mem :=
  (wakeNames_mem ..).trans rfl

@[simp] theorem progressCur_mem (s : State) : (progressCur s).mem = s.mem := rfl

@[simp] theorem countPlace_mem (s : State) (c asid va pa : Nat) (wrote : Bool) : (countPlace s c asid va pa wrote).mem = s.mem := by
  unfold countPlace
  split <;> rfl

@[simp] theorem countTouch_mem (s : State) (y : Touch) (wrote : Bool) : (countTouch s y wrote).mem = s.mem := by
  unfold countTouch
  split
  · exact countPlace_mem ..
  · rfl

theorem takeInbox_mem {s s' : State} {p n v : Nat} (h : takeInbox s p n = .ok (s', v)) : s'.mem = s.mem := by
  dsimp only [takeInbox] at h
  split at h
  · cases h
  · cases h
    exact wakeWhere_keeps State.mem wake_mem _ _

theorem popInQueue_mem {s s' : State} {p n v : Nat} (h : popInQueue s p n = .ok (s', v)) : s'.mem = s.mem := by
  dsimp only [popInQueue] at h
  split at h
  · cases h; rfl
  · split at h <;> cases h

theorem readStream_mem {s s' : State} {p n w : Nat} {vs : List Nat} (h : readStream s p n w = .ok (s', vs)) :
    s'.mem = s.mem := by
  dsimp only [readStream] at h
  split at h
  · cases h
  · split at h
    · cases h
    · split at h
      · cases h
      · cases h
        exact foldl_keeps State.mem _ emptyWord_mem _ _

/-- Reading a source changes no byte. -/
theorem readSrc_mem {s s' : State} {i : NameInfo} {x : Src} (h : readSrc s i = .ok (s', x)) : s'.mem = s.mem := by
  dsimp only [readSrc] at h
  split at h
  · obtain ⟨⟨u, v⟩, hu, he⟩ := map_ok h; cases he; exact takeInbox_mem hu
  · obtain ⟨⟨u, v⟩, hu, he⟩ := map_ok h; cases he; exact popInQueue_mem hu
  · obtain ⟨⟨u, v⟩, hu, he⟩ := map_ok h; cases he; exact readStream_mem hu
  · split at h
    · cases h
    · split at h <;> cases h
      rfl

theorem readSrcs_mem {is : List NameInfo} {s s' : State} {acc xs : List Src} (h : readSrcs s is acc = .ok (s', xs)) :
    s'.mem = s.mem := by
  induction is generalizing s acc with
  | nil => cases h; rfl
  | cons i r ih =>
    unfold readSrcs at h
    split at h
    · exact ih h
    · split at h
      · next hx => exact (ih h).trans (readSrc_mem hx)
      · cases h

/-! ### Through the near windows the checks change nothing -/

theorem passOne_near {s : State} {grp : Grp} {n ea : Nat} {o : Option Target} (hn : isNear ea = true)
    (h : passOne s grp n ea = .ok o) : o.isSome = true := by
  simp only [passOne, hn, if_true] at h
  split at h
  · cases h
  · obtain ⟨t1, -, h⟩ := bind_ok h
    obtain ⟨t2, -, h⟩ := bind_ok h
    cases h
    rfl

theorem firstPass_near {s : State} {grp : Grp} {n : Nat} {eas : List (Nat × Nat)} {firsts : List (Nat × Nat × Option Target)}
    (hn : ∀ e ∈ eas, isNear e.2 = true)
    (h : (eas.mapM fun e => (passOne s grp n e.2).map fun t => (e.1, e.2, t)) = .ok firsts) :
    ∀ f ∈ firsts, f.2.2.isSome = true := by
  induction eas generalizing firsts with
  | nil => cases h; nofun
  | cons e r ih =>
    rw [List.mapM_cons] at h
    obtain ⟨f, hf, h⟩ := bind_ok h
    obtain ⟨fs, hfs, h⟩ := bind_ok h
    cases h
    obtain ⟨o, ho, rfl⟩ := map_ok hf
    intro g hg
    rcases List.mem_cons.mp hg with rfl | hg
    · exact passOne_near (hn e List.mem_cons_self) ho
    · exact ih (fun e he => hn e (List.mem_cons_of_mem _ he)) hfs g hg

theorem foldlM_keeps {σ α ε : Type} {f : σ → α → Except ε σ} (P : σ → Prop) {l : List α} {s t : σ}
    (hf : ∀ s a, a ∈ l → P s → ∀ t, f s a = .ok t → P t) (hs : P s) (h : l.foldlM f s = .ok t) : P t := by
  induction l generalizing s with
  | nil => cases h; exact hs
  | cons a r ih =>
    rw [List.foldlM_cons] at h
    obtain ⟨u, hu, h⟩ := bind_ok h
    exact ih (fun s b hb => hf s b (List.mem_cons_of_mem _ hb)) (hf s a List.mem_cons_self hs u hu) h

theorem checkAll_near {s0 s s2 : State} {grp : Grp} {accs : List Access} {n code : Nat} {eas : List (Nat × Nat)}
    {ts : List Touch} (hn : ∀ e ∈ eas, isNear e.2 = true) (h : checkAll s0 s grp accs n code eas = .ok (s2, ts)) :
    s2 = s := by
  unfold checkAll at h
  obtain ⟨firsts, hf, h⟩ := bind_ok h
  refine foldlM_keeps (fun x : State × List Touch => x.1 = s) (fun x f hm hx y hy => ?_) rfl h
  have hsome := firstPass_near hn hf f hm
  split at hy
  · cases hy; exact hx
  · next hnone => rw [hnone] at hsome; cases hsome

/-! ### Reads and writes of memory -/

/-- Every access of a list reaches memory. -/
def AllMem (ts : List Touch) : Prop := ∀ y ∈ ts, ∃ pa leaf, y.tgt = .mem pa leaf

theorem AllMem.tail {y : Touch} {ts : List Touch} (h : AllMem (y :: ts)) : AllMem ts :=
  fun z hz => h z (List.mem_cons_of_mem _ hz)

theorem AllMem.noPush {ts : List Touch} (h : AllMem ts) : ts.any isPush = false := by
  rw [List.any_eq_false]
  intro y hy
  obtain ⟨pa, leaf, ht⟩ := h y hy
  simp [isPush, ht]

theorem homeWrite_mem_outside {s : State} {w : PendWrite} (hf : w.fill = false) {b : Nat} (hb : b < w.pa ∨ w.pa + w.n ≤ b) :
    memGet (homeWrite s w).mem b = memGet s.mem b := by
  unfold homeWrite
  split
  · rfl
  · split
    · rfl
    · simp only [applyWrite, hf, Bool.false_eq_true, if_false, storePhys_mem]
      exact memGet_memWrite_outside _ _ _ _ _ hb

open Claims in
/-- Stores to memory change no byte but their own. -/
theorem writeTouches_mem_outside {ts : List Touch} (h : AllMem ts) {n b : Nat} (hb : Untouched ts n b) (vals : Nat → Nat)
    (s : State) : EndsBare (fun u => memGet u.mem b = memGet s.mem b) (writeTouches (plainWrite n) vals s ts) := by
  induction ts generalizing s with
  | nil => exact rfl
  | cons y r ih =>
    obtain ⟨pa, leaf, hy⟩ := h y List.mem_cons_self
    have hout := hb y List.mem_cons_self pa leaf hy
    simp only [writeTouches, plainWrite, writeTouch, hy, bind, Except.bind]
    refine (ih h.tail (fun z hz => hb z (List.mem_cons_of_mem _ hz)) _).mono fun u hu => hu.trans ?_
    refine (homeWrite_mem_outside rfl hout).trans ?_
    rw [countTouch_mem]

theorem readTouches_mem {ts : List Touch} (h : AllMem ts) (n : Nat) (s : State) :
    EndsBare (fun r => r.1.mem = s.mem) (readTouches n s ts) := by
  induction ts generalizing s with
  | nil => exact rfl
  | cons y r ih =>
    obtain ⟨pa, leaf, hy⟩ := h y List.mem_cons_self
    simp only [readTouches, readTouch, hy, bind, Except.bind]
    have hr := ih h.tail (countTouch s y false)
    split
    · next e he => rw [he] at hr; cases e <;> exact hr
    · next v he =>
      rw [he] at hr
      exact hr.trans (countTouch_mem ..)

theorem pushOutQueue_mem (s : State) (p n v : Nat) : EndsBare (fun u => u.mem = s.mem) (pushOutQueue s p n v) := by
  dsimp only [pushOutQueue]
  split
  · split
    · exact endsBare_parkNow ..
    · exact endsBare_trapNow ..
  · show State.mem _ = _
    split <;> rfl

/-- Writing a name that is no stream changes no byte of memory. -/
theorem writeDst_mem {s : State} {i : NameInfo} (h5 : i.kind ≠ 5) (lanes : List Nat) (vals : Nat → Nat) :
    EndsBare (fun u => u.mem = s.mem) (writeDst s i lanes vals) := by
  unfold writeDst
  split
  · exact rfl
  · exact pushOutQueue_mem ..
  · next h => exact absurd h h5
  · dsimp only [writeRows]
    split
    · exact endsBare_parkNow ..
    · split
      · exact endsBare_trapNow ..
      · exact rfl

theorem readable_endsBare (s : State) (ts : List Touch) (n : Nat) : EndsBare (fun _ => True) (readable s ts n) := by
  unfold readable
  split
  · exact endsBare_trapNow ..
  · trivial

theorem overwritable_endsBare (s : State) (ts : List Touch) (n : Nat) : EndsBare (fun _ => True) (overwritable s ts n) := by
  dsimp only [overwritable]
  split
  · exact endsBare_trapNow ..
  · trivial

theorem stateGuard_endsBare (s : State) (n : Nat) (ts : List Touch) : EndsBare (fun _ => True) (stateGuard s n ts) := by
  unfold stateGuard
  split
  · exact endsBare_trapNow ..
  · trivial

theorem unlocked_endsBare (s : State) (ds : List NameInfo) : EndsBare (fun _ => True) (unlocked s ds) := by
  unfold unlocked
  split
  · exact endsBare_parkNow ..
  · trivial

end Sys2Proof.Machine

namespace Sys2Proof.Claims

open Sys2Proof.Machine

theorem accessEnd_mem (s u : State) (far : Bool) : (accessEnd s u far).mem = u.mem := by
  unfold accessEnd
  split
  · split <;> rfl
  · rfl

theorem finish_endAccess_mem {s t u : State} {far : Bool} (h : finish s (endAccess s u far) = .next t) : t.mem = u.mem := by
  rw [endAccess_finish] at h
  cases h
  exact accessEnd_mem ..

/-- What comes before the writes of a store that is no release changes no byte. -/
theorem storePre_mem {x : MemForm} (h : x.releases = false) (s : State) :
    EndsBare (fun u => u.mem = s.mem) (x.storePre s) := by
  cases x with
  | ordered sc o z =>
    show EndsBare _ (orderedPre sc o s)
    unfold orderedPre
    split
    · exact rfl
    · split
      · exact rfl
      · simp_all [MemForm.releases]
  | _ => exact rfl

end Sys2Proof.Claims

section

open Sys2Proof Sys2Proof.Machine Sys2Proof.Claims

/-- Settles O54: every step of a load or store ends bare, and says what it does to memory. -/
theorem storesChangeOnlyTheirBytes : Obligations.StoresChangeOnlyTheirBytes := by
  intro s s1 s2 s3 t g x write d a di is lanes xs eas ts ha hmem
  have hall : AllMem ts := hmem
  obtain ⟨he, hd, hi, hk, hsz, hl, hc, hr, hp, hch⟩ := ha
  refine ⟨fun hnear => ?_, ?_, ?_⟩
  · rw [checkAll_near hnear hch]
    exact readSrcs_mem hr
  · rintro rfl hrel hx
    rw [or_iff_not_imp_left]
    intro hshort b hb
    rw [exec_store] at hx
    dsimp only [storeOp] at hx
    rw [hd, hi] at hx
    dsimp only at hx
    rw [gated_enabled he (legal_static hl hc (by simp_all)) (by simp)] at hx
    subst hp
    simp only [if_true] at hr hch
    simp only [hr, hch, hall.noPush, ok_bind, Bool.false_eq_true, if_false] at hx
    obtain ⟨_, -, -, hx⟩ := (finish_bind_bare (stateGuard_endsBare ..) hx).resolve_left hshort
    obtain ⟨_, -, -, hx⟩ := (finish_bind_bare (overwritable_endsBare ..) hx).resolve_left hshort
    obtain ⟨⟨vals, fl⟩, -, -, hx⟩ := (finish_bind_bare (collect_endsBare ..) hx).resolve_left hshort
    obtain ⟨u, hu, -, hx⟩ := (finish_bind_bare (storePre_mem hrel s2) hx).resolve_left hshort
    obtain ⟨v, hv, -, hx⟩ := (finish_bind_bare (writeTouches_mem_outside hall hb vals u) hx).resolve_left hshort
    rw [finish_endAccess_mem hx, setCur_mem, hv, hu]
  · rintro rfl h5 hpre hx
    rw [or_iff_not_imp_left]
    intro hshort b
    rw [exec_load] at hx
    dsimp only [loadOp] at hx
    rw [hd, hi] at hx
    dsimp only at hx
    rw [gated_enabled he (legal_static hl hc (by simp_all)) (by simp)] at hx
    subst hp
    simp only [Bool.false_eq_true, if_false] at hr hch hx
    simp only [hr, ok_bind] at hx
    obtain ⟨_, -, -, hx⟩ := (finish_bind_bare (unlocked_endsBare ..) hx).resolve_left hshort
    simp only [hch, ok_bind] at hx
    obtain ⟨_, -, -, hx⟩ := (finish_bind_bare (readable_endsBare ..) hx).resolve_left hshort
    simp only [loadPre_eq_ok hpre, ok_bind] at hx
    obtain ⟨⟨u, vs⟩, hu, -, hx⟩ := (finish_bind_bare (readTouches_mem hall x.size s3) hx).resolve_left hshort
    obtain ⟨⟨vals, fl⟩, -, -, hx⟩ := (finish_bind_bare (collect_endsBare ..) hx).resolve_left hshort
    obtain ⟨v, hv, -, hx⟩ := (finish_bind_bare (writeDst_mem h5 lanes vals) hx).resolve_left hshort
    rw [finish_endAccess_mem hx, setCur_mem]
    have hacq : (if x.acquires = true then progressCur v else v).mem = v.mem := by split <;> rfl
    rw [hacq, hv, hu]

end

/-! ## Integer and floating-point results of the other computing instructions (R84-R99, R109-R112) -/

namespace Sys2Proof.Machine

open Sys2Proof.Claims

theorem truncDiv_eq (x y : Int) : truncDiv x y = Int.tdiv x y := rfl

theorem tmod_eq (x y : Int) : x - y * truncDiv x y = Int.tmod x y := by
  rw [truncDiv_eq, Int.tmod_def]

theorem writes_congr {i : Instr} {s s1 : State} {di : NameInfo} {lanes : List Nat} {f f' : Nat → LaneRes}
    (h : Writes i s s1 di lanes f) (hf : ∀ l, f l = f' l) : Writes i s s1 di lanes f' := funext hf ▸ h

/-- The result of a lane of DIV or REM. -/
theorem divBinary_writes {i : Instr} {s s1 : State} {g : Guard} {d a b : NameIx} {f : BitVec 3} {di : NameInfo}
    {is : List NameInfo} {lanes : List Nat} {xs : List Src} {v : Int → Int → Int}
    (hi : exec i s = divBinary s g d a b f v) (hr : ComputeReady s g (clsD s d) d [a, b] di is lanes s1 xs)
    (hf : f.toNat < 4) (ht : allInt (di :: is) = true) :
    Writes i s s1 di lanes fun l => if (nth xs 1).int l = 0 then .error (4, zpat ((nth xs 0).int l) 64)
      else fitInt di (modeOf f.toNat di) (v ((nth xs 0).int l) ((nth xs 1).int l)) :=
  computed_writes hi hr (decide_eq_true hf) ht

theorem intImm_writes {i : Instr} {s s1 : State} {g : Guard} {d a : NameIx} {ok : Bool} {di : NameInfo}
    {is : List NameInfo} {lanes : List Nat} {xs : List Src} {v : NameInfo → Src → Nat → Int}
    (hi : exec i s = intImm s g d a ok v) (hr : ComputeReady s g (clsD s d) d [a] di is lanes s1 xs)
    (hok : ok = true) (ht : allInt (di :: is) = true) :
    Writes i s s1 di lanes fun l => fitInt di di.mode (v di (nth xs 0) l) :=
  computed_writes hi hr hok ht

/-- A trap with DIVZERO in the lowest lane is that of the whole. -/
theorem collect_divZero {l : Nat} {lanes : List Nat} {f : Nat → LaneRes} {v : Nat} (h : f l = .error (cDIVZERO, v)) :
    collect (l :: lanes) f = trapNow cDIVZERO v := by
  simp [collect, List.filterMap_cons, h]

theorem divBinary_traps {i : Instr} {s s1 : State} {g : Guard} {d a b : NameIx} {f : BitVec 3} {di : NameInfo}
    {is : List NameInfo} {l : Nat} {lanes : List Nat} {xs : List Src} {v : Int → Int → Int}
    (hi : exec i s = divBinary s g d a b f v) (hr : ComputeReady s g (clsD s d) d [a, b] di is (l :: lanes) s1 xs)
    (hf : f.toNat < 4) (ht : allInt (di :: is) = true) (h0 : (nth xs 1).int l = 0) :
    TrapsWith i s cDIVZERO (zpat ((nth xs 0).int l) 64) := by
  rw [TrapsWith, hi, divBinary]
  refine (computed_ready hr (decide_eq_true hf) ht).trans ?_
  rw [collect_divZero (if_pos h0)]
  rfl

/-- Whether an immediate operation takes its immediate: a shift count is at most 63. -/
def immOpOk (o : ImmOp) (i : Imm 9) : Bool := !o.isShift || countOk i

/-- The result of an immediate operation as the model's frame finds it. -/
def immOpValue (o : ImmOp) (i : Imm 9) (x : Src) (l : Nat) : Int :=
  match o with
  | .shli => x.int l * (2 : Int) ^ (immUnsigned i % 64)
  | .shri => (x.pat l : Int) / (2 : Int) ^ (immUnsigned i % 64)
  | .shai => x.int l / (2 : Int) ^ (immUnsigned i % 64)
  | .mini => if x.int l ≤ immSigned i then x.int l else immSigned i
  | .maxi => if x.int l ≤ immSigned i then immSigned i else x.int l
  | .addi => x.int l + immSigned i
  | .muli => x.int l * immSigned i
  | .andi => intBits (· &&& ·) (x.int l) (immUnsigned i)
  | .ori => intBits (· ||| ·) (x.int l) (immUnsigned i)
  | .xori => intBits (· ^^^ ·) (x.int l) (immUnsigned i)

/-- Each immediate instruction is the fitting frame. -/
theorem exec_immOp (o : ImmOp) (i : Imm 9) (g : Guard) (d a : NameIx) (s : State) :
    exec (o.instr g d a i) s = intImm s g d a (immOpOk o i) fun _ x l => immOpValue o i x l := by
  cases o with
  | addi => exact exec_addi s
  | muli => exact exec_muli s
  | andi => exact exec_andi s
  | ori => exact exec_ori s
  | xori => exact exec_xori s
  | mini => exact exec_mini s
  | maxi => exact exec_maxi s
  | shli => exact exec_shli s
  | shri => exact exec_shri s
  | shai => exact exec_shai s

/-- With a count of at most 63 the frame's result is the exact one. -/
theorem immOpValue_eq {o : ImmOp} {i : Imm 9} (ho : o.isShift = true → immUnsigned i ≤ 63) (x : Src) (l : Nat) :
    immOpValue o i x l = o.exact (x.int l) (x.pat l) (immSigned i) (immUnsigned i) := by
  have hmod (h : o.isShift = true) : immUnsigned i % 64 = immUnsigned i := Nat.mod_eq_of_lt (by have := ho h; omega)
  cases o with
  | shli => simp only [immOpValue, hmod rfl, ImmOp.exact]
  | shri => simp [immOpValue, hmod rfl, ImmOp.exact]
  | shai => simp only [immOpValue, hmod rfl, ImmOp.exact, Int.fdiv_eq_ediv_of_nonneg _ (Int.pow_nonneg (by decide : (0 : Int) ≤ 2))]
  | mini => exact (min_def _ _).symm
  | maxi => exact (max_def _ _).symm
  | _ => rfl

/-- A count above 63 is a failed static check. -/
theorem exec_shift_traps {o : ImmOp} {i : Imm 9} (ho : o.isShift = true) (hi : 63 < immUnsigned i) (g : Guard)
    (d a : NameIx) (s : State) : TrapsWith (o.instr g d a i) s 1 s.ir.word.toNat := by
  have hc : immOpOk o i = false := by simp [immOpOk, ho, countOk, hi]
  exact (exec_immOp o i g d a s).trans (computed_illegal hc)

end Sys2Proof.Machine

section

open Sys2Proof Sys2Proof.Machine Sys2Proof.Claims

/-- Settles O2: each is a computed instruction, whose lanes' results are its exact value fitted. -/
theorem macRotateAndDivideResults : Obligations.MacRotateAndDivideResults := by
  intro s g d a b f di is lanes s1 xs hf ht
  refine ⟨fun hr hd => ?_, fun hr => ⟨?_, ?_, ?_⟩⟩
  · have hx : exec (.mac g d a b f) s = _ := exec_mac s
    rw [execMac] at hx
    exact computed_writes hx hr (decide_eq_true hf) (by simp [ht, hd])
  · have hx : exec (.rot g d a b f) s = _ := exec_rot s
    rw [execRot] at hx
    exact computed_writes hx hr (decide_eq_true hf) ht
  · exact divBinary_writes (exec_div s) hr hf ht
  · refine writes_congr (divBinary_writes (exec_rem s) hr hf ht) fun l => ?_
    simp only [tmod_eq]

/-- Settles O3: the lowest enabled lane's result is DIVZERO, which stops the write. -/
theorem zeroDivisorTrapsDivzero : Obligations.ZeroDivisorTrapsDivzero := by
  intro s g d a b f di is l lanes s1 xs hr hf ht h0
  exact ⟨divBinary_traps (exec_div s) hr hf ht h0, divBinary_traps (exec_rem s) hr hf ht h0⟩

/-- Settles O4: each immediate form is a computed instruction, and a shift count is checked before. -/
theorem immediateFormsResults : Obligations.ImmediateFormsResults := by
  intro s g d a i di is lanes s1 xs hr ht
  have hx : exec (.roti g d a i) s = _ := exec_roti s
  rw [execRoti] at hx
  refine ⟨fun o ho => ?_, fun hi => ?_, fun hi => ⟨?_, fun o ho => exec_shift_traps ho hi g d a s⟩⟩
  · have hok : immOpOk o i = true := by simpa [immOpOk, countOk, or_iff_not_imp_left] using ho
    exact writes_congr (intImm_writes (exec_immOp o i g d a s) hr hok ht) fun l => by rw [immOpValue_eq ho]
  · refine writes_congr (computed_writes hx hr (decide_eq_true hi) ht) fun l => ?_
    rw [Nat.mod_eq_of_lt (by omega)]
  · exact hx.trans (computed_illegal (decide_eq_false (by omega)))

/-- Settles O5: each is a computed instruction with its own value per lane. -/
theorem movesFieldsAndCountsResults : Obligations.MovesFieldsAndCountsResults := by
  intro s g d a b i f p di is lanes s1 xs
  refine ⟨fun hr hi => ?_, fun hr hi hd hu => ?_, fun hr hs => ?_, fun hr hf => ⟨fun hs => ?_, fun ht => ⟨?_, ?_⟩⟩,
    fun hr ht hd => ?_⟩
  · have hx : exec (.li g d i) s = _ := exec_li s
    rw [execLi] at hx
    exact computed_writes hx hr rfl hi
  · have hx : exec (.lih g d i) s = _ := exec_lih s
    rw [execLih] at hx
    exact computed_writes hx hr (decide_eq_true hu) (by simp [hi, hd])
  · have hx : exec (.sel g d a b f) s = _ := exec_sel s
    rw [execSel] at hx
    refine writes_congr (computed_writes hx hr rfl hs) fun l => ?_
    simp only [Bool.or_eq_true, decide_eq_true_eq]
    rfl
  · have hx : exec (.mov g d a f) s = _ := exec_mov s
    rw [execMov] at hx
    exact computed_writes hx hr (decide_eq_true hf) hs
  · have hx : exec (.ext g d a p) s = _ := exec_ext s
    rw [execExt] at hx
    refine writes_congr (computed_writes hx hr rfl ht) fun l => ?_
    rw [Int.fdiv_eq_ediv_of_nonneg _ (by positivity)]
  · have hx : exec (.bitc g d a f) s = _ := exec_bitc s
    rw [execBitc] at hx
    exact computed_writes hx hr (decide_eq_true hf) ht
  · have hx : exec (.ins g d a p) s = _ := exec_ins s
    rw [execIns] at hx
    exact computed_writes hx hr rfl (by simp [ht, hd])

/-- Settles O6: each is a computed instruction whose value is exact, then fitted once. -/
theorem floatingPointResultsRoundOnce : Obligations.FloatingPointResultsRoundOnce := by
  intro s g d a b f di is lanes s1 xs
  refine ⟨fun hr ht => ⟨fun hf => ⟨?_, ?_, ?_⟩, ?_, ?_⟩, fun hr ht hd hf => ?_,
    fun hr => ⟨fun ht hf => ?_, fun ht hf => ?_⟩⟩
  · have hx : exec (.fadd g d a b f) s = _ := exec_fadd s
    rw [execFadd, fpBinary] at hx
    exact computed_writes hx hr (decide_eq_true hf) ht
  · have hx : exec (.fsub g d a b f) s = _ := exec_fsub s
    rw [execFsub, fpBinary] at hx
    exact computed_writes hx hr (decide_eq_true hf) ht
  · have hx : exec (.fmul g d a b f) s = _ := exec_fmul s
    rw [execFmul, fpBinary] at hx
    exact computed_writes hx hr (decide_eq_true hf) ht
  · have hx : exec (.fmin g d a b) s = _ := exec_fmin s
    rw [execFmin, fpPick] at hx
    exact computed_writes hx hr rfl ht
  · have hx : exec (.fmax g d a b) s = _ := exec_fmax s
    rw [execFmax, fpPick] at hx
    exact computed_writes hx hr rfl ht
  · have hx : exec (.ffma g d a b f) s = _ := exec_ffma s
    rw [execFfma] at hx
    exact computed_writes hx hr (decide_eq_true hf) (by simp [ht, hd])
  · have hx : exec (.funOp g d a f) s = _ := exec_funOp s
    rw [execFunOp] at hx
    exact computed_writes hx hr (decide_eq_true hf) ht
  · have hx : exec (.fcvt g d a f) s = _ := exec_fcvt s
    rw [execFcvt] at hx
    exact computed_writes hx hr (decide_eq_true hf) ht

end

section

open Sys2Proof Sys2Proof.Machine Sys2Proof.Claims

/-- Settles O7: each compare is the comparing frame. -/
theorem comparesWritePredicates : Obligations.ComparesWritePredicates := by
  intro s g c d f a b i cls ai is lanes s1 xs srcs hi hk hd hcls hu he hr
  have hd' : d.toNat ≠ 0 := fun h => hd (BitVec.eq_of_toNat_eq h)
  refine ⟨?_, ?_, ?_⟩
  · rintro rfl ht
    rw [exec_cmp, execCmp]
    exact compared_ready hi hk hd' hcls hu he hr ht
  · rintro rfl ht
    rw [exec_fcmp, execFcmp]
    exact compared_ready hi hk hd' hcls hu he hr ht
  · rintro rfl ht
    rw [exec_cmpi, execCmpi]
    exact compared_ready hi hk hd' hcls hu he hr ht

end

/-! ## Lane transfer to uniform names (R49, R113-R115) -/

namespace Sys2Proof.Machine

open Sys2Proof.Claims

/-- The frame of instructions that move lanes to a uniform name, once one may run. -/
theorem laneToUniform_ready {s s1 : State} {g : Guard} {static : Bool} {d : NameIx} {srcs : List NameIx} {di : NameInfo}
    {is : List NameInfo} {lanes : List Nat} {xs : List Src} {ok : NameInfo → List NameInfo → Bool}
    {body : State → NameInfo → List Src → List Nat → Res State} (hr : LaneToUniformReady s g d srcs di is lanes s1 xs)
    (hs : static = true) (ht : ok di is = true) :
    laneToUniform s g static d srcs ok body = finish s (body s1 di xs lanes >>= fun u => .ok (advance u)) := by
  obtain ⟨he, hd, hi, hdk, hrd⟩ := hr
  simp only [laneToUniform, hd, hi]
  rw [gated_enabled he (by simp [hs, hdk, ht]) (by simp), hrd]
  rfl

theorem moveLane_some {s s2 : State} {di : NameInfo} {x : Src} {f l : Nat} (h : writeOne s di (moveFit di di.mode x l) = .ok s2) :
    moveLane s di x f (some l) = .ok (setCur s2 fun t => setP t f true) := by
  simp [moveLane, h, bind, Except.bind]

/-- The identity of a reduction lies in the range of the destination. -/
theorem identInt_inRange (op : Nat) {di : NameInfo} (hw : 1 ≤ di.width) :
    (intRange di.ty di.width).1 ≤ identInt op di ∧ identInt op di ≤ (intRange di.ty di.width).2 := by
  have hne := intRange_nonempty di.ty hw
  have hpow : (0 : Int) < 2 ^ (di.width - 1) := by positivity
  have hpow' : (0 : Int) < 2 ^ di.width := by positivity
  have hzero : (intRange di.ty di.width).1 ≤ 0 ∧ 0 ≤ (intRange di.ty di.width).2 := by
    unfold intRange
    split <;> constructor <;> dsimp only <;> omega
  unfold identInt
  dsimp only
  split
  · split
    · next h1 => simp only [intRange, h1, if_true]; omega
    · exact ⟨hne, le_refl _⟩
  · exact ⟨hne, le_refl _⟩
  · exact ⟨le_refl _, hne⟩
  · exact hzero

theorem identInt_eq (op : Nat) (di : NameInfo) : identInt op di = (match op with
    | 1 => if di.ty = 1 then -1 else 2 ^ di.width - 1
    | 4 => (intRange di.ty di.width).2
    | 5 => (intRange di.ty di.width).1
    | _ => 0) := by
  match op with
  | 1 =>
    show (if di.ty = 1 then -1 else (intRange di.ty di.width).2) = if di.ty = 1 then -1 else 2 ^ di.width - 1
    split
    · rfl
    · next h1 => simp [intRange, h1]
  | 0 | 2 | 3 | 4 | 5 | _ + 6 => rfl

theorem reduceFit_none {di : NameInfo} {x : Src} (op : Nat) (hd : di.ty < 2) (hx : x.info.ty < 2) (hw : 1 ≤ di.width)
    (hk : di.kind ≠ 8) : reduceFit op di x [] = .ok (zpat (identInt op di) di.width, 0) := by
  have hty : (decide (2 ≤ di.ty) || decide (2 ≤ x.info.ty)) = false := by simp; omega
  rw [reduceFit, if_neg (by simp [hty])]
  exact fitInt_inRange hk di.mode (identInt_inRange op hw).1 (identInt_inRange op hw).2

end Sys2Proof.Machine

section

open Sys2Proof Sys2Proof.Machine Sys2Proof.Claims

/-- Settles O8: past the gate, the lane chosen, the reduction or the count is written. -/
theorem laneTransfersToUniformNames : Obligations.LaneTransfersToUniformNames := by
  refine ⟨fun s g d a b f pa di ai bi lanes s1 xs hf => ⟨fun hr hla => ⟨fun hfam => ⟨?_, ?_⟩, fun hf6 hred s2 hw => ?_⟩,
    fun hr hla hsrc hint hfam => ⟨?_, ?_⟩, fun hr hint s2 hw => ?_⟩, fun op di x hd hx hw hk _ => ⟨_, reduceFit_none op hd hx hw hk, ?_⟩⟩
  · rintro l r s2 hl hw rfl
    rw [exec_vfirst, execVfirst, laneToUniform_ready hr (by simpa using hf) (by simp [hla, hfam]), hl, moveLane_some hw]
    rfl
  · rintro rfl
    rw [exec_vfirst, execVfirst, laneToUniform_ready hr (by simpa using hf) (by simp [hla, hfam])]
    rfl
  · rw [exec_vred, execVred, laneToUniform_ready hr (decide_eq_true hf6) (by simp [hla, hred]), hw]
    rfl
  · rintro l r s2 hl hn hw rfl
    have hfind : lanes.find? (fun (j : Nat) => (j : Int) == (nth xs 1).int 0) = some l := by
      cases hx : lanes.find? (fun (j : Nat) => (j : Int) == (nth xs 1).int 0) with
      | none => exact absurd (List.find?_eq_none.mp hx l hl) (by simp [hn])
      | some j =>
        have hj : (j : Int) = (nth xs 1).int 0 := by simpa using List.find?_some hx
        exact congrArg some (by omega)
    rw [exec_vlane, execVlane, laneToUniform_ready hr (by simpa using hf) (by simp [hla, hsrc, hint, hfam])]
    dsimp only
    rw [hfind, moveLane_some hw]
    rfl
  · intro hn
    have hfind : lanes.find? (fun (j : Nat) => (j : Int) == (nth xs 1).int 0) = none := by
      rw [List.find?_eq_none]
      exact fun l hl => by simpa using hn l hl
    rw [exec_vlane, execVlane, laneToUniform_ready hr (by simpa using hf) (by simp [hla, hsrc, hint, hfam])]
    dsimp only
    rw [hfind]
    rfl
  · obtain ⟨rfl, rfl⟩ : s = s1 ∧ [] = xs := by simpa [readSrcs] using hr.read
    rw [exec_vpredCount, execVpredCount, laneToUniform_ready hr rfl hint]
    exact congrArg (fun r => finish s (r >>= fun u => .ok (advance u))) hw
  · exact congrArg (fun v => zpat v di.width) (identInt_eq op di)

end

/-! ## PLOG and PMOV (R21, R22) -/

namespace Sys2Proof.Machine

theorem plogFun_eq {f : BitVec 2} (h : f ≠ 3) (x y : Bool) :
    plogFun f.toNat x y = if f = 0 then x && y else if f = 1 then x || y else x != y := by
  revert f x y
  decide

theorem plogRun_uniform {s : State} {g : Guard} (he : Enabled s .uniform g [0]) {d : BitVec 4} (h8 : d.toNat < 8) (h0 : d ≠ 0)
    (a b : BitVec 4) {static : Bool} (hs : static = true) (f : Nat) :
    plogRun s g d a b static f = .next (keepHub s (advance (setCur s fun t => setP t d.toNat
      (plogFun f (predP (curStrand s) (a.toNat % 8) != bitN a.toNat 3)
        (predP (curStrand s) (b.toNat % 8) != bitN b.toNat 3))))) := by
  have hd : d.toNat % 8 = d.toNat := Nat.mod_eq_of_lt h8
  have hb : bitN d.toNat 3 = false := by
    simp [bitN]
    omega
  have hne : d.toNat ≠ 0 := fun h => h0 (BitVec.eq_of_toNat_eq h)
  simp only [plogRun, hb, hd, Bool.false_eq_true, if_false]
  rw [gated_enabled he (by simp [hs, hne]) (by simp)]
  rfl

theorem plogRun_lane {s : State} {g : Guard} {lanes : List Nat} (he : Enabled s .lane g lanes) {d : BitVec 4}
    (h8 : 8 < d.toNat) (a b : BitVec 4) {static : Bool} (hs : static = true) (f : Nat) :
    plogRun s g d a b static f = .next (keepHub s (advance (setCur s fun t => lanes.foldl (fun t l => setQ t l (d.toNat - 8)
      (plogFun f (predQ (curStrand s) l (a.toNat % 8) != bitN a.toNat 3)
        (predQ (curStrand s) l (b.toNat % 8) != bitN b.toNat 3))) t))) := by
  have hlt := d.isLt
  have hd : d.toNat % 8 = d.toNat - 8 := by omega
  have hb : bitN d.toNat 3 = true := by
    simp [bitN]
    omega
  have hne : d.toNat - 8 ≠ 0 := by omega
  simp only [plogRun, hb, hd, if_true]
  rw [gated_enabled he (by simp [hs, hne]) (by simp)]
  rfl

theorem flagMask_eq (m : BitVec 7) : BitVec.ofNat 16 (m.toNat * 2 ^ 8) = (0 : BitVec 1) ++ m ++ (0 : BitVec 8) := by
  revert m
  decide +kernel

/-- A uniform-class instruction that names nothing is ready when it is enabled. -/
theorem Enabled.nothingNamed {s : State} {g : Guard} (he : Enabled s .uniform g [0]) : UniformReady s g [] [] [] [] s [] :=
  ⟨he.notNever, (he.uniform rfl).1, rfl, rfl, rfl, rfl, rfl⟩

end Sys2Proof.Machine

section

open Sys2Proof Sys2Proof.Machine Sys2Proof.Claims

/-- Settles O10: past the gate, each writes the predicates or flags that its field names. -/
theorem predicateInstructionsResults : Obligations.PredicateInstructionsResults := by
  intro s g d a b f m n di is lanes s1 xs
  refine ⟨fun he h8 h0 => ⟨fun hf => ?_, ?_⟩, fun he h8 => ⟨fun hf => ?_, ?_⟩, fun hr hi s2 hw => ?_, fun hr hi => ?_, fun he => ?_⟩
  · rw [exec_plog, execPlog, plogRun_uniform he h8 h0 a b (by simpa using hf), plogFun_eq hf]
  · rw [exec_plogMov, execPlogMov, plogRun_uniform he h8 h0 a 0 rfl]
    rfl
  · rw [exec_plog, execPlog, plogRun_lane he h8 a b (by simpa using hf)]
    simp only [plogFun_eq hf]
  · rw [exec_plogMov, execPlogMov, plogRun_lane he h8 a 0 rfl]
    rfl
  · rw [exec_pmovR, execPmovR, uniformOp_ready hr rfl (by simp [intOnly, allInt, hi]) (by simp)]
    exact congrArg (fun r => finish s (r >>= fun u => .ok (advance u))) hw
  · rw [exec_pmovW, execPmovW, uniformOp_ready hr rfl hi (by simp)]
    rfl
  · rw [exec_pmovFc, execPmovFc, uniformOp_ready he.nothingNamed rfl rfl (by simp), flagMask_eq]
    rfl

end

/-! ## Instruction prefetch touches caches of lines alone; branches, calls and loops (R119-R123) -/

namespace Sys2Proof.Machine

/-- Memory is left alone, and so are strands and cores but for line buffers and L1s. -/
structure OnlyLines (s t : State) : Prop where
  memory  : t.mem = s.mem
  strands : ∀ k, { strandAt t k with lineBuf := none } = { strandAt s k with lineBuf := none }
  cores   : ∀ p, { coreAt t p with l1 := [] } = { coreAt s p with l1 := [] }

theorem OnlyLines.rfl {s : State} : OnlyLines s s := ⟨Eq.refl _, fun _ => Eq.refl _, fun _ => Eq.refl _⟩

theorem OnlyLines.trans {s t u : State} (h : OnlyLines s t) (h' : OnlyLines t u) : OnlyLines s u :=
  ⟨h'.memory.trans h.memory, fun k => (h'.strands k).trans (h.strands k), fun p => (h'.cores p).trans (h.cores p)⟩

theorem setCluster_onlyLines (s : State) (c : Nat) (x : Cluster) : OnlyLines s (setCluster s c x) :=
  ⟨Eq.refl _, fun _ => Eq.refl _, fun _ => Eq.refl _⟩

theorem dropBuffers_onlyLines (s : State) (pick gone : Nat → Bool) : OnlyLines s (dropBuffers s pick gone) := by
  refine ⟨Eq.refl _, fun k => ?_, fun _ => Eq.refl _⟩
  simp only [dropBuffers, strandAt]
  refine tgetD_tmap_cases (fun x y : Strand => { x with lineBuf := none } = { y with lineBuf := none }) (t := s.strands)
    (d := Strand.blank) (Eq.refl _) k fun x => ?_
  split <;> exact Eq.refl _

theorem setL1_onlyLines (s : State) (p : Nat) (l : List (Nat × BitVec 512)) :
    OnlyLines s (setCore s p { coreAt s p with l1 := l }) := by
  refine ⟨Eq.refl _, fun _ => Eq.refl _, fun q => ?_⟩
  by_cases h : q = p
  · subst h; rw [coreAt_setCore_self]
  · rw [coreAt_setCore_ne _ _ h]

theorem leaveL1_onlyLines (s : State) (p : Nat) (gone : Nat → Bool) : OnlyLines s (leaveL1 s p gone) :=
  (setL1_onlyLines s p _).trans (dropBuffers_onlyLines ..)

theorem leaveMiddle_onlyLines (s : State) (c : Nat) (gone : Nat → Bool) : OnlyLines s (leaveMiddle s c gone) := by
  dsimp only [leaveMiddle]
  refine OnlyLines.trans ?_ (dropBuffers_onlyLines ..)
  refine ⟨Eq.refl _, fun _ => Eq.refl _, fun p => ?_⟩
  simp only [coreAt, setCluster_cores]
  refine tgetD_tmap_cases (fun x y : Core => { x with l1 := [] } = { y with l1 := [] }) (t := s.cores)
    (d := Core.reset) (Eq.refl _) p fun x => ?_
  split <;> exact Eq.refl _

theorem fillMiddle_onlyLines (s : State) (c line : Nat) (data : BitVec 512) : OnlyLines s (fillMiddle s c line data) := by
  dsimp only [fillMiddle]
  split
  · exact (setCluster_onlyLines ..).trans (leaveMiddle_onlyLines ..)
  · exact setCluster_onlyLines ..

theorem fillL1_onlyLines (s : State) (p line : Nat) (data : BitVec 512) : OnlyLines s (fillL1 s p line data) := by
  dsimp only [fillL1]
  split
  · exact (setL1_onlyLines s p _).trans (leaveL1_onlyLines ..)
  · exact setL1_onlyLines s p _

theorem countPlace_onlyLines (s : State) (c asid va pa : Nat) (wrote : Bool) :
    OnlyLines s (countPlace s c asid va pa wrote) := by
  unfold countPlace
  split
  · exact setCluster_onlyLines ..
  · exact setCluster_onlyLines ..
  · exact .rfl

/-- A prefetch through a cluster's TLB makes no walk. -/
theorem peekTranslate_onlyLines {s s' : State} {lid c asid va pa leaf : Nat} {sv : Bool} {acc : Access}
    (h : peekTranslate s lid (.cluster c) asid sv false acc va = some (s', pa, leaf)) : OnlyLines s s' := by
  have h' : (if (rangeOf s lid va).isSome || (tlbFind s (.cluster c) asid va acc).isSome || (false && _) then
    (translate s lid (.cluster c) asid sv acc va).toOption else none) = some (s', pa, leaf) := h
  obtain ⟨hc, ht⟩ := Option.ite_none_right_eq_some.mp h'
  replace ht : translate s lid (.cluster c) asid sv acc va = .ok (s', pa, leaf) := by
    cases hx : translate s lid (.cluster c) asid sv acc va <;> simp_all [Except.toOption]
  rcases translate_cases ht with ⟨_, rfl⟩ | ⟨_, e, _, rfl⟩ | ⟨hr, hf, _⟩
  · exact .rfl
  · exact setCluster_onlyLines ..
  · simp [hr, hf] at hc

theorem prefetchInto_onlyLines (l1 : Bool) (s : State) (va : Nat) : OnlyLines s (prefetchInto l1 s va) := by
  dsimp only [prefetchInto]
  split
  · exact .rfl
  · split
    · exact .rfl
    · next s' pa leaf h =>
      have hs := peekTranslate_onlyLines h
      have h2 : OnlyLines s (if (cacheGet (clusterAt s' (clusterOf (curP s))).icache (lineOf pa)).isSome ||
          (poisoned s' (lineOf pa * 64) 64).isSome then s'
        else fillMiddle (countPlace s' (clusterOf (curP s)) (asidOf s (curStrand s).lid) va pa false) (clusterOf (curP s))
          (lineOf pa) (lineBytes s' (lineOf pa))) := by
        split
        · exact hs
        · exact hs.trans ((countPlace_onlyLines ..).trans (fillMiddle_onlyLines ..))
      split
      · exact h2.trans (fillL1_onlyLines ..)
      · exact h2

theorem namedTarget_aligned {x : Src} (h : x.pat 0 % 2 ^ 48 % 4 = 0) :
    namedTarget x = .ok (BitVec.ofNat 48 (x.pat 0 % 2 ^ 48)) := if_pos h

theorem namedTarget_misaligned {x : Src} (h : x.pat 0 % 2 ^ 48 % 4 ≠ 0) :
    namedTarget x = trapNow cALIGN (x.pat 0 % 2 ^ 48) := if_neg h

theorem linkTo_ok {s s2 : State} {li : NameInfo} {target : BitVec 48}
    (h : writeDst s li [0] (fun _ => (nextPc s (curStrand s)).toNat) = .ok s2) : linkTo s li target = .ok (jump s2 target) := by
  simp only [linkTo, h, ok_bind]

theorem laneBranch_enabled {s : State} {g : Guard} {lanes : List Nat} (he : Enabled s .lane g lanes) (i : Imm 21)
    (taken : List Nat → List Nat → Bool) :
    laneBranch s g i taken = .next (keepHub s (if taken (presentLanes (curStrand s)) lanes then
      jump s (branchTarget (curStrand s).pc i) else advance s)) := by
  rw [laneBranch, gated_enabled he rfl (by simp)]
  split <;> rfl

end Sys2Proof.Machine

section

open Sys2Proof Sys2Proof.Machine Sys2Proof.Claims

/-- Settles O12: each form's gate opens, and its target, link or counter is what the premises give. -/
theorem branchesCallsAndLoops : Obligations.BranchesCallsAndLoops := by
  refine ⟨fun s g a i li ai lanes s1 s2 xs => ⟨fun he => ⟨?_, fun hl hw => ?_, ?_⟩, fun hr ht => ⟨fun hal => ⟨?_, fun hl hw => ?_⟩,
    fun hal => ?_⟩, fun he => ⟨?_, ?_⟩⟩, fun s g d i di s1 s2 xs v fl hr hk hi hfit hw => ?_⟩
  · rw [exec_br, execBr, gated_enabled he rfl (by simp)]
    rfl
  · simp only [exec_call, execCall, hl]
    rw [gated_enabled he rfl (by simp), linkTo_ok hw]
    rfl
  · obtain ⟨hmem, hstr, hcores⟩ := prefetchInto_onlyLines true s (branchTarget (curStrand s).pc i).toNat
    refine ⟨_, ?_, hmem, hstr, hcores⟩
    rw [exec_ipf, execIpf, gated_enabled he rfl (by simp)]
    rfl
  · rw [exec_jr, execJr, uniformOp_ready hr rfl ht (by simp), namedTarget_aligned hal]
    rfl
  · simp only [exec_callr, execCallr, hl]
    rw [uniformOp_ready hr rfl ht (by simp), namedTarget_aligned hal, ok_bind, linkTo_ok hw]
    rfl
  · rw [TrapsWith, exec_jr, execJr, uniformOp_ready hr rfl ht (by simp), namedTarget_misaligned hal]
    rfl
  · rw [exec_brany, execBrany, laneBranch_enabled he]
    cases lanes <;> rfl
  · rw [exec_brall, execBrall, laneBranch_enabled he]
    simp only [beq_iff_eq]
    rfl
  · have hfit' : fitDecl di ((nth xs 0).int 0 - 1) = .ok (v, fl) := hfit
    rw [exec_loop, execLoop, uniformOp_ready hr rfl (by simp [hk, hi]) (by simp)]
    simp only [nthD, List.getD_cons_zero, hfit', hw, ok_bind]
    split <;> rfl

end

/-! ## Barriers, control registers, repacks and message classes (R40, R103-R108, R130-R132, R138-R140, R157) -/

namespace Sys2Proof.Machine

theorem barrierOp_enabled {s : State} {g : Guard} {r : Nat} {body : Barrier → Res State} (he : Enabled s .uniform g [0])
    (hr : roaming (curStrand s) = false)
    (hb : rectOk (ctlOf (coreAt s (curP s)) (0x10 + r)) (coreAt s (curP s)).logical = true) :
    barrierOp s g r body = finish s (body (barrierAt (coreAt s (curP s)) r)) := by
  rw [barrierOp, gated_enabled he (by simp [notRoaming, hr]) (by simp)]
  simp only [hb, if_true]

theorem uniformOp_rejected {s : State} {g : Guard} {supOnly static : Bool} {ds srcs : List NameIx}
    {typesOk : List NameInfo → List NameInfo → Bool} {body : State → List NameInfo → List Src → Res State}
    (hs : static = false) : uniformOp s g supOnly static ds srcs typesOk body = finish s (illegal s) := by
  simp only [uniformOp, hs, Bool.false_and]
  split <;> exact gated_illegal rfl

theorem ctlOk_read {n : Nat} (he : ctlExists n = true) : ctlOk n false = true := by simp [ctlOk, he]

theorem execRsz_enabled {s : State} {g : Guard} {d : NameIx} {m : BitVec 1} {w : BitVec 2} {b : BitVec 6} {di : NameInfo}
    {lanes : List Nat} (hd : nameInfo (curStrand s).map d = some di) (he : Enabled s (clsOf (curStrand s) d) g lanes)
    (hs : rszStatic di g m w b = true) :
    exec (.rsz g d m w b) s = finish s (rszRun s di (rszWidth b) (rszMode di m w)) := by
  simp only [exec_rsz, execRsz, hd]
  rw [gated_enabled he hs (by simp)]

theorem rszRun_sameWidth {s : State} {di : NameInfo} {new mode : Nat} (h : new = di.width) :
    rszRun s di new mode = .ok (advance (setCur s fun t => { t with map := rszMap t.map di.ix new mode })) := by
  simp only [rszRun, h, if_true]
  rfl

/-- A resize that moves rows and has room starts its repack, at whose end the new map takes effect. -/
theorem rszRun_repacks {s : State} {di : NameInfo} {new mode : Nat} {vals : Nat → Nat} {flags : BitVec 8}
    (hw : new ≠ di.width) (hr : (coreAt s (curP s)).repack = none)
    (hb : badRowIn (coreAt s (curP s)) (di.kind == 1) (rszSpan (curStrand s) di new).1 (rszSpan (curStrand s) di new).2 = none)
    (hv : collect (if di.kind == 1 then List.range 16 else [0]) (fun l =>
      rszFit di new mode (rowRead (coreAt s (curP s)) (curStrand s) di l)) = .ok (vals, flags))
    (hroom : new ≤ di.width + headroom (curStrand s) (di.kind == 1)) :
    ∃ r : Repack, rszRun s di new mode = .error (.park .repack (some (addEvent
        (setCore s (curP s) { coreAt s (curP s) with repack := some r }) (.repackRowWrite (curP s))))) ∧
      r.flags = flags ∧ r.done = 0 ∧ r.map = rszMap (curStrand s).map di.ix new mode ∧
      (r.lo, r.n) = rszSpan (curStrand s) di new := by
  have hroom' : ¬ new > di.width + ((if (di.kind == 1) then (curStrand s).lsize.toNat else (curStrand s).usize.toNat) -
      bankBits (curStrand s).map (di.kind == 1)) := Nat.not_lt.mpr hroom
  simp only [rszRun, hr, hb, hv, ok_bind, if_neg hw, Option.isSome_none, Bool.false_eq_true, if_false, if_neg hroom']
  exact ⟨_, rfl, rfl, rfl, rfl, rfl⟩

theorem execRepackRowWrite_some {s : State} {p : Nat} {r : Repack} (hr : (coreAt s p).repack = some r) :
    execRepackRowWrite p s = done s (addEvent
      (setCore s p { repackRow (coreAt s p) r with repack := some { r with done := r.done + 1 } })
      (if r.done + 1 < r.n then .repackRowWrite p else .repackUnlock p)) := by
  simp only [execRepackRowWrite, hr]
  rfl

theorem execRepackUnlock_some {s : State} {p : Nat} {r : Repack} {t : Strand} (hr : (coreAt s p).repack = some r)
    (ht : tget s.strands r.key = some t) :
    execRepackUnlock p s = done s (wakeWhere
      (setStrand (setCore s p { coreAt s p with repack := none }) r.key
        (setFlags { t with map := r.map, pc := r.next, skipBrk := false } r.flags))
      fun k _ why => keyCore k == p && why == .repack) := by
  have hs : strandAt (setCore s p { coreAt s p with repack := none }) r.key = t := by
    simp only [strandAt, setCore_strands, tgetD, ht, Option.getD_some]
  simp only [execRepackUnlock, hr, setCore_strands, ht, hs]

end Sys2Proof.Machine

section

open Sys2Proof Sys2Proof.Machine Sys2Proof.Claims

/-- Settles O24: with the checks of R43 passed, each form follows ARRIVED. -/
theorem barriersArriveOnce : Obligations.BarriersArriveOnce := by
  intro s g k s1 c he hr hb
  refine ⟨fun hn ha => ⟨?_, ?_⟩, fun hy => ⟨?_, ?_⟩⟩
  · rw [exec_bara, execBara, barrierOp_enabled he hr hb]
    simp only [hn, ha, ok_bind, c, Bool.false_eq_true, if_false]
    rfl
  · rw [exec_barw, execBarw, barrierOp_enabled he hr hb]
    simp only [hn, ha, ok_bind, c, Bool.false_eq_true, if_false]
    rfl
  · rw [Parks, exec_bara, execBara, barrierOp_enabled he hr hb]
    simp only [hy, c, if_true]
    rfl
  · rw [Parks, exec_barw, execBarw, barrierOp_enabled he hr hb]
    simp only [hy, c, if_true]
    rfl

/-- Settles O29: past the gate each is one access to the register. -/
theorem controlRegisterInstructionsResults : Obligations.ControlRegisterInstructionsResults := by
  refine fun s g d a r f di ai s1 s2 s3 xs => ⟨fun hr => ⟨fun he hw => ?_, fun hf hw => ?_⟩,
    fun he hro hsv hw => ⟨fun hr => ?_, fun hr hd => ?_⟩⟩
  · rw [exec_ctlr, execCtlr, uniformOp_ready hr (ctlOk_read he) rfl (by simp)]
    simp only [nthD, List.getD_cons_zero, hw, ok_bind]
    rfl
  · rw [exec_getid, execGetid, uniformOp_ready hr (by simpa using hf) rfl (by simp)]
    simp only [nthD, List.getD_cons_zero, hw, ok_bind]
    rfl
  · rw [exec_ctlw, execCtlw, uniformOp_ready hr (ctlOk_write he hro) rfl hsv]
    simp only [hw, ok_bind]
    rfl
  · rw [exec_ctlx, execCtlx, uniformOp_ready hr (ctlOk_write he hro) rfl hsv]
    simp only [nthD, List.getD_cons_zero, hw, hd, ok_bind]
    rfl

/-- Settles O13: RSZ by `rszRun`, the repack's own events by the rows that are left. -/
theorem resizeAndRepackProceed : Obligations.ResizeAndRepackProceed := by
  refine fun s g d m w b q di qi lanes p r t => ⟨fun hd he hs => ⟨fun hw => ?_, fun hw hnone hb vals flags hv hroom => ?_⟩,
    fun hr => ⟨?_, fun ht => ?_⟩, fun hq hstat hint s1 xs hr s2 hw => ?_⟩
  · rw [execRsz_enabled hd he hs, rszRun_sameWidth hw]
    rfl
  · obtain ⟨r, hrun, hflags, hdone, hmap, hspan⟩ := rszRun_repacks hw hnone hb hv hroom
    rw [execRsz_enabled hd he hs, hrun]
    exact ⟨_, rfl, rfl, rfl, rfl, r, congrArg Core.repack (coreAt_setCore_self ..), hflags, hdone, hmap, hspan⟩
  · rw [exec_repackRowWrite, execRepackRowWrite_some hr]
    rfl
  · rw [exec_repackUnlock, execRepackUnlock_some hr ht]
    rfl
  · simp only [exec_widq, execWidq, hq]
    rw [uniformOp_ready hr (by simpa using hstat) (by simp [intOnly, allInt, hint]) (by simp)]
    have hw' : writeOne s1 di (fitDecl di (widqValue (curStrand s) w.toNat q.toNat qi : Nat)) = .ok s2 := hw
    simp only [nthD, List.getD_cons_zero, hw', ok_bind]
    rfl

/-- Settles O22: past the gate, the bound classes and the mailbox decide. -/
theorem yieldBindAndWaitForMessages : Obligations.YieldBindAndWaitForMessages := by
  refine fun s g a c ai s1 s2 xs => ⟨fun he => ⟨?_, ?_, fun hro hb => ⟨fun hm => ?_, fun hm => ?_⟩⟩, fun hr => ?_⟩
  · rw [exec_nop, execNop, gated_enabled he rfl (by simp)]
    rfl
  · rw [exec_yield, execYield, gated_enabled he rfl (by simp)]
    rfl
  · rw [exec_waitmsg, execWaitmsg, gated_enabled he (by simp [notRoaming, hro]) (by simp)]
    simp only [hb, hm, Bool.not_true, Bool.false_eq_true, if_false, if_true]
    rfl
  · rw [Parks, exec_waitmsg, execWaitmsg, gated_enabled he (by simp [notRoaming, hro]) (by simp)]
    simp only [hb, hm, Bool.not_true, Bool.false_eq_true, if_false]
    rfl
  · intro n
    refine ⟨fun hro h0 h12 hlive hfree hs2 => ?_, fun hro => ⟨?_, ?_⟩, fun hro h0 h15 => ?_⟩
    · have hf : (match tget (coreAt s1 (curP s1)).binds c.toNat with
        | some slot => (slot : Int) == n
        | none => true) = true := by
        split
        · next slot hb => exact beq_iff_eq.mpr (hfree slot hb)
        · rfl
      have hno : (decide (n < 0) || decide (12 < n) || slotFree s1 (curP s1) n.toNat ||
          !(match tget (coreAt s1 (curP s1)).binds c.toNat with
            | some slot => (slot : Int) == n
            | none => true)) = false := by
        rw [hf, hlive, decide_eq_false (by omega), decide_eq_false (by omega)]
        rfl
      rw [exec_bind, execBind, uniformOp_ready hr (by simp [notRoaming, hro]) rfl (by simp), hs2]
      exact congrArg (finish s) (if_neg (by rw [Bool.not_eq_true]; exact hno))
    · rw [TrapsWith, exec_bind, execBind, uniformOp_rejected (by simp [notRoaming, hro])]
      rfl
    · rw [TrapsWith, exec_unbind, execUnbind, uniformOp_rejected (by simp [notRoaming, hro])]
      rfl
    · have hno : (decide (n < 0) || decide (15 < n)) = false := by
        rw [decide_eq_false (by omega), decide_eq_false (by omega)]
        rfl
      rw [exec_unbind, execUnbind, uniformOp_ready hr (by simp [notRoaming, hro]) rfl (by simp)]
      refine (congrArg (finish s) (if_neg (by rw [Bool.not_eq_true]; exact hno))).trans ?_
      simp only [beq_iff_eq]
      split <;> rfl

end

/-! ## Future instructions on live and stale handles (R196-R202, R207-R209) -/

namespace Sys2Proof.Machine

theorem liveFut_stale {s : State} {h : BitVec 32} (hf : futOf s h = none) : liveFut s h = trapNow cFUTSTALE h.toNat := by
  simp only [liveFut, hf]

theorem futStep_stale {s : State} {op : Nat} {h : BitVec 32} {rel : Bool}
    {f : State → Future → FutLog → Res (State × Bool)} (hf : futOf s h = none) :
    futStep s op h rel f = trapNow cFUTSTALE h.toNat := by
  rw [futStep, liveFut_stale hf]
  rfl

theorem fsetStep_stale {s : State} {h : BitVec 32} {v : Nat} {k : State → Bool → Res State} (hf : futOf s h = none) :
    fsetStep s h v k = trapNow cFUTSTALE h.toNat := by
  rw [fsetStep, liveFut_stale hf]
  rfl

theorem awaitFut_stale {s0 s : State} {h : BitVec 32} {min : Nat} (hs : servedOn (curStrand s) h = none)
    (hf : futOf s h = none) : awaitFut s0 s h min = trapNow cFUTSTALE h.toNat := by
  simp only [awaitFut, hs, liveFut_stale hf]
  rfl

theorem liveFut_notEmpty {s : State} {h : BitVec 32} {f : Future} (hf : liveFut s h = .ok f) : f.st ≠ .empty := by
  cases ho : futOf s h with
  | none => simp [liveFut, ho, trapNow] at hf
  | some e =>
    obtain rfl : e = f := by simpa [liveFut, ho] using hf
    have ho' := Option.ite_none_left_eq_some.mp (show (if h = 0 || (futAt s (hIndex h)).st = .empty ||
      (futAt s (hIndex h)).gen.toNat != fieldN h.toNat 24 8 then none else some (futAt s (hIndex h))) = some e from ho)
    obtain ⟨hc, he⟩ := ho'
    rintro hst
    obtain rfl := Option.some.inj he
    simp [hst] at hc

/-- A wait on a settled entry is over. -/
theorem awaitFut_settled {s0 s : State} {h : BitVec 32} {min : Nat} {f : Future} (hs : servedOn (curStrand s) h = none)
    (hf : liveFut s h = .ok f) (hp : f.st ≠ .pending) : awaitFut s0 s h min = .ok (f.value, f.st ≠ .cancelled) := by
  have hd : f.st = .resolved ∨ f.st = .cancelled := by
    have := liveFut_notEmpty hf
    cases hst : f.st <;> simp_all
  simp only [awaitFut, hs, hf, ok_bind]
  exact if_pos (by rcases hd with h | h <;> simp [h])

theorem futOp_ready {s s1 : State} {g : Guard} {a b : NameIx} {is : List NameInfo} {xs : List Src}
    {body : State → BitVec 32 → Src → Res State} (hr : UniformReady s g [] [a, b] [] is s1 xs) :
    futOp s g a b body = finish s (body s1 (srcHandle s (nth xs 0)) (nth xs 1)) := by
  rw [futOp, uniformOp_ready hr rfl rfl (by simp)]

/-- A releasing operation on a live entry, its turn in the log having come. -/
theorem futStep_releasing {s s1 s2 s3 : State} {op : Nat} {h : BitVec 32} {ok : Bool} {e : Future}
    {f : State → Future → FutLog → Res (State × Bool)} (hf : liveFut s h = .ok e) (hg : rrGate s op h.toNat = .ok s1)
    (hr : release s1 = .ok s2) (hd : f s2 e (strandLog s2 op) = .ok (s3, ok)) :
    futStep s op h true f = .ok (endStatus s3 ok) := by
  simp only [futStep, hf, hg, hr, hd, ok_bind, if_true]

theorem futStep_plain {s s1 s3 : State} {op : Nat} {h : BitVec 32} {ok : Bool} {e : Future}
    {f : State → Future → FutLog → Res (State × Bool)} (hf : liveFut s h = .ok e) (hg : rrGate s op h.toNat = .ok s1)
    (hd : f s1 e (strandLog s1 op) = .ok (s3, ok)) :
    futStep s op h false f = .ok (endStatus s3 ok) := by
  simp only [futStep, hf, hg, hd, ok_bind, Bool.false_eq_true, if_false]

end Sys2Proof.Machine

section

open Sys2Proof Sys2Proof.Machine Sys2Proof.Claims

/-- Settles O33: the handle is looked up before anything else that the operand's check has left. -/
theorem staleHandleTrapsFutstale : Obligations.StaleHandleTrapsFutstale := by
  intro s g d a b sh di ai bi s1 xs h hh hf n
  refine ⟨fun hr => ⟨?_, fun h0 => ?_, fun h1 h255 => ?_, fun h0 h15 => ?_⟩, fun hr => ⟨?_, ?_⟩,
    fun hs => ⟨fun hr hl => ?_, fun hr => ?_⟩⟩
  · rw [TrapsWith, exec_fset, execFset, futOp_ready hr, ← hh, fsetStep_stale hf]
    rfl
  · rw [TrapsWith, exec_fexp, execFexp, futOp_ready hr, ← hh]
    simp only [futStep_stale hf]
    exact congrArg (finish s) (if_neg (by omega))
  · rw [TrapsWith, exec_fcancel, execFcancel, futOp_ready hr, ← hh]
    simp only [futStep_stale hf]
    exact congrArg (finish s) (if_neg (by simp only [Bool.or_eq_true, decide_eq_true_eq]; omega))
  · rw [TrapsWith, exec_pubsh, execPubsh, futOp_ready hr, ← hh]
    simp only [futStep_stale hf]
    exact congrArg (finish s) (if_neg (by simp only [Bool.or_eq_true, decide_eq_true_eq]; omega))
  · rw [TrapsWith, exec_fdec, execFdec, futOp_ready hr, ← hh, futStep_stale hf]
    rfl
  · rw [TrapsWith, exec_stopref, execStopref, futOp_ready hr, ← hh, futStep_stale hf]
    rfl
  · rw [TrapsWith, exec_fget, execFget, uniformOp_ready hr rfl rfl (by simp), ← hh, unlocked_single_ok hl, ok_bind,
      awaitFut_stale hs hf]
    rfl
  · rw [TrapsWith, exec_settle, execSettle, uniformOp_ready hr rfl rfl (by simp), ← hh, awaitFut_stale hs hf]
    rfl

/-- Settles O32: a live handle opens the gate of the replay, then the entry is changed and logged. -/
theorem futureInstructionsResults : Obligations.FutureInstructionsResults := by
  intro s g d a b sh di ai bi s1 s2 s3 s4 xs h f v ok i n
  refine ⟨fun hr => ⟨fun h0 hmax => ⟨fun j hj hg hw => ?_, fun hj hw => ?_⟩, fun hl => ?_, fun hl hh hv hw => ?_⟩,
    fun hh hf hr => ⟨fun hg hrel => ?_, fun h0 hp hmax hg hrel => ?_, fun h1 h255 hg hrel => ?_,
      fun h0 h15 hg hrel hp => ?_⟩, fun hh hf hr => ⟨fun hg hrel hd => ?_, fun hg hs3 hs4 => ?_⟩, fun hr hh hs hf hp => ?_⟩
  · have hin : ¬ (srcInt s (nth xs 0) < 0 ∨ 1048575 < srcInt s (nth xs 0)) := by omega
    rw [exec_fnew, execFnew, uniformOp_ready hr rfl rfl (by simp)]
    simp only [nthD, List.getD_cons_zero, hj, hg, hw, ok_bind]
    exact congrArg (finish s) (if_neg (by simpa using hin))
  · have hin : ¬ (srcInt s (nth xs 0) < 0 ∨ 1048575 < srcInt s (nth xs 0)) := by omega
    rw [exec_fnew, execFnew, uniformOp_ready hr rfl rfl (by simp)]
    simp only [nthD, List.getD_cons_zero, hj, hw, ok_bind]
    exact congrArg (finish s) (if_neg (by simpa using hin))
  · rw [Parks, exec_fget, execFget, uniformOp_ready hr rfl rfl (by simp), unlocked_single_park hl]
    rfl
  · rw [exec_fget, execFget, uniformOp_ready hr rfl rfl (by simp), ← hh, unlocked_single_ok hl]
    simp only [nthD, List.getD_cons_zero, hv, hw, ok_bind]
    rfl
  · rw [exec_fset, execFset, futOp_ready hr, ← hh]
    simp only [fsetStep, hf, hg, hrel, ok_bind]
    rfl
  · rw [exec_fexp, execFexp, futOp_ready hr, ← hh]
    have hmax' : ¬ f.count + n.toNat > 1048575 := by omega
    exact congrArg (finish s) ((if_neg (by omega)).trans (futStep_releasing hf hg hrel
      ((if_neg (by simp [hp])).trans (if_neg hmax'))))
  · rw [exec_fcancel, execFcancel, futOp_ready hr, ← hh]
    exact congrArg (finish s) ((if_neg (by simp only [Bool.or_eq_true, decide_eq_true_eq]; omega)).trans
      (futStep_releasing hf hg hrel rfl))
  · rw [exec_pubsh, execPubsh, futOp_ready hr, ← hh]
    exact congrArg (finish s) ((if_neg (by simp only [Bool.or_eq_true, decide_eq_true_eq]; omega)).trans
      (futStep_releasing hf hg hrel (congrArg Except.ok hp)))
  · rw [exec_fdec, execFdec, futOp_ready hr, ← hh]
    refine congrArg (finish s) (futStep_releasing hf hg hrel ?_)
    simp only [hd]
  · rw [exec_stopref, execStopref, futOp_ready hr, ← hh]
    subst hs4 hs3
    by_cases hp : f.st = .pending
    · refine congrArg (finish s) (futStep_plain hf hg ?_)
      simp only [hp, if_true, true_and, decide_true]
      rfl
    · refine congrArg (finish s) (futStep_plain hf hg ?_)
      simp only [hp, if_false, false_and, decide_false]
  · rw [exec_settle, execSettle, uniformOp_ready hr rfl rfl (by simp), ← hh]
    simp only [awaitFut_settled hs hf hp, ok_bind]
    rfl

end

/-! ## Misaligned accesses, full/empty words and reservations (R161, R167, R170-R173, R177-R181) -/

namespace Sys2Proof.Machine

theorem passOne_misaligned {s : State} {grp : Grp} {n ea : Nat} (h : ea % n ≠ 0) :
    passOne s grp n ea = trapNow cALIGN ea := if_pos (by simpa using h)

/-- The first pass goes lane by lane: the first misaligned address ends it (R167). -/
theorem checkAll_misaligned {s0 s : State} {grp : Grp} {accs : List Access} {n code l ea : Nat}
    {before after : List (Nat × Nat)} (hb : ∀ e ∈ before, ∃ t, passOne s grp n e.2 = .ok t) (hm : ea % n ≠ 0) :
    checkAll s0 s grp accs n code (before ++ (l, ea) :: after) = trapNow cALIGN ea := by
  have hfirst : (before ++ (l, ea) :: after).mapM (fun e => (passOne s grp n e.2).map fun t => (e.1, e.2, t)) =
      (trapNow cALIGN ea : Res (List (Nat × Nat × Option Target))) := by
    induction before with
    | nil => rw [List.nil_append, List.mapM_cons, passOne_misaligned hm]; rfl
    | cons e es ih =>
      obtain ⟨t, ht⟩ := hb e List.mem_cons_self
      rw [List.cons_append, List.mapM_cons, ht, ih fun x hx => hb x (List.mem_cons_of_mem _ hx)]
      rfl
  rw [checkAll, hfirst]
  rfl

end Sys2Proof.Machine

namespace Sys2Proof.Claims

open Sys2Proof.Machine

/-- The addresses of the lanes, the misaligned one apart. -/
theorem map_lanes_split (f : Nat → Nat) (before after : List Nat) (l : Nat) :
    ((before ++ l :: after).map fun j => (j, f j)) =
      (before.map fun j => (j, f j)) ++ (l, f l) :: after.map fun j => (j, f j) := by
  rw [List.map_append, List.map_cons]

end Sys2Proof.Claims

section

open Sys2Proof Sys2Proof.Machine Sys2Proof.Claims

/-- Settles O20: the first pass over the lanes stops at the first misaligned one. -/
theorem misalignedAccessTrapsAlign : Obligations.MisalignedAccessTrapsAlign := by
  intro s g x d a di is l before after s1 xs he hd hi hsz hl hc
  refine ⟨fun hk hr hlock hm hb => ?_, fun hk hr hm hb => ?_⟩
  · rw [TrapsWith, exec_load]
    dsimp only [loadOp]
    rw [hd, hi]
    dsimp only
    rw [gated_enabled he (legal_static hl hc (by simp [hk, hsz])) (by simp)]
    simp only [hr, ok_bind, unlocked_single_ok hlock, map_lanes_split]
    rw [checkAll_misaligned (by simpa using hb) hm]
    rfl
  · rw [TrapsWith, exec_store]
    dsimp only [storeOp]
    rw [hd, hi]
    dsimp only
    rw [gated_enabled he (legal_static hl hc (by simp [hk, hsz])) (by simp)]
    simp only [hr, ok_bind, map_lanes_split]
    rw [checkAll_misaligned (by simpa using hb) hm]
    rfl

end

namespace Sys2Proof.Machine

theorem stateOp_ready {s s1 s2 s3 : State} {g : Guard} {static : Bool} {a : NameIx} {i : Imm 9} {acc : Access}
    {code ea w : Nat} {leaf : Option Nat} {body : State → Nat → Res State} {ai : NameInfo} {xs : List Src}
    (hr : UniformReady s g [] [a] [] [ai] s1 xs) (hs : static = true) (ha : ai.isInt = true) (he : ea = immAddr 8 i xs 0)
    (hc : checkAll s s1 .take [acc] 8 code [(0, ea)] = .ok (s2, [⟨0, ea, .mem w leaf⟩])) (hb : body s2 w = .ok s3) :
    stateOp s g static a i acc code body = .next (keepHub s (Claims.accessEnd s s3 (!(isOwn ea)))) := by
  rw [stateOp, uniformOp_ready hr hs (by simp [intOnly, allInt, ha]) (by simp)]
  subst he
  simp only [hc, ok_bind, List.head?_cons, Option.map_some, Option.getD_some, touchWord, hb]
  exact Claims.endAccess_finish ..

theorem rmw_ready {s s1 : State} {g : Guard} {d a b : NameIx} {readsD : Bool} {new : Nat → List Src → Nat} {di : NameInfo}
    {is : List NameInfo} {xs : List Src}
    (hr : UniformReady s g [d] (if readsD then [a, b, d] else [a, b]) [di] is s1 xs) (hi : allInt (is.take 2) = true)
    (hd : readsD = true → readDst di = true) (hl : nameLocked (coreAt s (curP s)) (curStrand s) di = true) :
    rmw s g d a b readsD new = finish s (parkNow .repack) := by
  rw [rmw, uniformOp_ready hr rfl (by cases readsD <;> simp_all) (by simp), unlocked_single_park hl]
  rfl

/-- A fused atomic on a word that has been forwarded to its strand (R181). -/
theorem rmw_done {s s1 s2 s3 s4 s5 s6 : State} {g : Guard} {d a b : NameIx} {readsD : Bool} {new : Nat → List Src → Nat}
    {di : NameInfo} {is : List NameInfo} {xs ys : List Src} {ea w : Nat} {leaf : Option Nat} {r : Nat × BitVec 8}
    (hr : UniformReady s g [d] (if readsD then [a, b, d] else [a, b]) [di] is s1 xs) (hi : allInt (is.take 2) = true)
    (hd : readsD = true → readDst di = true) (hl : nameLocked (coreAt s (curP s)) (curStrand s) di = false)
    (he : eaOf ((nth xs 0).pat 0) 0 = ea) (hat : atomicAt s [.read, .write] ea = .ok (s2, ⟨0, ea, .mem w leaf⟩))
    (hg : stateGuard s2 8 [⟨0, ea, .mem w leaf⟩] = .ok ()) (hc : claimWord s2 w = .mine s3) (hrel : release s3 = .ok s4)
    (hf : oldFit di (loadPhys s4 w 8) = .ok r)
    (hrd : readSrcs (releaseWord (storePhys (countTouch s4 ⟨0, ea, .mem w leaf⟩ true) (some s4.cur) w 8
      (new (loadPhys s4 w 8) xs)) w) (xs.map (·.info)) [] = .ok (s5, ys)) (hw : writeOne s5 di (.ok r) = .ok s6) :
    rmw s g d a b readsD new = .next (keepHub s (Claims.accessEnd s s6 (!(isOwn ea)))) := by
  rw [rmw, uniformOp_ready hr rfl (by cases readsD <;> simp_all) (by simp), unlocked_single_ok hl]
  subst he
  simp only [hat, hg, withWord, hc, hrel, hf, hrd, hw, ok_bind, nthD, List.getD_cons_zero]
  exact Claims.endAccess_finish ..

/-- An instruction whose sources cannot be read parks before its body (R36). -/
theorem uniformOp_unread {s : State} {g : Guard} {static : Bool} {ds srcs : List NameIx} {di is : List NameInfo} {e : Stop}
    {typesOk : List NameInfo → List NameInfo → Bool} {body : State → List NameInfo → List Src → Res State}
    (he : Enabled s .uniform g [0]) (hd : infos (curStrand s) ds = some di) (hi : infos (curStrand s) srcs = some is)
    (hdk : di.all uniDst = true) (hsk : is.all uniSrc = true) (hs : static = true) (ht : typesOk di is = true)
    (hr : readSrcs s is [] = .error e) : uniformOp s g false static ds srcs typesOk body = finish s (.error e) := by
  simp only [uniformOp, hd, hi]
  rw [gated_enabled he (by simp [hs, hdk, hsk, ht]) (by simp), hr]
  rfl

/-- A uniform destination that may be read is a source as well. -/
theorem uniSrc_of_readDst {di : NameInfo} (hd : uniDst di = true) (hr : readDst di = true) : uniSrc di = true := by
  obtain ⟨-, hlane⟩ := Bool.and_eq_true_iff.mp hd
  refine Bool.and_eq_true_iff.mpr ⟨?_, hlane⟩
  simp only [readDst, NameInfo.srcKind, Bool.or_eq_true, beq_iff_eq, bne_iff_ne] at *
  omega

theorem eaOf_zero (n : Nat) : eaOf n 0 = n % 2 ^ 48 := by
  rw [Claims.eaOf_eq]
  omega

end Sys2Proof.Machine

section

open Sys2Proof Sys2Proof.Machine Sys2Proof.Claims

/-- Settles O16: each form past its gate, by the steps of the word it takes, fills, sets or tests. -/
theorem fullEmptyInstructionsResults : Obligations.FullEmptyInstructionsResults := by
  intro s g d a dp i di ai lanes s1 s2 s3 s4 s5 xs ts vals fl ea w leaf
  refine ⟨fun he hd hi hsz hk => ⟨fun hdk hr => ⟨fun hl => ?_, fun hl hch htk haw hfit hr2 hw => ?_⟩,
    fun hsk hr hch hg hov hfit hrel hwt => ?_⟩, fun hr hint hea => ⟨fun hch => ⟨?_, fun hrel => ?_⟩, fun hdp hch => ?_⟩⟩
  · have hstat : accessKinds (classD s d) (di.dstKind && sizeOk di 8) di [ai] = true := by
      rw [hdk, hsz]; exact hk
    rw [Parks, exec_ldt]
    dsimp only [execLdt]
    rw [hd, hi]
    dsimp only
    rw [gated_enabled (cls := classD s d) he hstat (by simp), hr, ok_bind, unlocked_single_park hl]
    rfl
  · have hstat : accessKinds (classD s d) (di.dstKind && sizeOk di 8) di [ai] = true := by
      rw [hdk, hsz]; exact hk
    rw [exec_ldt]
    dsimp only [execLdt]
    rw [hd, hi]
    dsimp only
    rw [gated_enabled (cls := classD s d) he hstat (by simp)]
    simp only [hr, ok_bind, unlocked_single_ok hl, hch, leaveTakes, htk, haw, hfit, hr2, hw]
    exact endAccess_finish ..
  · have hstat : (true && accessKinds (classD s d) (di.srcKind && sizeOk di 8 && anyKinds [ai]) di [ai]) = true := by
      rw [hsk, hsz]; exact hk
    rw [exec_put]
    dsimp only [execPut, storeOp]
    rw [hd, hi]
    dsimp only
    rw [gated_enabled (cls := classD s d) he hstat (by simp)]
    simp only [hr, ok_bind, hch, hg, hov, hfit, hrel, ite_self, hwt]
    exact endAccess_finish ..
  · rw [exec_feset, execFeset]
    exact stateOp_ready hr rfl hint hea hch rfl
  · rw [exec_feset, execFeset]
    exact stateOp_ready hr rfl hint hea hch (by simp only [if_true, hrel, ok_bind])
  · rw [exec_fetest, execFetest]
    exact stateOp_ready hr (by simpa using hdp) hint hea hch rfl

/-- Settles O18: each form past its gate, by `stateOp_ready` and the read-modify-write lemmas. -/
theorem reservationFormsResults : Obligations.ReservationFormsResults := by
  intro s g d a b i di ai bi s1 s2 s3 s4 s5 s6 xs w ea granted leaf r q
  refine ⟨fun hr hint hsz hno hea => ⟨fun hl => ?_, fun hl hat hcl hq hgr hfit hrd hw hs6 => ?_⟩,
    fun hr hint hsz hea hh hch hg hfit hrel => ?_, fun ha hb hr => ⟨fun hl => ⟨?_, ?_⟩, fun hrdst hi hpark => ?_⟩,
    fun hea ha hb hl hat hg hcl hrel => ?_⟩
  · rw [Parks, exec_rsv, execRsv, uniformOp_ready hr rfl (by simp [allInt, hint, hsz]) (by simp)]
    simp only [hno, Option.isSome_none, Bool.false_eq_true, if_false, unlocked_single_park hl]
    rfl
  · subst hea hs6 hgr
    rw [exec_rsv, execRsv, uniformOp_ready hr rfl (by simp [allInt, hint, hsz]) (by simp)]
    simp only [hno, Option.isSome_none, Bool.false_eq_true, if_false, unlocked_single_ok hl, ok_bind, hat, withWord,
      touchWord, hcl, nthD, List.getD_cons_zero, hfit, hrd, hw, tgetD, hq, Option.getD_some]
    exact endAccess_finish ..
  · subst hea
    rw [exec_rel, execRel, uniformOp_ready hr rfl (by simp [allInt, hint, hsz]) (by simp)]
    simp only [hh, hch, hg, hfit, hrel, ok_bind, bne_self_eq_false, Bool.false_eq_true, if_false]
    exact endAccess_finish ..
  · rw [Parks, exec_faa, execFaa, rmw_ready hr (by simp [allInt, ha, hb]) (by simp) hl]
    rfl
  · rw [Parks, exec_swp, execSwp, rmw_ready hr (by simp [allInt, ha, hb]) (by simp) hl]
    rfl
  · have hd : uniDst di = true := by simpa using hr.dstKinds
    have hs : (uniSrc ai = true ∧ uniSrc bi = true) := by simpa using hr.srcKinds
    have he : Enabled s .uniform g [0] := ⟨hr.notNever, fun _ => ⟨hr.guard, rfl⟩, fun h => by cases h⟩
    rw [Parks, exec_cas, execCas, rmw, if_pos rfl, uniformOp_unread he hr.dsts hi (by simp [hd])
      (by simp [hs, uniSrc_of_readDst hd hrdst]) rfl (by simp [allInt, ha, hb, hrdst]) hpark]
    rfl
  · intro old after hfit
    have he : eaOf ((nth xs 0).pat 0) 0 = ea := by rw [eaOf_zero, hea]
    refine ⟨fun hr => ⟨fun s5 s6 ys hrd hw => ?_, fun s5 s6 ys hrd hw => ?_⟩, fun hr hrdst s5 s6 ys hrd hw => ?_⟩
    · rw [exec_faa, execFaa]
      exact rmw_done hr (by simp [allInt, ha, hb]) (by simp) hl he hat hg hcl hrel hfit hrd hw
    · rw [exec_swp, execSwp]
      exact rmw_done hr (by simp [allInt, ha, hb]) (by simp) hl he hat hg hcl hrel hfit hrd hw
    · rw [exec_cas, execCas]
      exact rmw_done hr (by simp [allInt, ha, hb]) (fun _ => hrdst) hl he hat hg hcl hrel hfit hrd hw

end

/-! ## Key/value loads (R174); EXIT, and the writes that it waits for (R128, R177) -/

section

open Sys2Proof Sys2Proof.Machine Sys2Proof.Claims

/-- Settles O19: past the gate, the captured KVDESC and the lanes' lookups decide. -/
theorem ldkResolvesEachLane : Obligations.LdkResolvesEachLane := by
  intro s g d a i di ai lanes s1 s2 s3 s4 xs desc vs h vals fl he hd hi hdk hsz hk hr kv
  have hstat : accessKinds (classD s d) (di.dstKind && sizeOk di 8) di [ai] = true := by
    rw [hdk, hsz]; exact hk
  have hkv : capturedKv s = kv := rfl
  refine ⟨fun hl => ?_, fun hl hnz hal hdesc hlds hfit hw => ?_⟩
  · rw [Parks, exec_ldk]
    dsimp only [execLdk]
    rw [hd, hi]
    dsimp only
    rw [gated_enabled (cls := classD s d) he hstat (by simp), hr, ok_bind, unlocked_single_park hl]
    rfl
  · have hfind : (lanes.map fun l => (l, immAddr 8 i xs l)).find? (fun e => e.2 % 8 != 0) = none := by
      rw [List.find?_eq_none]
      simpa using hal
    rw [exec_ldk]
    dsimp only [execLdk]
    rw [hd, hi]
    dsimp only
    rw [gated_enabled (cls := classD s d) he hstat (by simp)]
    simp only [hr, ok_bind, unlocked_single_ok hl, hkv, if_neg hnz, hfind, hdesc, hlds, hfit, hw]
    refine (endAccess_finish ..).trans ?_
    cases h <;> rfl

end

namespace Sys2Proof.Machine

/-- Slot 1 of core 0 holds a strand that has nothing waiting anywhere; the merge buffer of the core is empty, but a write
that it has written out waits at the home of word 0, which the strand of key 99 has reserved (R177, R286). -/
def mergedWriteWaits : State :=
  { State.reset with
      cur := 1
      strands := [(1, Strand.blank)]
      rsvs := [(0, ⟨some 99, 0, false, [], [⟨mergeAgent 0, 0, 8, 0, false, false⟩]⟩)] }

theorem mergedWriteWaits_release : release mergedWriteWaits = parkNow (.reservation 0) := rfl

/-- EXIT waits for the write: its slot stays taken. -/
theorem mergedWriteWaits_exit : exec (.exit ⟨false, 0⟩) mergedWriteWaits =
    .next (keepHub mergedWriteWaits (parkStrand mergedWriteWaits 1 (.reservation 0))) := by
  have he : Enabled mergedWriteWaits .uniform ⟨false, 0⟩ [0] := ⟨rfl, fun _ => ⟨rfl, rfl⟩, fun h => by cases h⟩
  rw [exec_exit, execExit, gated_enabled he rfl (by simp), mergedWriteWaits_release]
  rfl

end Sys2Proof.Machine

section

open Sys2Proof Sys2Proof.Machine Sys2Proof.Claims

/-- Refutes O21: its last clause asks that no write of the strand waits and that the merge buffer is empty, but EXIT, a
release, also waits while a write that the buffer has already written out waits at the home of a reserved word; there the
slot is not freed. -/
theorem not_startJoinAndExit : ¬ Obligations.StartJoinAndExit := by
  intro h
  obtain ⟨hfree, -⟩ := h.2 mergedWriteWaits _ ⟨false, 0⟩ ⟨rfl, fun _ => ⟨rfl, rfl⟩, fun h => by cases h⟩ rfl
    (fun h0 => absurd h0 (by decide)) rfl rfl mergedWriteWaits_exit
  exact absurd hfree (by decide)

end

/-! ## Monitors (R133-R137) -/

namespace Sys2Proof.Machine

/-- The state in which a strand waits for its arming to be recorded, having loaded `v`. -/
def armedState (u : State) (m ea pa v : Nat) : State :=
  setCur (armMonitor u m ea pa) fun t => { t with answer := some (.armed (BitVec.ofNat 48 ea) (word v)) }

theorem plainAddr_lt (xs : List Src) (l : Nat) : plainAddr xs l < 2 ^ 48 := by
  rw [plainAddr, eaOf_zero]
  exact Nat.mod_lt _ (by decide)

/-- The first issue arms the monitor and waits (R133). -/
theorem monOp_arms {s s' s1 s2 : State} {ea n m pa v : Nat} {leaf : Option Nat} {load : State → Touch → Res (State × Nat)}
    {body : State → Nat → Res State} (ha : (curStrand s).answer = none)
    (hc : checkAll s s .watch [.read] n 7 [(0, ea)] = .ok (s1, [⟨0, ea, .mem pa leaf⟩]))
    (hl : load s1 ⟨0, ea, .mem pa leaf⟩ = .ok (s2, v)) :
    monOp s s' ea n m load body = .error (.park .arming (some (addEvent (armedState s2 m ea pa v)
      (.accessReply (armedState s2 m ea pa v).cur)))) := by
  simp only [monOp, ha, hc, ok_bind, hl]
  rfl

/-- The second issue, the arming done, keeps the word that was loaded (R133). -/
theorem monOp_armed {s s' : State} {ea n m v : Nat} {load : State → Touch → Res (State × Nat)}
    {body : State → Nat → Res State} (he : ea < 2 ^ 48)
    (ha : (curStrand s).answer = some (.armed (BitVec.ofNat 48 ea) (word v))) :
    monOp s s' ea n m load body = body s' (word v).toNat := by
  simp only [monOp, ha]
  exact if_pos (by rw [BitVec.toNat_ofNat, Nat.mod_eq_of_lt he])

end Sys2Proof.Machine

section

open Sys2Proof Sys2Proof.Machine Sys2Proof.Claims

/-- Settles O23: arming and its second issue by the answer held, WAITA by its cause word. -/
theorem monitorsAreArmedAndAwaited : Obligations.MonitorsAreArmedAndAwaited := by
  intro s g d a m di ai s1 s2 s3 s4 xs ys ea pa v leaf hro
  have hnr : notRoaming s = true := by simp [notRoaming, hro]
  refine ⟨fun hea hint => ⟨fun hr => ⟨fun hno hch => ?_, fun hans => ?_⟩,
    fun hr hsz => ⟨fun hl => ?_, fun hl hno hch hrd hld => ?_, fun hl hans hv hw => ?_⟩⟩,
    fun hr => ⟨fun hl => ?_, fun hl => ⟨fun w hc hrd hw => ?_, fun hno hnw => ?_⟩⟩⟩
  · rw [exec_mon, execMon, uniformOp_ready hr hnr (by simp [intOnly, allInt, hint]) (by simp), ← hea,
      monOp_arms hno hch rfl]
    rfl
  · rw [exec_mon, execMon, uniformOp_ready hr hnr (by simp [intOnly, allInt, hint]) (by simp), ← hea,
      monOp_armed (hea ▸ plainAddr_lt xs 0) hans]
    rfl
  · rw [Parks, exec_monx, execMonx, uniformOp_ready hr hnr (by simp [allInt, hint, hsz]) (by simp),
      unlocked_single_park hl]
    rfl
  · rw [exec_monx, execMonx, uniformOp_ready hr hnr (by simp [allInt, hint, hsz]) (by simp), unlocked_single_ok hl, ok_bind,
      ← hea]
    dsimp only
    rw [monOp_arms hno hch (by rw [hrd, ok_bind, hld])]
    rfl
  · rw [exec_monx, execMonx, uniformOp_ready hr hnr (by simp [allInt, hint, hsz]) (by simp), unlocked_single_ok hl, ok_bind,
      ← hea]
    dsimp only
    rw [monOp_armed (hea ▸ plainAddr_lt xs 0) hans, word_toNat_of_lt hv]
    simp only [nthD, List.getD_cons_zero, hw, ok_bind]
    rfl
  · rw [Parks, exec_waita, execWaita, uniformOp_ready hr hnr rfl (by simp), unlocked_single_park hl]
    rfl
  · have hend : waitaNow s2 di (nth xs 0).info w = .ok (advance (setCur s4 disarmAll)) := by
      simp only [waitaNow, endWaita, hrd, ok_bind, hw]
    rw [exec_waita, execWaita, uniformOp_ready hr hnr rfl (by simp), unlocked_single_ok hl, ok_bind]
    rcases hc with ⟨hh, rfl⟩ | ⟨hh, hww⟩
    · simp only [hh, nthD, List.getD_cons_zero, hend]
      rfl
    · simp only [hh, hww, nthD, List.getD_cons_zero, hend]
      rfl
  · rw [exec_waita, execWaita, uniformOp_ready hr hnr rfl (by simp), unlocked_single_ok hl, ok_bind]
    simp only [hno, hnw]
    rfl

end

/-! ## Fences, debug breaks, map loads and the confidence test (R142, R143, R148-R154) -/

namespace Sys2Proof.Machine

/-- The first part of a FENCE: for class w the strand's earlier stores are performed (R142). -/
def fenceStores (s : State) (w : Bool) : Res State := if w then settleStores s else .ok s

/-- The rest of a FENCE: it waits for commands and copies for class e, and drops the line buffer for i (R142, R143). -/
def fenceRest (d a : BitVec 4) (s : State) : Res State :=
  if bitN d.toNat 2 && workPending s s.cur then .error (.park .engines (some s))
  else .ok (advance (if bitN a.toNat 3 then setCur s fun t => { t with lineBuf := none } else s))

theorem execFence_enabled {s : State} {g : Guard} {d a : BitVec 4} {sc : BitVec 3} (he : Enabled s .uniform g [0])
    (hs : sc.toNat ≤ 5) (hd : d ≠ 0) (ha : a ≠ 0) :
    execFence g d a sc s = finish s (fenceStores s (bitN d.toNat 1) >>= fenceRest d a) := by
  rw [execFence, gated_enabled he (by simpa using hs) (by simp)]
  refine congrArg (finish s) ((if_neg (by simpa using ⟨hd, ha⟩)).trans ?_)
  cases bitN d.toNat 1 <;> rfl

/-- The buffer is drained where class w asks for it, and nothing waits. -/
theorem fenceStores_ready {s s1 : State} {w : Bool} (hd : (if w then drainMerge s else .ok s) = .ok s1)
    (hw : w = true → storesWait s1 s1.cur = none) : fenceStores s w = .ok s1 := by
  cases w with
  | false => exact hd
  | true =>
    rw [if_pos rfl] at hd
    rw [fenceStores, if_pos rfl, settleStores, hd, ok_bind, hw rfl]

theorem fenceStores_wait {s s1 : State} {w : Bool} {pa : Nat} (hd : (if w then drainMerge s else .ok s) = .ok s1)
    (hw : w = true) (hp : storesWait s1 s1.cur = some pa) : fenceStores s w = parkNow (.reservation pa) := by
  subst hw
  rw [if_pos rfl] at hd
  rw [fenceStores, if_pos rfl, settleStores, hd, ok_bind, hp]

theorem execDbrk_enabled {s : State} {g : Guard} {c : BitVec 6} (he : Enabled s .uniform g [0]) :
    execDbrk g c s = finish s (.ok (if s.kydb && s.breaksOn then
      haltCore { setCur (advance s) (haltStrand s (curP s)) with
        told := (setCur (advance s) (haltStrand s (curP s))).told ++
          [.breakCode (coreAt s (curP s)).logical (curSlot s) c] } (curP s)
      else advance s)) := by
  rw [execDbrk, gated_enabled he rfl (by simp)]
  split <;> rfl

theorem exitFormed_none {t : Strand} (h : ∀ j, t.answer ≠ some (.exit j)) : exitFormed t = none := by
  unfold exitFormed
  split
  · next j hj => exact absurd hj (h j)
  · rfl

theorem exitFormed_some {t : Strand} {j : Job} (h : t.answer = some (.exit j)) : exitFormed t = some j := by
  simp only [exitFormed, h]

theorem exitPost_room {s : State} {d : Nat} {j : Job} (h : jobsQueued (endConf s d) j.cluster < 64) :
    exitPost s d j = .error (.park .reply (some (addEvent (postJob (progressCur (endConf s d)) j)
      (.accessReply (endConf s d).cur)))) := if_pos h

theorem exitPost_full {s : State} {d : Nat} {j : Job} (h : 64 ≤ jobsQueued (endConf s d) j.cluster) :
    exitPost s d j = .error (.park (.backfillRoom j.cluster)
      (some (addEvent (setCur (endConf s d) fun t => { t with job := some j }) (.confExitJobPost (endConf s d).cur)))) :=
  if_neg (Nat.not_lt.mpr h)

/-- An exit whose checks have passed: on the last layer the token's future is resolved, on an earlier one the marks are
made (R151, R152). -/
theorem exitToken_checked {s s2 s3 : State} {is : List NameInfo} {d kv e tok hv : Nat} {desc : KvDesc} {f : Future}
    (hkv : kv = ctlOf (coreAt s (curP s)) 0x0D) (hnz : kv ≠ 0) (hnear : nearButVault kv = false)
    (hdesc : strandKv s s kv = .ok (s2, desc)) (hsh : kvShared kv desc = true) (hcur : kvCursor desc = some (e, tok))
    (hrd : strandRead s s2 4 ((desc.bffut + 4 * tok) % 2 ^ 48) = .ok (s3, hv))
    (hf : liveFut s3 (BitVec.ofNat 32 hv) = .ok f) :
    exitToken s is d = if e = desc.layers then (do
        let (s4, _) ← readSrcs s3 is []
        fsetStep s4 (BitVec.ofNat 32 hv) 0 fun u _ => .error (.park .reply (some (addEvent (endConf u d) (.accessReply u.cur)))))
      else exitMarks s3 kv desc e tok (BitVec.ofNat 32 hv) := by
  subst hkv
  simp only [exitToken, if_neg hnz, hnear, Bool.false_eq_true, if_false, hdesc, ok_bind, hsh, Bool.not_true, hcur, hrd, hf]

end Sys2Proof.Machine

section

open Sys2Proof Sys2Proof.Machine Sys2Proof.Claims

/-- Settles O31: each by the phase that its premises name: stores, commands, the line buffer; marks, then the job. -/
theorem fenceDebugBreakMapLoadAndConfidence : Obligations.FenceDebugBreakMapLoadAndConfidence := by
  refine ⟨fun s g d a sc c s1 he => ⟨fun hsc => ⟨fun hda => ?_, fun hd ha hdr => ⟨fun hw w hp => ?_,
    fun hnw => ⟨fun hb hwp => ?_, fun hnp => ?_⟩⟩⟩, fun hoff => ?_, fun hk hb => ?_⟩,
    fun s g a b d i ai bi s1 xs m u l => ⟨fun hr hint hm hf => ?_, fun hr hd ht => ?_⟩⟩
  · rw [exec_fence, execFence, gated_enabled he (by simpa using hsc) (by simp)]
    exact congrArg (finish s) (if_pos (by simpa using hda))
  · rw [Parks, exec_fence, execFence_enabled he hsc hd ha, fenceStores_wait hdr hw hp]
    rfl
  · rw [exec_fence, execFence_enabled he hsc hd ha, fenceStores_ready hdr hnw]
    exact congrArg (finish s) (if_pos (by rw [hb, hwp]; rfl))
  · have hno : (bitN d.toNat 2 && workPending s1 s1.cur) = false := by
      cases hb : bitN d.toNat 2 with
      | false => rfl
      | true => rw [hnp hb]; rfl
    rw [exec_fence, execFence_enabled he hsc hd ha, fenceStores_ready hdr hnw]
    exact congrArg (finish s) (if_neg (by rw [hno]; exact Bool.false_ne_true))
  · have hno : (s.kydb && s.breaksOn) = false := by rcases hoff with h | h <;> simp [h]
    rw [exec_dbrk, execDbrk_enabled he, hno]
    rfl
  · rw [exec_dbrk, execDbrk_enabled he, hk, hb]
    rfl
  · rw [exec_mapld, execMapld, uniformOp_ready hr rfl (by simp [intOnly, allInt, hint]) (by simp)]
    simp only [hm, hf, ok_bind]
    rfl
  · intro yes
    have hexit : exec (.confExit g d a b) s = finish s (match exitFormed (curStrand s) with
        | some j => exitPost s1 d.toNat j
        | none => if confident s1 (nth xs 0) (nth xs 1) then exitToken s (xs.map (·.info)) d.toNat
          else .ok (advance (setCur s1 fun t => setP t d.toNat false))) := by
      rw [exec_confExit, execConfExit, uniformOp_ready hr (by simpa using hd) ht (by simp)] <;> rfl
    refine ⟨?_, fun j hj => ⟨fun hroom => ?_, fun hfull => ?_⟩, fun hnj => ⟨fun hn => ?_, fun hy => ?_⟩⟩
    · rw [exec_conf, execConf, uniformOp_ready hr (by simpa using hd) ht (by simp)]
      rfl
    · rw [hexit, exitFormed_some hj]
      exact congrArg (finish s) (exitPost_room hroom)
    · rw [hexit, exitFormed_some hj]
      exact congrArg (finish s) (exitPost_full hfull)
    · rw [hexit, exitFormed_none hnj]
      exact congrArg (finish s) (if_neg (by simpa [yes] using hn))
    · intro kv e tok hv desc f s2 s3 s4 s5 s6 ys ps h hkv hnz hnear hdesc hsh hcur hrd hf
      have hexit' : exec (.confExit g d a b) s = finish s (exitToken s (xs.map (·.info)) d.toNat) := by
        rw [hexit, exitFormed_none hnj]
        exact congrArg (finish s) (if_pos hy)
      rw [hexit', exitToken_checked hkv hnz hnear hdesc hsh hcur hrd hf]
      refine ⟨fun he hr4 hf4 hg hrel => ?_, fun he hm => ?_⟩
      · rw [if_pos he]
        have hset : fsetStep s4 h 0 (fun u _ => .error (.park .reply (some (addEvent (endConf u d.toNat) (.accessReply u.cur))))) =
            .error (.park .reply (some (addEvent (endConf (settle s6 h (.resolve (some (word 0))) (strandLog s6 2)) d.toNat)
              (.accessReply (settle s6 h (.resolve (some (word 0))) (strandLog s6 2)).cur)))) := by
          simp only [fsetStep, hf4, hg, hrel, ok_bind]
        simp only [hr4, ok_bind]
        exact congrArg (finish s) hset
      · rw [if_neg he]
        simp only [exitMarks, hm, ok_bind]
        rfl

end

/-! ## Engine queues, copies and messages (R182-R187, R189-R195) -/

namespace Sys2Proof.Machine

theorem execEnq_ready {s s1 s2 : State} {g : Guard} {a : NameIx} {e : BitVec 1} {ai : NameInfo} {xs : List Src} {ea : Nat}
    (hr : UniformReady s g [] [a] [] [ai] s1 xs) (hi : ai.isInt = true) (he : ea = (nth xs 0).pat 0 % 2 ^ 48)
    (hal : ea % 32 = 0) (hlt : ea < 0x2_0000) (hp : poisoned s1 (lsBase (curP s1) + ea) 32 = none)
    (hroom : (engineAt (coreAt s1 (curP s1)) e.toNat).queue.length < 2) (hrel : release s1 = .ok s2) :
    execEnq g a e s = .next (keepHub s (advance (startNext (setEngine s2 (curP s1) e.toNat
      { engineAt (coreAt s2 (curP s1)) e.toNat with
        queue := (engineAt (coreAt s2 (curP s1)) e.toNat).queue ++ [capture s2 ea] }) (curP s1) e.toNat))) := by
  rw [execEnq, uniformOp_ready hr rfl (by simp [allInt, hi]) (by simp)]
  dsimp only
  rw [← he]
  have hal' : ¬ (ea % 32 != 0) = true := by simp [hal]
  have hp' : ¬ (poisoned s1 (lsBase (curP s1) + ea) 32).isSome = true := by simp [hp]
  rw [if_neg hal', if_neg (Nat.not_le.mpr hlt), if_neg hp', if_neg (Nat.not_le.mpr hroom), hrel]
  rfl

theorem sendLocal_live {s s2 : State} {w cls q : Nat} {v : BitVec 64} (hp : physOf s (curStrand s).lid (fieldN w 0 16) = some q)
    (hl : (coreAt s q).lid = (curStrand s).lid) (hz : (curStrand s).lid ≠ 0)
    (hroom : sendRoom s q cls (fieldN w 16 5) = true) (hr : release s = .ok s2) :
    sendLocal s w cls v = .ok (advance (sendTo s2 q cls (fieldN w 16 5) v)) := by
  have hlive : ((curStrand s).lid != 0 && asidOf s (curStrand s).lid == asidOf s (curStrand s).lid) = true := by
    simp [hz]
  simp only [sendLocal, hp, hl, hlive, if_true, bne_self_eq_false, Bool.false_and, Bool.false_eq_true, if_false, hroom, hr]
  rfl

/-- SEND with the bits of its destination word in order. -/
theorem execSend_ready {s s1 : State} {g : Guard} {a b : NameIx} {c : BitVec 2} {ai bi : NameInfo} {xs : List Src}
    (hr : UniformReady s g [] [a, b] [] [ai, bi] s1 xs) (hd : destOk (srcWord s (nth xs 0)) c.toNat = true) :
    execSend g a b c s = finish s (
      if destHere s1 (curStrand s1).lid (srcWord s (nth xs 0)) then
        sendLocal s1 (srcWord s (nth xs 0)) c.toNat (word (srcWord s (nth xs 1)))
      else if inTorus s1 (curStrand s1).lid (fieldN (srcWord s (nth xs 0)) 32 12) &&
          routeOk s1 (curStrand s1).lid (fieldN (srcWord s (nth xs 0)) 32 12) then
        (release s1).map fun u => advance (sendRemote u (srcWord s (nth xs 0)) c.toNat (word (srcWord s (nth xs 1))))
      else trapNow cILLEGAL (srcWord s (nth xs 0))) := by
  rw [execSend, uniformOp_ready hr rfl rfl (by simp)]
  exact congrArg (finish s) (if_neg (by simp [hd]))

end Sys2Proof.Machine

section

open Sys2Proof Sys2Proof.Machine Sys2Proof.Claims

/-- Settles O36: past the gate, the queue's room and the FIFO's head decide. -/
theorem engineQueueInstructionsResults : Obligations.EngineQueueInstructionsResults := by
  intro s g d a e e2 di ai s1 s2 s3 xs x h rest p n
  refine ⟨fun hr hi hal hlt hp hroom hrel => ?_, fun hr => ⟨fun hl => ?_, fun hl hfifo => ⟨fun hz hw => ?_, fun hz => ?_⟩,
    fun v fl hfit hw => ?_⟩, fun he hsv he2 => ?_⟩
  · rw [exec_enq, execEnq_ready hr hi rfl hal hlt hp hroom hrel]
  · rw [Parks, exec_pop, execPop, uniformOp_ready hr rfl rfl (by simp), unlocked_single_park hl]
    rfl
  · rw [exec_pop, execPop, uniformOp_ready hr rfl rfl (by simp), unlocked_single_ok hl, ok_bind]
    simp only [hfifo, hz, nthD, List.getD_cons_zero, bne_self_eq_false, Bool.false_eq_true, if_false, hw, ok_bind, p, n]
    rfl
  · have hne : (elementStatus x != 0) = true := by simpa using hz
    have hfifo' : (engineAt (coreAt s1 (curP s1)) e.toNat).fifo = (x, h) :: rest := hfifo
    rw [exec_pop, execPop, uniformOp_ready hr rfl rfl (by simp), unlocked_single_ok hl, ok_bind]
    simp only [hfifo', hne, if_true]
    rfl
  · rw [exec_epeek, execEpeek, uniformOp_ready hr rfl rfl (by simp)]
    simp only [n, p] at hfit
    simp only [nthD, List.getD_cons_zero, hfit, hw, Except.map, ok_bind]
    rfl
  · rw [exec_eres, execEres, gated_enabled he (by simpa using he2) (fun _ => hsv)]
    rfl

/-- Settles O37: past the gate, the copy registers, the mailbox and the queue decide. -/
theorem copyAndMessageInstructionsResults : Obligations.CopyAndMessageInstructionsResults := by
  intro s g d a b r sel c di ai bi s1 s2 s3 s4 xs m q p
  refine ⟨fun hr hlt => ?_, fun hr hroom hrel hw => ?_, fun hr hd hrel => ⟨fun hh hp hl hz hroom => ?_,
    fun hh ht hro => ?_⟩, fun hr hb hm hw hw2 => ?_, fun hr hsel hok hs2 hs3 hw => ?_⟩
  · rw [exec_cxset, execCxset, uniformOp_ready hr (by simpa using hlt) rfl (by simp)]
    rfl
  · rw [exec_cxgo, execCxgo, uniformOp_ready hr rfl rfl (by simp)]
    refine (congrArg (finish s) (if_neg (Nat.not_le.mpr hroom))).trans ?_
    simp only [hrel, ok_bind, nthD, List.getD_cons_zero]
    have hw' : writeOne (addEvent (modCore s2 (curP s1) fun x => { x with
        copies := tset x.copies (coreAt s2 (curP s1)).nextId (captureCopy s2),
        nextId := (coreAt s2 (curP s1)).nextId % 65535 + 1 })
      (copyEvent (curP s1) (coreAt s2 (curP s1)).nextId (if (captureCopy s2).mode < 8 then (captureCopy s2).mode else 0))) di
      (fitEither di (coreAt s2 (curP s1)).nextId) = .ok s3 := hw
    rw [hw', ok_bind]
    rfl
  · rw [exec_send, execSend_ready hr hd, if_pos hh]
    exact congrArg (finish s) (sendLocal_live hp hl hz hroom hrel)
  · have hway : (inTorus s1 (curStrand s1).lid (fieldN (srcWord s (nth xs 0)) 32 12) &&
        routeOk s1 (curStrand s1).lid (fieldN (srcWord s (nth xs 0)) 32 12)) = true := by rw [ht, hro]; rfl
    rw [exec_send, execSend_ready hr hd, if_neg (by rw [hh]; exact Bool.false_ne_true), if_pos hway, hrel]
    rfl
  · have hbound : (match tget (coreAt s1 (curP s1)).binds c.toNat with
        | some slot => slot != curSlot s1
        | none => false) = false := by
      split
      · next slot hs => simpa using hb slot hs
      · rfl
    rw [exec_mrecv, execMrecv, uniformOp_ready hr rfl rfl (by simp)]
    refine (congrArg (finish s) (if_neg (by rw [Bool.not_eq_true]; exact hbound))).trans ?_
    simp only [p] at hm hw
    simp only [hm, nthD, List.getD_cons_zero, List.getD_cons_succ, hw, hw2, ok_bind]
    rfl
  · rw [exec_qctl, execQctl, uniformOp_ready hr (by simpa using hsel) rfl (by simp)]
    refine (congrArg (finish s) (if_neg (by simpa using hok))).trans ?_
    simp only [p] at hs2 hs3 hw
    subst hs2 hs3
    simp only [nthD, List.getD_cons_zero, Bool.and_eq_true, decide_eq_true_eq, hw, ok_bind]
    rfl

end

/-! ## Posting and roaming (R204, R206, R345) -/

namespace Sys2Proof.Machine

/-- POST's record has been read and found without fault, and it has a home (R204, R347). -/
theorem execPost_read {s s1 s2 s3 : State} {g : Guard} {d a : NameIx} {r : BitVec 1} {di ai : NameInfo} {xs : List Src}
    {rec : Record} {pa v : Nat} {f : Future} {l : Launch} (hr : UniformReady s g [d] [a] [di] [ai] s1 xs)
    (hi : ai.isInt = true) (hl : nameLocked (coreAt s (curP s)) (curStrand s) di = false)
    (hal : (nth xs 0).pat 0 % 2 ^ 48 % 64 = 0)
    (hrec : agentRecord s1 (curP s1) (curStrand s1).lid (curStrand s1).sv ((nth xs 0).pat 0 % 2 ^ 48) = .ok (s2, rec))
    (hw : rec.waitf ≠ 0 → liveFut s2 rec.waitf = .ok f) (hp : postPlace s s2 rec = .ok (s3, pa, v))
    (hla : launchAt s3 (curStrand s1).lid = some l) :
    execPost g d a r s = finish s (postRecord s3 rec (recordHome s3 l pa v) di (r == 1)) := by
  have hwait : ∃ e, (if rec.waitf = 0 then Except.ok Future.reset else liveFut s2 rec.waitf : Res Future) = .ok e := by
    by_cases hz : rec.waitf = 0
    · exact ⟨_, if_pos hz⟩
    · exact ⟨f, (if_neg hz).trans (hw hz)⟩
  obtain ⟨e, he⟩ := hwait
  have hal' : ¬ ((nth xs 0).pat 0 % 2 ^ 48 % 64 != 0) = true := by rw [hal]; decide
  rw [execPost, uniformOp_ready hr rfl (by simp [allInt, hi]) (by simp), unlocked_single_ok hl, ok_bind]
  dsimp only
  rw [if_neg hal']
  simp only [hrec]
  split
  · next hz =>
    simp only [hp, hla, ok_bind]
    rfl
  · next hz =>
    simp only [hw hz, hp, hla, ok_bind]
    rfl

/-- With no entry left for its future, a record is not posted. -/
theorem postRecord_full {s s4 s6 : State} {rec : Record} {home : Nat} {di : NameInfo} {refire : Bool}
    (hroom : postRoom s rec home = .ok ()) (hc : futChooseFor s 8 = .ok none) (hr : release s = .ok s4)
    (hw : writeOne s4 di (fitEither di 0) = .ok s6) :
    postRecord s rec home di refire = .ok (endStatus s6 false) := by
  simp only [postRecord, hroom, hc, hr, hw, ok_bind]

theorem postRecord_posts {s s4 s5 s6 s7 : State} {rec : Record} {home : Nat} {di : NameInfo} {refire : Bool}
    {h grp : BitVec 32} (hroom : postRoom s rec home = .ok ()) (hc : futChooseFor s 8 = .ok (some h))
    (hg : joinGroup s rec.group = .ok (s7, grp)) (hr : release s7 = .ok s4) (hrr : rrGate s4 8 h.toNat = .ok s5)
    (hw : writeOne (futLog (setFut (futAlloc s5 h (curStrand s).lid 0) (hIndex h)
      { futAt (futAlloc s5 h (curStrand s).lid 0) (hIndex h) with group := grp, anon := di.kind == 8 }) 8 h) di
      (fitEither di h.toNat) = .ok s6) :
    postRecord s rec home di refire = .ok (enqueueTask (endStatus s6 true)
      (rec.task h (curStrand s).lid (asidOf (endStatus s6 true) (curStrand s).lid) home (curStrand s).sv refire
        (curStrand s).tvec (curStrand s).wid)) := by
  simp only [postRecord, hroom, hc, hg, hr, hrr, hw, ok_bind]

/-- ROAM by a strand that may roam. -/
theorem execRoam_ready {s s1 s2 : State} {g : Guard} {a : NameIx} {ai : NameInfo} {xs : List Src} {o : RoamDest}
    (hr : UniformReady s g [] [a] [] [ai] s1 xs) (hi : ai.isInt = true) (hslot : curSlot s1 ≠ 0)
    (hm : mapRoam (curStrand s1).map.header.toNat = true) (hh : (curStrand s1).holds = none)
    (hb : someBound (coreAt s1 (curP s1)) (curSlot s1) = false)
    (ho : roamOwner s s1 ((nth xs 0).pat 0 % 2 ^ 48) = .ok (s2, o)) :
    execRoam g a s = finish s (
      if o = .core (curP s2) then .ok (advance s2)
      else if bitsLocked (coreAt s2 (curP s2)) false (curStrand s1).ubase.toNat (curStrand s1).usize.toNat then parkNow .repack
      else match regionBad s2 with
        | some v => trapNow cMCHECK v
        | none => (settleStores s2).map fun u => sendPacket u o) := by
  have hno : (curSlot s1 == 0 || !(mapRoam (curStrand s1).map.header.toNat) || (curStrand s1).holds.isSome ||
      someBound (coreAt s1 (curP s1)) (curSlot s1)) = false := by
    simp [hslot, hm, hh, hb]
  rw [execRoam, uniformOp_ready hr rfl (by simp [allInt, hi]) (by simp)]
  simp only [hno, Bool.false_eq_true, if_false, ho, ok_bind] <;> split <;> rfl

end Sys2Proof.Machine

section

open Sys2Proof Sys2Proof.Machine Sys2Proof.Claims

/-- Settles O35: POST by what its record and the room allow, ROAM by the owner it finds. -/
theorem postQueuesAndRoamSetsOut : Obligations.PostQueuesAndRoamSetsOut := by
  intro s g d a r di ai s1 s2 s3 s4 s5 s6 s7 xs rec pa v h grp f l o hi ea t
  refine ⟨fun hr hl => ?_, fun hr hl hal hrec hw hp hla hroom => ⟨fun hc hg hrel hrr hwr => ?_, fun hc hrel hwr => ?_⟩,
    fun hr hslot hm hh hb ho => ⟨fun hown => ?_, fun hother hlock hbad hset => ?_⟩⟩
  · rw [Parks, exec_post, execPost, uniformOp_ready hr rfl (by simp [allInt, hi]) (by simp), unlocked_single_park hl]
    rfl
  · rw [exec_post, execPost_read hr hi hl hal hrec hw hp hla, postRecord_posts hroom hc hg hrel hrr hwr]
    rfl
  · rw [exec_post, execPost_read hr hi hl hal hrec hw hp hla, postRecord_full hroom hc hrel hwr]
    rfl
  · rw [exec_roam, execRoam_ready hr hi hslot hm hh hb ho, if_pos hown]
    rfl
  · rw [exec_roam, execRoam_ready hr hi hslot hm hh hb ho, if_neg hother, hlock, hbad, hset]
    rfl

end

/-! ## Pairs and substitutes run the instructions that their words decode to (R55, R56, R419) -/

namespace Sys2Proof.Machine

open Claims in
/-- Every row of the opcode table builds an instruction that the table of words runs, widened or not. -/
theorem opRows_run : ∀ r ∈ opRows, ∀ w s, runWord (r.build w) s = exec (r.build w) s ∧
    ∀ x, runWord (widened x (r.build w)) s = exec (widened x (r.build w)) s := by
  simp only [opRows, opRows0, opRows1, opRows2, opRows3, opRows4, opRows5, List.forall_mem_append, List.forall_mem_cons,
    List.not_mem_nil, false_implies, implies_true, and_true]
  repeat' apply And.intro
  all_goals exact fun _ _ => ⟨rfl, fun _ => rfl⟩

/-- A word stands for an unassigned opcode, or a row of the table builds its instruction. -/
theorem decodeWord_cases {w : BitVec 32} {i : Instr} (h : decodeWord w = .ok i) :
    i = .unassignedOpcode w ∨ ∃ r ∈ opRows, i = r.build w := by
  unfold decodeWord at h
  split at h
  · cases h
    exact .inl rfl
  · split at h
    · next r hr =>
      cases h
      exact .inr ⟨r, List.mem_of_find?_eq_some hr, rfl⟩
    · cases h

/-- Run by itself, the instruction of the word that issues does what it does. -/
theorem runWord_decoded {s : State} {w : BitVec 32} {i : Instr} (hi : decodeWord w = .ok i) (hw : s.ir.word = w) :
    runWord i s = exec i s := by
  rcases decodeWord_cases hi with rfl | ⟨r, hr, rfl⟩
  · rw [exec_unassignedOpcode, ← hw]
    rfl
  · exact (opRows_run r hr w s).1

/-- The instruction of a pair, its immediate widened, does what it does by itself. -/
theorem exec_limm_widened {s : State} {x : BitVec 25} {w : BitVec 32} {i : Instr} (ht : opTakesExt (opOf w) = true)
    (hi : decodeWord w = .ok i) :
    exec (.limm x w) s = exec (widened x i) { s with ir := ⟨w, 8⟩ } := by
  simp only [exec_limm, execLimm, runPair, ht, hi, if_true]
  rcases decodeWord_cases hi with rfl | ⟨r, hr, rfl⟩
  · rfl
  · exact (opRows_run r hr w _).2 x

/-- A substitute of one instruction that completes is that instruction, as long as the pattern. -/
theorem runSubs_single {s t : State} {w : BitVec 32} {i : Instr} {len : Nat} (hi : decodeWord w = .ok i)
    (he : exec i { s with ir := ⟨w, len⟩ } = .next t) (hend : subEnd (curStrand s) t = .completed) :
    runSubs s len [⟨none, w⟩] s = t := by
  have hrun : runSub ⟨none, w⟩ len s = .next t := by
    rw [← he]
    simp only [runSub, hi]
    exact runWord_decoded hi rfl
  simp only [runSubs, List.isEmpty_nil, Bool.not_true, Bool.false_and, Bool.false_eq_true, if_false, hrun, hend, if_true]

end Sys2Proof.Machine

section

open Sys2Proof Sys2Proof.Machine Sys2Proof.Claims

theorem widened_immOp (o : ImmOp) (x : BitVec 25) (g : Guard) (d a : NameIx) (im : Imm 9) :
    widened x (o.instr g d a im) = o.instr g d a { im with ext := some x } := by
  cases o <;> rfl

/-- Settles O39: a pair decodes to the widened instruction; a substitute runs its rows. -/
theorem pairsAndSubstitutesRunTheirInstructions : Obligations.PairsAndSubstitutesRunTheirInstructions := by
  refine ⟨fun s u s1 ext w i g d a im im15 im21 di is lanes xs o vals flags s2 hu => ⟨fun ht hi => ⟨fun hx => ?_,
    fun hb he => ?_, fun hw => ⟨fun hli hr hint hfit => ?_, fun ho hr hint hsh hfit => ?_⟩⟩, fun hn => ?_⟩,
    fun s w e i p t hp => ⟨fun hz => ?_, fun hsub hop hi he hend => ?_⟩⟩
  · rw [hu]
    exact exec_limm_widened ht hi
  · subst hu hb
    rw [exec_limm_widened ht hi]
    exact ((branchesCallsAndLoops.1 _ g 0 { im21 with ext := some ext } .zero .zero [] s s []).1 he).1
  · subst hu hli
    rw [exec_limm_widened ht hi]
    exact (movesFieldsAndCountsResults _ g d 0 0 { im15 with ext := some ext } 0 0 di is lanes s1 xs).1 hr hint _ _ _ hfit hw
  · subst hu ho
    rw [exec_limm_widened ht hi, widened_immOp]
    exact (immediateFormsResults _ g d a { im with ext := some ext } di is lanes s1 xs hr hint).1 o hsh _ _ _ hfit hw
  · subst hu
    simp only [exec_limm, execLimm, runPair, hn, Bool.false_eq_true, if_false]
    rfl
  · simp only [exec_patchSubstitute, execPatchSubstitute, hp, hz]
    rfl
  · simp only [exec_patchSubstitute, execPatchSubstitute, hp, hsub, subInstrs, runSubs_single hi he hend]
    rfl

end

/-! ## The issue turn from the line buffer (R58, R290, R343) -/

namespace Sys2Proof.Machine

/-- What a turn leaves of the strand whose turn it is: its cycle of issue, and that it held back no longer. -/
theorem curStrand_beginIssue (s : State) (k : Nat) :
    ∃ c y, curStrand (beginIssue s k) = { strandAt s k with lastIssue := c, yieldAt := y } := by
  unfold beginIssue
  split
  · exact ⟨(strandAt s k).lastIssue, (strandAt s k).yieldAt, rfl⟩
  · refine ⟨some s.cycle, none, ?_⟩
    simp [curStrand, strandAt, tgetD, modCore, setCore, setStrand]

/-- A word is read from the line buffer that holds its line. -/
theorem fetchWord_lineBuf {s : State} {va n : Nat} {line : BitVec 512} {head : Bool}
    (h : (curStrand s).lineBuf = some (va / 64, n, line)) : fetchWord s va head = .ok (s, lineWord line va) := by
  simp only [fetchWord, h, if_true]

theorem keepPacket_false (s : State) (r : Out) : keepPacket s false r = r := by
  cases r <;> rfl

/-- A LIMM is never the first word of a packet of two (R343). -/
theorem packetOfTwo_limm {s : State} {w : BitVec 32} (h : opOf w = 0x7F) : packetOfTwo s w = false := by
  have hop : packetOp (opOf w) = false := by rw [h]; decide
  dsimp only [packetOfTwo]
  split
  · rfl
  · simp [packetWords, hop]

/-- A strand that owes no trap and stands at no breakpoint or patch issues from its line buffer. -/
theorem issue_lineBuf {s : State} {k n : Nat} {line : BitVec 512} {w : BitVec 32} (hp : (strandAt s k).pend = [])
    (hb : atBreak s k (strandAt s k) = false)
    (hl : (strandAt s k).lineBuf = some ((strandAt s k).pc.toNat / 64, n, line))
    (hm : patchMatch (beginIssue s k) = none) (hw : w = lineWord line (strandAt s k).pc.toNat) :
    issue s k = match fetchSecond (beginIssue s k) w with
      | .error e => finish (beginIssue s k) (.error e)
      | .ok (u, w2) => keepPacket u (!(s.paired == some k) && packetOfTwo u w) (runFetched u w w2) := by
  obtain ⟨c, y, hc⟩ := curStrand_beginIssue s k
  have hf : fetchWord (beginIssue s k) (strandAt s k).pc.toNat true = .ok (beginIssue s k, w) := by
    rw [hw]
    exact fetchWord_lineBuf (by rw [hc]; exact hl)
  simp only [issue, hb, Bool.and_false, Bool.false_eq_true, if_false, issueTurn, hc, hp, hf, hm] <;> rfl

theorem issue_word {s : State} {k n : Nat} {line : BitVec 512} {w : BitVec 32} {i : Instr} (hp : (strandAt s k).pend = [])
    (hb : atBreak s k (strandAt s k) = false)
    (hl : (strandAt s k).lineBuf = some ((strandAt s k).pc.toNat / 64, n, line))
    (hm : patchMatch (beginIssue s k) = none) (hw : w = lineWord line (strandAt s k).pc.toNat) (ho : opOf w ≠ 0x7F)
    (hi : decodeWord w = .ok i) :
    issue s k = keepPacket (beginIssue s k) (decide (s.paired ≠ some k) && packetOfTwo (beginIssue s k) w)
      (exec i { beginIssue s k with ir := ⟨w, 4⟩ }) := by
  have hs : fetchSecond (beginIssue s k) w = .ok (beginIssue s k, none) := if_neg ho
  have hd : decide (s.paired ≠ some k) = !(s.paired == some k) := by
    by_cases h : s.paired = some k <;> simp [h]
  rw [issue_lineBuf hp hb hl hm hw, hs, hd]
  simp only [runFetched, decodeFetched, hi, latchOf]

theorem issue_pair {s : State} {k n : Nat} {line : BitVec 512} {w : BitVec 32} {i : Instr} (hp : (strandAt s k).pend = [])
    (hb : atBreak s k (strandAt s k) = false)
    (hl : (strandAt s k).lineBuf = some ((strandAt s k).pc.toNat / 64, n, line))
    (hm : patchMatch (beginIssue s k) = none) (hw : w = lineWord line (strandAt s k).pc.toNat) (ho : opOf w = 0x7F)
    (hsame : ((strandAt s k).pc.toNat + 4) % 2 ^ 48 / 64 = (strandAt s k).pc.toNat / 64)
    (hi : decodePair (fld 25 0 w) (lineWord line (((strandAt s k).pc.toNat + 4) % 2 ^ 48)) = .ok i) :
    issue s k = exec i { beginIssue s k with ir := ⟨lineWord line (((strandAt s k).pc.toNat + 4) % 2 ^ 48), 8⟩ } := by
  obtain ⟨c, y, hc⟩ := curStrand_beginIssue s k
  have hs : fetchSecond (beginIssue s k) w =
      .ok (beginIssue s k, some (lineWord line (((strandAt s k).pc.toNat + 4) % 2 ^ 48))) := by
    have hf : fetchWord (beginIssue s k) (((strandAt s k).pc.toNat + 4) % 2 ^ 48) false =
        .ok (beginIssue s k, lineWord line (((strandAt s k).pc.toNat + 4) % 2 ^ 48)) :=
      fetchWord_lineBuf (by rw [hc, hsame]; exact hl)
    rw [fetchSecond, if_pos ho, hc]
    simp only [hf]
  rw [issue_lineBuf hp hb hl hm hw, hs]
  simp only [packetOfTwo_limm ho, Bool.and_false, keepPacket_false, runFetched, decodeFetched, hi, latchOf]

/-- A step of the working module that takes no input and in which no event happens is the turn of the strand to issue, or a
cycle passes (R342). -/
theorem step_working {s0 s : State} {o : Out} (hs : s = { s0 with tick := s0.tick + 1 }) (hp : s.hub.powered = true)
    (hr : s.hub.recovery = false) (ho : o = match nextIssuer s with
      | none => passCycle s
      | some k => issue s k) : Claims.StepIs s0 s o := by
  subst hs
  have hdown : (!s0.hub.powered || s0.hub.recovery) = false := by
    rw [show s0.hub.powered = true from hp, show s0.hub.recovery = false from hr]
    rfl
  have hwork : workStep { s0 with tick := s0.tick + 1 } = match s0.agenda with
      | .strandRejoin k :: rest => exec (.strandRejoin k) { s0 with tick := s0.tick + 1, agenda := rest }
      | e :: rest => if Config.agendaFirst (s0.tick + 1) then exec e { s0 with tick := s0.tick + 1, agenda := rest } else o
      | [] => o := by
    subst ho
    unfold workStep
    cases hn : nextIssuer { s0 with tick := s0.tick + 1 } <;> cases ha : s0.agenda with
    | nil => rfl
    | cons e rest => cases e <;> rfl
  unfold Claims.StepIs step
  simp only [hdown, Bool.false_eq_true, if_false, hwork] <;> rfl

end Sys2Proof.Machine

section

open Sys2Proof Sys2Proof.Machine Sys2Proof.Claims

/-- Settles O55: a working step issues the word, or the pair, that the line buffer holds. -/
theorem stepRunsTheDecodedInstruction : Obligations.StepRunsTheDecodedInstruction := by
  intro s0 s b k n t line w i hs hp hr
  refine ⟨fun hk ht hpend hb hl hbeg hm hw => ⟨fun ho hi => ?_, fun ho hsame hi => ?_⟩, fun hn => ?_⟩
  · subst ht hbeg
    exact step_working hs hp hr (by rw [hk]; exact (issue_word hpend hb hl hm hw ho hi).symm)
  · subst ht hbeg
    exact step_working hs hp hr (by rw [hk]; exact (issue_pair hpend hb hl hm hw ho hsame hi).symm)
  · exact step_working hs hp hr (by rw [hn]; rfl)

end

/-! ## Deliveries, guests, and the events that wake strands (R12, R131, R136, R163, R189-R194, R345, R346) -/

namespace Sys2Proof.Machine

theorem deliver_arrives {s s1 : State} {e : Instr} {p place issuer : Nat} {put : State → State}
    (h : Claims.Arrives s p place issuer s1) : deliver s e p place issuer put = done s (put s1) := by
  obtain ⟨s0, hl, hr, rfl⟩ := h
  simp only [deliver, if_neg hl, hr]

end Sys2Proof.Machine

section

open Sys2Proof Sys2Proof.Machine Sys2Proof.Claims

/-- Settles O45: an arrival whose turn has come is put where it belongs; a guest by the room it finds. -/
theorem messagesAndGuestsArrive : Obligations.MessagesAndGuestsArrive := by
  intro s s0 s1 s2 p q n slot cls id u into v lo hi rest k ks
  refine ⟨fun hroom ha => ?_, fun hroom ha => ?_, fun hon hitems hn hag hinto htake ha hs1 hs2 => ?_,
    fun hk => ⟨fun hl hpc => ⟨fun hroom hfree => ?_, fun hfull => ?_⟩, fun hl hd hroom => ?_⟩, fun hg hs hr => ?_⟩
  · rw [exec_inboxDelivery, execInboxDelivery, if_neg (Nat.not_le.mpr hroom), deliver_arrives ha]
    rfl
  · rw [exec_mailboxDelivery, execMailboxDelivery, if_neg (Nat.not_le.mpr hroom), deliver_arrives ha]
    rfl
  · subst hinto hs2 hs1
    rw [exec_queueTransfer]
    simp only [execQueueTransfer, hon, Bool.not_true, Bool.false_eq_true, if_false, hitems, hn, hag, htake, if_true,
      deliver_arrives ha]
    rfl
  · rw [exec_roamPacketArrival]
    simp only [execRoamPacketArrival, hk, hl, hpc]
    refine (if_neg ?_).trans rfl
    simp [hfree, hroom]
  · rw [exec_roamPacketArrival]
    simp only [execRoamPacketArrival, hk, hl, hpc]
    refine (if_pos ?_).trans rfl
    simp [hfull]
  · rw [exec_roamPacketArrival]
    simp only [execRoamPacketArrival, hk, hl, hd, if_neg (Nat.not_le.mpr hroom)]
    rfl
  · rw [exec_guestAdmit]
    cases hslots : guestSlots s p with
    | nil => exact absurd hslots hs
    | cons x xs =>
      simp only [execGuestAdmit, hg, hslots, hr, List.isEmpty_iff]
      rfl

/-- Settles O46: each event finds its strand parked on what has come, and wakes it. -/
theorem wokenStrandsRejoinRotation : Obligations.WokenStrandsRejoinRotation := by
  intro s s1 s2 s3 k m pa leaf p c line t va nd na deadline len w ws data xs ht hp hc
  have hat : strandAt s k = t := by simp only [strandAt, tgetD, ht, Option.getD_some]
  refine ⟨fun hr => ?_, fun hr hw => ?_, fun hr => ?_, fun hr => ?_, fun hr hw => ?_, fun hr => ?_, fun hr hx => ?_,
    fun hf => ?_, fun hr hd => ?_, fun hr htr hline => ⟨fun hhit => ?_, fun hmiss hclean hs2 hs3 => ?_⟩⟩
  · simp only [exec_strandRejoin, execStrandRejoin, ht, hr, if_true]
    rfl
  · simp only [exec_accessReply, execAccessReply, hat, hr, hw]
    rfl
  · simp only [exec_accessReply, execAccessReply, hat, hr]
    rfl
  · simp only [exec_accessReply, execAccessReply, hat, hr]
    rfl
  · simp only [exec_accessReply, execAccessReply, hat, hr, hw]
    rfl
  · simp only [exec_iflushComplete, execIflushComplete, hat, hr, if_true]
    rfl
  · have hno : xs.any (chunkHolds s) = false := by simpa using hx
    simp only [exec_tlbinvComplete, execTlbinvComplete, hat, hr, hno]
    rfl
  · simp only [exec_monitorNotice, execMonitorNotice, ht, hf, if_true]
    rfl
  · simp only [exec_waitaTimeout, execWaitaTimeout, hat, hr, bne_self_eq_false, Bool.false_eq_true, if_false,
      if_neg (Nat.not_lt.mpr hd)]
    rfl
  · subst hp hc hline
    simp only [exec_fetchLineArrival, execFetchLineArrival, ht, hr, htr, hhit]
    rfl
  · subst hp hc hline hs3 hs2
    simp only [exec_fetchLineArrival, execFetchLineArrival, ht, hr, htr, hmiss, hclean]
    rfl

end

/-! ## Barriers, resent takes, grants, hold limits and group updates (R138-R141, R170-R172, R177-R180, R367) -/

namespace Sys2Proof.Machine

theorem wake_strand {s : State} {k : Nat} {x : Strand} (h : tget s.strands k = some x) :
    ∃ y, tget (wake s k).strands k = some y ∧ y.pend = x.pend ∧ (y.run = x.run ∨ y.run = .woken) := by
  unfold wake
  rw [h]
  dsimp only
  split
  · exact ⟨{ x with run := .woken }, by simp [addNext, setStrand], rfl, .inr rfl⟩
  · exact ⟨x, h, rfl, .inl rfl⟩

/-- A trap that a strand owes is the last of those that it owes; the strand is where it was or woken (R180). -/
theorem oweTrap_strand {s : State} {k cause : Nat} {val : BitVec 64} {t : Strand} (h : tget s.strands k = some t) :
    ∃ x, tget (oweTrap s k cause val).strands k = some x ∧ x.pend = t.pend ++ [(BitVec.ofNat 8 cause, val)] ∧
      (x.run = t.run ∨ x.run = .woken) := by
  have hat : strandAt s k = t := by simp only [strandAt, tgetD, h, Option.getD_some]
  let y : Strand := { t with pend := t.pend ++ [(BitVec.ofNat 8 cause, val)] }
  have hy : tget (setStrand s k y).strands k = some y := by simp [setStrand]
  have hkept : ∃ x, tget (setStrand s k y).strands k = some x ∧ x.pend = y.pend ∧ (x.run = t.run ∨ x.run = .woken) :=
    ⟨y, hy, rfl, .inl rfl⟩
  have hwoken : ∃ x, tget (wake (setStrand s k y) k).strands k = some x ∧ x.pend = y.pend ∧
      (x.run = t.run ∨ x.run = .woken) := wake_strand hy
  unfold oweTrap
  simp only [hat]
  split
  · exact hkept
  · exact hkept
  · exact hkept
  · split
    · exact hwoken
    · exact hkept
  · exact hwoken

end Sys2Proof.Machine

section

open Sys2Proof Sys2Proof.Machine Sys2Proof.Claims

/-- Settles O47: barriers, takes and grants by the words and strands they name; groups by their count. -/
theorem barriersTakesReservationsAndFutureEvents : Obligations.BarriersTakesReservationsAndFutureEvents := by
  intro s s1 p r src lid w k granted code rect t q ks h v f u pc takes
  refine ⟨rfl, rfl, fun ht hr hc htk hall => ?_, fun hq hh => ⟨fun hks => ?_, fun hks => ?_⟩,
    fun ht hholds hc => ⟨?_, oweTrap_strand ht⟩,
    fun hf hal => ⟨fun hz hd => ?_, fun hz hd => ?_, fun hz => ?_⟩, rfl, fun hf ho hst => ?_⟩
  · have hat : strandAt s k = t := by simp only [strandAt, tgetD, ht, Option.getD_some]
    have hdone : (takes.any (takeBad s) ||
        takes.all fun x => (takenBy (strandAt (sendTakes s k takes) k) x.lane x.ea).isSome) = true := by
      rw [List.all_eq_true.mpr hall, Bool.or_true]
    subst htk
    simp only [exec_takeResend, execTakeResend, hat, hr, bne_self_eq_false, Bool.false_eq_true, if_false,
      if_neg (Nat.not_lt.mpr hc), hdone, if_true]
    rfl
  · simp only [exec_reservationGrant, execReservationGrant, hq, hh, hks]
    rfl
  · simp only [exec_reservationGrant, execReservationGrant, hq, hh, hks]
    rfl
  · simp only [exec_rsvholdTimeout, execRsvholdTimeout, if_neg (Nat.not_lt.mpr hc), ht, hholds, and_self, if_true]
    rfl
  · simp only [hz, if_true] at hal
    simp only [exec_groupMemberUpdate, execGroupMemberUpdate, hf, hz, if_true, hal, hd]
    rfl
  · simp only [hz, if_true] at hal
    simp only [exec_groupMemberUpdate, execGroupMemberUpdate, hf, hz, if_true, hal, hd]
    rfl
  · simp only [hz, if_false] at hal
    simp only [exec_groupMemberUpdate, execGroupMemberUpdate, hf, hz, if_false, hal]
    rfl
  · have hsettled : (decide (f.owner = 0) && (decide (f.st = .resolved) || decide (f.st = .cancelled))) = true := by
      rcases hst with hst | hst <;> simp [ho, hst]
    simp only [exec_futfree, execFutfree, hf]
    exact congrArg (done s) (if_pos hsettled)

end

/-! ## Tasks and backfill jobs (R152, R347-R351, R374-R377) -/

namespace Sys2Proof.Machine

theorem footMoved_performed {s0 s : State} {t : Nat} {x : Task} {e : Instr} {f : State → State}
    (h : writesWaiting s (footAgent t) = false) : footMoved s0 s t x e f = done s0 (f s) := by
  simp only [footMoved, h, Bool.false_eq_true, if_false]

theorem layerDone_performed {s0 s : State} {j : Nat} {x : Job} (h : writesWaiting s (jobAgent j) = false) :
    layerDone s0 s j x = done s0 (keepOnce (setJob s j (nextLayer x)) (.backfillJobStart x.cluster)) := by
  simp only [layerDone, h, Bool.false_eq_true, if_false]

/-- The unit of a cluster with the oldest job that may start running (R374). -/
def startJob (s : State) (c : Nat) : State :=
  ((jobsWhere s c (jobCanStart s)).head?.map fun e => setJob s e.1 { e.2 with running := true }).getD s

/-- The unit starts a job, and one job that has a step to make makes it. -/
theorem execBackfillJobStart_eq {s s1 s2 : State} {c : Nat} (h1 : s1 = startJob s c)
    (h2 : s2 = ((jobsWhere s1 c fun _ y => jobCanStep s1 y).findSome? (fun e => stepJob s1 e.1 e.2)).getD s1) :
    execBackfillJobStart c s = done s
      (if !(jobsWhere s2 c (jobCanStart s2)).isEmpty || !(jobsWhere s2 c fun _ x => jobCanStep s2 x).isEmpty
        then keepOnce s2 (.backfillJobStart c) else s2) := by
  have hstep : ∀ t : State, (match (jobsWhere t c fun _ y => jobCanStep t y).findSome? fun e => stepJob t e.1 e.2 with
      | some s' => s'
      | none => t) = ((jobsWhere t c fun _ y => jobCanStep t y).findSome? (fun e => stepJob t e.1 e.2)).getD t := by
    intro t
    cases (jobsWhere t c fun _ y => jobCanStep t y).findSome? fun e => stepJob t e.1 e.2 <;> rfl
  subst h2 h1
  cases hj : jobsWhere s c (jobCanStart s) with
  | nil => simp only [execBackfillJobStart, hj, startJob, List.head?_nil, Option.map_none, Option.getD_none, ← hstep] <;> rfl
  | cons e r =>
    simp only [execBackfillJobStart, hj, startJob, List.head?_cons, Option.map_some, Option.getD_some, ← hstep] <;> rfl

/-- A layer of a running job, its routine over. -/
theorem execBackfillLayerDone_live {s : State} {j : Nat} {b : Job} (hb : tget s.jobs j = some b)
    (ht : b.task.isSome = true) (hf : b.fault = false) (hl : jobLive s b = true) :
    execBackfillLayerDone j s =
      if !b.tested then layerDone s s j b
      else match routineCancelled s b with
        | some c => (match settleJob s j b (.cancel c) with
          | some s1 => done s s1
          | none => again s (.backfillLayerDone j))
        | none => match validateLayer s j b with
          | .ok (some s1) => layerDone s (setJob s1 j { b with tested := false }) j { b with tested := false }
          | .ok none => again s (.backfillLayerDone j)
          | .error e => match jobStop s j b 1 e with
            | some s1 => done s s1
            | none => again s (.backfillLayerDone j) := by
  have hrun : (b.task.isNone || b.fault) = false := by
    rw [hf, Option.isNone_eq_false_iff.mpr ht]
    rfl
  simp only [execBackfillLayerDone, hb, hrun, hl, Bool.not_true, Bool.false_eq_true, if_false] <;> rfl

end Sys2Proof.Machine

section

open Sys2Proof Sys2Proof.Machine Sys2Proof.Claims

/-- Settles O48: each record or job is moved on by the case its premises name. -/
theorem tasksAndBackfillJobsAdvance : Obligations.TasksAndBackfillJobsAdvance := by
  intro s s1 s2 s3 s4 c t p slot run since place key k j x st b b1 pick
  refine ⟨fun hp hs1 => ?_, fun hx => ⟨fun hst hm hw => ?_, fun hst hu hc => ?_, fun hst hr hm hw => ?_,
    fun hst hl hc => ?_⟩, fun hk hj hroom => ?_, fun hs1 hs2 => ?_, fun hb ht hf hl => ⟨fun hn hw => ?_,
    fun hy hc hv hb1 hs4 hw => ?_, fun code hy hc hs => ?_⟩⟩
  · subst hs1
    obtain ⟨t, x, sp⟩ := pick
    simp only [exec_taskDispatch, execTaskDispatch, hp]
    rfl
  · simp only [exec_footprintFetchDone, execFootprintFetchDone, hx, hst, hm, footMoved_performed hw]
    rfl
  · have hlong : 65536 < s.cycle - since := by omega
    simp only [exec_recordUrgent, execRecordUrgent, hx, hst, hu, hlong, if_true, Bool.false_eq_true, if_false]
    rfl
  · simp only [exec_taskRetire, execTaskRetire, hx, hst, hr, hm, Bool.not_true, Bool.false_eq_true, if_false,
      footMoved_performed hw]
    rfl
  · have hlong : 2 ^ 20 ≤ s.cycle - since := by omega
    simp only [exec_backfillPlacementTimeout, execBackfillPlacementTimeout, hx, hst, hl, hlong, if_true,
      Bool.false_eq_true, if_false]
    rfl
  · simp only [exec_confExitJobPost, execConfExitJobPost, hk, hj, hroom, if_true]
    rfl
  · have hs1' : s1 = startJob s c := by
      rw [hs1, startJob]
      split <;> simp_all
    rw [exec_backfillJobStart, execBackfillJobStart_eq hs1' hs2, done_eq]
    simp only [Bool.or_eq_true, Bool.not_eq_true', List.isEmpty_eq_false_iff]
  · rw [exec_backfillLayerDone, execBackfillLayerDone_live hb ht hf hl, hn]
    exact layerDone_performed hw
  · subst hs4 hb1
    rw [exec_backfillLayerDone, execBackfillLayerDone_live hb ht hf hl, hy, hc, hv]
    exact layerDone_performed hw
  · rw [exec_backfillLayerDone, execBackfillLayerDone_live hb ht hf hl, hy, hc]
    simp only [Bool.not_true, Bool.false_eq_true, if_false, hs]
    rfl

end

/-! ## Launches: each event's equation under its premises (spec/13, spec/17) -/

section

open Sys2Proof Sys2Proof.Machine Sys2Proof.Claims

/-- Settles O49: each event's branch is the one its premises name. -/
theorem launchesStartEndAndMove : Obligations.LaunchesStartEndAndMove := by
  intro s s1 s2 q lid v l l1 x m
  refine ⟨fun hz => ?_, fun hz hroom => ?_, fun hfull hq hs1 => ?_, fun hfull => ?_, fun hl => ⟨fun hst hw hs1 => ?_,
    fun hover hfull hs1 hm he => ?_, fun hfull => ?_, fun hh hst hwd => ?_, fun hst hs1 hl1 hs2 => ?_, fun hh => ?_,
    fun he hfull hend => ?_, fun he hfull => ?_⟩, fun hx hp => ⟨fun hroom hfull hf => ?_, fun hfull => ?_⟩⟩
  · have hne : (fieldN v.toNat 0 4 != 0) = true := by simpa using hz
    simp only [exec_lqpush, execLqpush, hne, if_true]
    rfl
  · simp only [exec_lqpush, execLqpush, hz, bne_self_eq_false, Bool.false_eq_true, if_false,
      if_neg (Nat.not_le.mpr hroom)]
    rfl
  · subst hs1
    simp only [exec_launchAdmit, execLaunchAdmit, hfull, hq, Bool.not_false, Bool.and_self, if_true, List.isEmpty_iff]
    rfl
  · simp only [exec_launchAdmit, execLaunchAdmit, hfull, Bool.not_true, Bool.false_and, Bool.false_eq_true, if_false,
      List.isEmpty_iff]
    rfl
  · subst hs1
    simp only [exec_launchStartBroadcast, execLaunchStartBroadcast, hl, hst, hw, Bool.false_eq_true, if_false]
    rfl
  · subst hs1
    simp only [exec_launchEnd, execLaunchEnd, hl, hover, hfull, Bool.not_false, Bool.and_self, if_true, hm,
      Bool.false_eq_true, if_false, he]
    rfl
  · simp only [exec_launchEnd, execLaunchEnd, hl, hfull, Bool.not_true, Bool.and_false, Bool.false_eq_true, if_false]
    rfl
  · simp only [exec_watchdogExpiry, execWatchdogExpiry, hl, hh, hst, hwd, Bool.false_eq_true, if_false, decide_true,
      Bool.and_self, if_true]
    rfl
  · subst hs2 hs1
    simp only [exec_greyOut, execGreyOut, hl, hst, Bool.not_true, Bool.false_eq_true, if_false, hl1, Bool.and_eq_true,
      Bool.not_eq_true']
    rfl
  · simp only [exec_liftTheFreeze, execLiftTheFreeze, hl, hh, if_true]
    rfl
  · simp only [exec_endLaunchAsHung, execEndLaunchAsHung, hl, he, hfull, Bool.not_true, Bool.false_eq_true, if_false, hend]
    rfl
  · simp only [exec_endLaunchAsHung, execEndLaunchAsHung, hl, he, hfull, Bool.not_true, Bool.false_eq_true, if_false,
      if_true]
    rfl
  · simp only [exec_restore, execRestore, hx, hp, hroom, hfull, hf, Bool.or_self]
    rfl
  · simp only [exec_restore, execRestore, hx, hp, hfull, Bool.true_or]
    split
    · contradiction
    · rfl

end


/-! ## Fault queues and the registers of the hub (spec/17 R397, R398; spec/18 R417; spec/19 R427-R434) -/

namespace Sys2Proof.Machine

/-- Leaving out entries of other keys changes no lookup of this one. -/
theorem tget_filter_of_kept {β : Type} {p : Nat × β → Bool} {k : Nat} (hp : ∀ e : Nat × β, e.1 = k → p e = true) (t : Table β) :
    tget (t.filter p) k = tget t k := by
  induction t with
  | nil => rfl
  | cons e r ih =>
    obtain ⟨a, v⟩ := e
    by_cases ha : a = k
    · simp only [List.filter_cons, hp (a, v) ha, if_true, tget, if_pos ha]
    · cases hq : p (a, v) <;> simp [List.filter_cons, hq, tget, ha, ih]

/-- Cells put back at other addresses leave a byte as it is. -/
theorem memGet_putBack_outside {b : Nat} : ∀ (cells : List Host.Cell) (m : List Host.Cell), (∀ c ∈ cells, b < c.1) →
    memGet (cells.foldl (fun m c => memWrite m c.1 1 c.2.toNat) m) b = memGet m b
  | [], _, _ => rfl
  | c :: r, m, h => by
    rw [List.foldl_cons, memGet_putBack_outside r _ fun x hx => h x (List.mem_cons_of_mem _ hx),
      memGet_memWrite_outside _ _ _ _ _ (.inl (h c (List.mem_cons_self ..)))]

/-- A change of the pool decoder moves no byte below the pool (R429). -/
theorem reshelve_memGet (old s : State) {b : Nat} (hb : b < poolStart) :
    memGet (reshelve old s).mem b = memGet s.mem b := by
  unfold reshelve
  dsimp only
  rw [memGet_putBack_outside]
  · unfold memGet tgetD
    rw [tget_filter_of_kept]
    intro e he
    simp only [he, decide_eq_true hb, Bool.true_or]
  · intro c hc
    obtain ⟨e, -, hce⟩ := List.mem_flatMap.mp hc
    have hge : poolStart ≤ c.1 := by
      have hk := (List.mem_filter.mp hce).2
      simp only [Bool.and_eq_true, decide_eq_true_eq] at hk
      exact hk.1
    exact Nat.lt_of_lt_of_le hb hge

theorem devReg_setDev_self (s : State) (off : Nat) (v : BitVec 64) : devReg (setDev s off v) off = v.toNat := by
  simp only [devReg, setDev, tgetD_tset_self]

theorem devReg_setDev_cap (s : State) (v : Nat) : devReg (setDev s 0x4010 (word (capOf v))) 0x4010 = capOf v := by
  have hrange := capOf_range v
  rw [devReg_setDev_self, word_toNat_of_lt (by omega)]

theorem mem_addEvent_self (s : State) (e : Instr) : e ∈ (addEvent s e).agenda :=
  List.mem_append_right _ (List.mem_singleton.mpr rfl)

end Sys2Proof.Machine

section

open Sys2Proof Sys2Proof.Machine Sys2Proof.Claims

/-- Settles O50: each event's equation, and a pool byte alone may change place as a decoder changes. -/
theorem faultQueuesAndHubRegisters : Obligations.FaultQueuesAndHubRegisters := by
  intro s c j off n p e r v a rest image table
  refine ⟨fun hw hroom => ?_, fun hp => ?_, rfl, rfl, fun hj hv => ⟨reshelve s (setDev s (0x3000 + 8 * j) v), ?_, ?_, ?_⟩,
    fun hj hv => ?_, ⟨setDev s 0x4010 (word (capOf v.toNat)), rfl, devReg_setDev_cap s _, ?_⟩, fun hm => ?_, fun hm => ?_,
    ⟨_, rfl, rfl, mem_addEvent_self _ _⟩, fun hq => ?_, fun ht => ?_, fun ht => ?_⟩
  · simp only [exec_faultQueuePost, execFaultQueuePost, hw, if_neg (Nat.not_le.mpr hroom)]
    rfl
  · simp only [exec_freply, execFreply, hp]
    rfl
  · have hok : ¬ (poolDecReserved v.toNat || decide (64 ≤ j)) = true := by simp [hv, hj]
    rw [exec_pooldecWrite, execPooldecWrite, if_neg hok]
  · exact devReg_setDev_self s _ v
  · exact fun b hb => reshelve_memGet s _ hb
  · simp only [exec_pooldecWrite, execPooldecWrite, hv, Bool.true_or, if_true]
  · rw [devReg_setDev_cap]
    exact capOf_range _
  · simp only [exec_deviceRegisterWrite, execDeviceRegisterWrite, hm]
  · simp only [exec_deviceRegisterWrite, execDeviceRegisterWrite, hm]
  · simp only [exec_attestationDone, execAttestationDone, hq]
  · simp only [exec_patchTableLoad, execPatchTableLoad, installPatch, ht]
  · simp only [exec_patchTableLoad, execPatchTableLoad, installPatch, ht]

end


/-! ## The module's own events (spec/10 R302-R305; spec/18 R415; spec/19 R431-R438) -/

namespace Sys2Proof.Machine

/-- The page stands as R304 asks before a migration of it goes on. -/
structure MayMigrate (s : State) (asid page : Nat) : Prop where
  mapped    : pageParts s asid page ≠ []
  notPinned : pagePinned s asid page = false
  movable   : pageMovable s asid page = true
  noTask    : pageFootprint s asid page = false

/-- What a page migration goes on with, by the migration of the page that is under way. -/
theorem execPageMigration_movable {s : State} {asid page frame : Nat} (h : MayMigrate s asid page) :
    execPageMigration asid page frame s =
      match s.migrations.find? (fun x => x.asid == asid && x.page == page) with
      | none =>
        if frameInUse s (mappedExtents s) frame then done s s
        else .next (addEvent { s with migrations := s.migrations ++ [⟨asid, page, frame, false⟩] }
          (.pageMigration asid page frame))
      | some m =>
        if m.frame != frame then done s s
        else if m.began then
          if (pageChunks s asid page).isEmpty &&
              (pageParts s asid page).all fun x => (reservedByOther s none x.entry 8).isNone then
            .next (migrateNow s asid page m.frame (pageParts s asid page))
          else again s (.pageMigration asid page frame)
        else if (pageParts s asid page).any fun x => partReserved s x.pa then again s (.pageMigration asid page frame)
        else .next (addEvent { s with migrations := s.migrations.map fun x =>
            if x.asid == asid && x.page == page then { x with began := true } else x } (.pageMigration asid page frame)) := by
  obtain ⟨hps, hpin, hmov, hfoot⟩ := h
  have hgo : ((pageParts s asid page).isEmpty || pagePinned s asid page || !(pageMovable s asid page) ||
      pageFootprint s asid page) = false := by
    simp [hps, hpin, hmov, hfoot]
  unfold execPageMigration
  simp only [hgo, Bool.false_eq_true, if_false] <;> rfl

/-- A flit of data in sequence is acknowledged and taken (R431). -/
theorem execLinkFlitReceive_due {s : State} {dir : Nat} {flit : BitVec 2048} (hcrc : flitCrcOk flit.toNat = true)
    (hty : flitType flit.toNat = 1) (hseq : flitSeq flit.toNat = (linkAt s dir).expect) :
    execLinkFlitReceive dir flit s = .next (pumpLinks (flitAccept (setLink s dir
      { linkAt s dir with sent := acknowledged (linkAt s dir).sent (flitLast flit.toNat), waiting := false,
                          credits := BitVec.ofNat 32 (fieldN flit.toNat 2016 32),
                          expect := ((linkAt s dir).expect + 1) % 65536 }) flit.toNat)) := by
  unfold execLinkFlitReceive
  simp [hcrc, hty, hseq]

/-- A flit with a bad CRC is discarded, and the next one in sequence is waited for (R431). -/
theorem execLinkFlitReceive_bad {s : State} {dir : Nat} {flit : BitVec 2048} (hcrc : flitCrcOk flit.toNat = false) :
    execLinkFlitReceive dir flit s = .next (setLink s dir { linkAt s dir with waiting := true }) := by
  unfold execLinkFlitReceive
  simp [hcrc]

end Sys2Proof.Machine

section

open Sys2Proof Sys2Proof.Machine Sys2Proof.Claims

/-- Settles O51: each event's equation under its premises. -/
theorem moduleEventsResults : Obligations.ModuleEventsResults := by
  intro s s1 n asid page frame vault row dir result watts celsius p flit v ps m ds k b origin
  refine ⟨fun hds hs1 => ⟨fun ho => ?_, fun ho => ?_⟩, fun hps hne hpin hmov hfoot => ?_, fun hr hw => ?_,
    fun hv hrow hroom hs1 => ?_, fun hk => ⟨fun hcrc hty hseq => ?_, fun hcrc => ?_⟩, fun hb => ?_, fun hn hs1 => ?_,
    fun hl => ?_, fun hl => ?_, rfl, rfl, rfl, fun hb => ⟨fun hl => ?_, fun hl => ?_⟩, rfl, rfl⟩
  · subst hds hs1
    simp only [exec_migrationWindow, execMigrationWindow, ho, Bool.false_eq_true, if_false]
    rfl
  · subst hds hs1
    simp only [exec_migrationWindow, execMigrationWindow, ho, if_true]
  · subst hps
    rw [exec_pageMigration, execPageMigration_movable ⟨hne, hpin, hmov, hfoot⟩]
    refine ⟨fun hf hu => ?_, fun hf hm hb hr => ?_, fun hf hm hb hc hr => ?_, fun hf hm => ?_⟩
    · simp only [hf, hu, Bool.false_eq_true, if_false]
    · simp only [hf, hm, hb, hr, bne_self_eq_false, Bool.false_eq_true, if_false]
    · have hall : ((pageParts s asid page).all fun x => (reservedByOther s none x.entry 8).isNone) = true :=
        List.all_eq_true.mpr fun x hx => by rw [hr x hx]; rfl
      simp only [hf, hm, hb, hc, hall, bne_self_eq_false, Bool.false_eq_true, if_false, List.isEmpty_nil, Bool.and_self,
        if_true]
    · have hne : (m.frame != frame) = true := by simpa using hm
      simp only [hf, hne, if_true]
      rfl
  · simp only [exec_replicaRemovalDone, execReplicaRemovalDone, hr, hw, Bool.not_true, Bool.false_eq_true, if_false, if_true]
  · subst hs1
    have hin : ¬ (decide (2048 ≤ vault) || decide (12288 ≤ row)) = true := by simp [hv, hrow]
    simp only [exec_vaultRowRetire, execVaultRowRetire, if_neg hin, if_neg (Nat.not_le.mpr hroom)]
  · subst hk
    exact execLinkFlitReceive_due hcrc hty hseq
  · subst hk
    exact execLinkFlitReceive_bad hcrc
  · subst hb
    simp only [exec_powerOnReset, execPowerOnReset]
    cases (bootRom s.hub).bad <;> rfl
  · subst hn hs1
    simp only [exec_thermalThrottle, execThermalThrottle, Bool.or_eq_true, decide_eq_true_eq] <;> rfl
  · simp only [exec_thermalShutdown, execThermalShutdown, hl, List.isEmpty_nil, Bool.not_true, Bool.false_eq_true, if_false]
    refine ⟨_, rfl, rfl, ?_⟩
    dsimp only
    split <;> rfl
  · have hlive : s.launches.isEmpty = false := List.isEmpty_eq_false_iff.mpr hl
    simp only [exec_thermalShutdown, execThermalShutdown, hlive, Bool.not_false, if_true]
  · simp only [exec_ckptDone, execCkptDone, hb, List.isEmpty_eq_false_iff.mpr hl, Bool.not_true, Bool.not_false, Bool.false_eq_true, if_false,
      if_true]
  · simp only [exec_ckptDone, execCkptDone, hb, hl, List.isEmpty_nil, Bool.not_true, Bool.false_eq_true, if_false]

end


/-! ## The commands of the MX engine (spec/06 R227-R235; spec/14 R378) -/

namespace Sys2Proof.Machine

/-- A step of a command's operation that goes on. -/
theorem eng_ok_bind {α β : Type} (a : α) (f : α → Eng β) : ((Except.ok a : Eng α) >>= f) = f a := rfl

/-- A check that passes (R221). -/
@[simp] theorem need_true (code : Nat) : need true code = .ok () := rfl

open Claims in
/-- An engine that executes a command runs its operation. -/
theorem runCommand_executes {s : State} {p e : Nat} {cmd : EngineCmd} (h : Executes s p e cmd) (f : EngineCmd → State) :
    runCommand s p e f = .next (keepHub s (f cmd)) := by
  obtain ⟨hx, hf, hd⟩ := h
  simp only [runCommand, hx, hf, hd, Option.isSome_none, Bool.false_eq_true, if_false, done_eq]

open Claims in
/-- An MX command whose operation succeeds ends with what it did. -/
theorem mx_ends {i : Instr} {s s' : State} {p : Nat} {cmd : EngineCmd} {x : Result} {op : EngineCmd → Eng (State × Result)}
    (hi : exec i s = runCommand s p 0 fun cmd => concluded s p 0 cmd (op cmd)) (h : Executes s p 0 cmd)
    (hop : op cmd = .ok (s', x)) : Ends i s p 0 cmd s' x := by
  unfold Ends
  rw [hi, runCommand_executes h]
  simp only [hop, concluded]

/-! ### The multiplies -/

/-- The blocks of an operand stored as rows: 32 of its rows each, transposed (R229). -/
def rowBlocks (n : Nat) (oa ob : Operand) : List (List (List FVal) × List (List FVal)) :=
  (List.range n).map fun k => (colSlice (32 * k) oa.vals, transpose32 ((ob.vals.drop (32 * k)).take 32))

/-- The blocks of an operand stored transposed: 32 of its columns each (R229). -/
def colBlocks (n : Nat) (oa ob : Operand) : List (List (List FVal) × List (List FVal)) :=
  (List.range n).map fun k => (colSlice (32 * k) oa.vals, colSlice (32 * k) ob.vals)

/-- What a multiply of these blocks leaves (R229, R231). -/
def mulBlocks (s : State) (p : Nat) (cmd : EngineCmd) (oa : Operand) (blocks : List (List (List FVal) × List (List FVal))) :
    State × Result :=
  let c := kBlocks (accAt (coreAt s p) cmd.accIx).isInt (liveLine (descOf (cmd.d 1)) oa.mask oa.shade) blocks
    (accRows (accAt (coreAt s p) cmd.accIx))
  mulResult s p cmd (descOf (cmd.d 1)) oa c.1 c.2

theorem multiply_rows {s s1 : State} {p : Nat} {cmd : EngineCmd} {r : Rec} {oa ob : Operand}
    (hc : mulChecks s p cmd ⟨cmd.flg / 4 == 0, mmaTypes false (descOf (cmd.d 1)).dtype (descOf (cmd.d 2)).dtype, false,
      (descOf (cmd.d 1)).rows 32 (rowBytes (descOf (cmd.d 1)).dtype * (cmd.sel + 1)),
      (descOf (cmd.d 2)).rows (32 * (cmd.sel + 1)) (rowBytes (descOf (cmd.d 2)).dtype)⟩ (fun _ => []) = .ok (s1, r))
    (ha : readOperand s1 p cmd (descOf (cmd.d 1)) (32 * (cmd.sel + 1))
      ((descOf (cmd.d 1)).rows 32 (rowBytes (descOf (cmd.d 1)).dtype * (cmd.sel + 1))) = .ok oa)
    (hb : readOperand s1 p cmd (descOf (cmd.d 2)) 32
      ((descOf (cmd.d 2)).rows (32 * (cmd.sel + 1)) (rowBytes (descOf (cmd.d 2)).dtype)) = .ok ob) :
    multiply s p cmd false = .ok (mulBlocks s1 p cmd oa (rowBlocks (cmd.sel + 1) oa ob)) := by
  unfold multiply
  simp only [Bool.false_eq_true, if_false, hc, eng_ok_bind, ha, hb] <;> rfl

theorem multiply_columns {s s1 : State} {p : Nat} {cmd : EngineCmd} {r : Rec} {oa ob : Operand}
    (hc : mulChecks s p cmd ⟨cmd.flg / 4 == 0, mmaTypes true (descOf (cmd.d 1)).dtype (descOf (cmd.d 2)).dtype, false,
      (descOf (cmd.d 1)).rows 32 (rowBytes (descOf (cmd.d 1)).dtype * (cmd.sel + 1)),
      (descOf (cmd.d 2)).rows 32 (rowBytes (descOf (cmd.d 2)).dtype * (cmd.sel + 1))⟩ (fun _ => []) = .ok (s1, r))
    (ha : readOperand s1 p cmd (descOf (cmd.d 1)) (32 * (cmd.sel + 1))
      ((descOf (cmd.d 1)).rows 32 (rowBytes (descOf (cmd.d 1)).dtype * (cmd.sel + 1))) = .ok oa)
    (hb : readOperand s1 p cmd (descOf (cmd.d 2)) (32 * (cmd.sel + 1))
      ((descOf (cmd.d 2)).rows 32 (rowBytes (descOf (cmd.d 2)).dtype * (cmd.sel + 1))) = .ok ob) :
    multiply s p cmd true = .ok (mulBlocks s1 p cmd oa (colBlocks (cmd.sel + 1) oa ob)) := by
  unfold multiply
  simp only [if_true, hc, eng_ok_bind, ha, hb] <;> rfl

/-- The rows of A in full, from the values kept and the metadata (R232). -/
def expanded (s : State) (p : Nat) (cmd : EngineCmd) (r : Rec) (oa : Operand) : Operand :=
  let words := (List.range (32 * (cmd.sel + 1))).map fun i => engRead s p cmd (r.auxa + 4 * i, 4)
  let row (v : List FVal × Nat) : List FVal :=
    expandRow (bitN cmd.flg 2) v.1 ((List.range (cmd.sel + 1)).map fun k => words.getD (32 * k + v.2) 0)
  { oa with vals := oa.vals.zipIdx.map row }

theorem multiplySparse_ok {s s1 : State} {p kept : Nat} {cmd : EngineCmd} {r : Rec} {oa ob : Operand}
    (hk : kept = if bitN cmd.flg 2 then 8 else 16)
    (hc : mulChecks s p cmd ⟨cmd.flg / 8 == 0, mmasTypes (descOf (cmd.d 1)).dtype (descOf (cmd.d 2)).dtype, true,
      (descOf (cmd.d 1)).rows 32 (elemBytes (descOf (cmd.d 1)).dtype * kept * (cmd.sel + 1)),
      (descOf (cmd.d 2)).rows (32 * (cmd.sel + 1)) (rowBytes (descOf (cmd.d 2)).dtype)⟩ (metaSpan (cmd.sel + 1)) = .ok (s1, r))
    (ha : readOperand s1 p cmd (descOf (cmd.d 1)) (kept * (cmd.sel + 1))
      ((descOf (cmd.d 1)).rows 32 (elemBytes (descOf (cmd.d 1)).dtype * kept * (cmd.sel + 1))) = .ok oa)
    (hb : readOperand s1 p cmd (descOf (cmd.d 2)) 32
      ((descOf (cmd.d 2)).rows (32 * (cmd.sel + 1)) (rowBytes (descOf (cmd.d 2)).dtype)) = .ok ob)
    (hm : (((List.range (32 * (cmd.sel + 1))).map fun i => engRead s1 p cmd (r.auxa + 4 * i, 4)).all fun x =>
      (List.range 8).all fun g => (groupPositions (bitN cmd.flg 2) (fieldN x (4 * g) 4)).isSome) = true) :
    multiplySparse s p cmd = .ok (mulBlocks s1 p cmd oa (rowBlocks (cmd.sel + 1) (expanded s1 p cmd r oa) ob)) := by
  subst hk
  unfold multiplySparse
  simp only [hc, eng_ok_bind, ha, hm, need_true, hb] <;> rfl

/-! ### MMAQ -/

open Claims in
/-- A slot that is full is taken whole: its bits join the tables, and at every eighth block a K block is computed (R378). -/
theorem execMmaqSlotTake_full {s : State} {p : Nat} {cmd : EngineCmd} {w : MmaqWork} {slot : TableSlot}
    (h : Executes s p 0 cmd) (hw : (coreAt s p).mx.work = some w)
    (hslot : slot = tgetD (coreAt s p).tstore (quantSlot cmd w.blk) ⟨0, false⟩) (hfull : slot.full = true)
    (hgood : (coreAt s p).badSlots.contains (quantSlot cmd w.blk) = false) :
    execMmaqSlotTake p s = .next (keepHub s (
      let t := if bitN cmd.flg 2 then setCore s p { coreAt s p with
          tstore := tset (coreAt s p).tstore (quantSlot cmd w.blk) { slot with full := false } } else s
      let w1 := { w with tables := w.tables ++ [slot.bits], blk := w.blk + 1 }
      let w2 := if w1.blk % 8 = 0 then quantBlock w1 (w1.blk / 8 - 1) else w1
      if w2.blk = 8 * (cmd.sel + 1) then quantEnd t p cmd w2
      else addEvent (setEngine t p 0 { (coreAt t p).mx with work := some w2 }) (.mmaqSlotTake p))) := by
  subst hslot
  have hx : (coreAt s p).mx.executing = some cmd := h.executing
  simp only [execMmaqSlotTake, hx, hw, hfull, hgood, Bool.not_true, Bool.false_eq_true, if_false, done_eq]

end Sys2Proof.Machine

section

open Sys2Proof Sys2Proof.Machine Sys2Proof.Claims

/-- Settles O40: each multiply passes its checks, reads its operands and ends with the products of its blocks; MMAQ goes on
slot by slot. -/
theorem matrixCommandsMultiplyIntoTheirAccumulator : Obligations.MatrixCommandsMultiplyIntoTheirAccumulator := by
  intro s p cmd a b rowsA rowsB s1 s2 r oa ob acc blocks w w1 w2 t slot live h ha hb hacc
  subst ha hb hacc
  refine ⟨fun hA hB hc hoa hob hl hbs => ?_, fun hA hB hc hoa hob hl hbs => ?_,
    fun kept words hk hA hB hc hoa hob hl hws hm hbs => ?_, fun hq => ?_, fun hw hslot => ⟨fun he => ?_,
    fun hfull hgood ht hw1 hw2 => ⟨fun hgo => ?_, fun hlast => ?_⟩⟩⟩
  · subst hA hB hl hbs
    exact mx_ends (op := fun c => multiply s p c false) (exec_mma ..) h (multiply_rows hc hoa hob)
  · subst hA hB hl hbs
    exact mx_ends (op := fun c => multiply s p c true) (exec_mmat ..) h (multiply_columns hc hoa hob)
  · subst hA hB hl hws hbs
    exact mx_ends (op := fun c => multiplySparse s p c) (exec_mmas ..) h (multiplySparse_ok hk hc hoa hob hm)
  · rw [exec_mmaq, execMmaq, runCommand_executes h]
    simp only [hq]
  · have hx : (coreAt s p).mx.executing = some cmd := h.executing
    subst hslot
    simp only [exec_mmaqSlotTake, execMmaqSlotTake, hx, hw, he, Bool.not_false, if_true, done_eq]
  · have hblk : w2.blk = w.blk + 1 := by
      subst hw2 hw1
      split <;> rfl
    rw [exec_mmaqSlotTake, execMmaqSlotTake_full h hw hslot hfull hgood]
    subst ht hw1
    simp only [← hw2, hblk, if_neg hgo]
  · have hw2' : w2 = quantBlock w1 cmd.sel := by
      rw [hw2, hlast, if_pos (by omega)]
      congr 1
      omega
    have hblk : w2.blk = w.blk + 1 := by
      subst hw2' hw1
      rfl
    rw [exec_mmaqSlotTake, execMmaqSlotTake_full h hw hslot hfull hgood]
    subst ht hw1
    simp only [← hw2, hblk, if_pos hlast, ← hw2']

end


/-! ## The accumulator commands (spec/06 R234, R235) -/

section

open Sys2Proof Sys2Proof.Machine Sys2Proof.Claims

/-- Settles O41: each command passes its checks in their order and ends with its effect. -/
theorem accumulatorCommandsResults : Obligations.AccumulatorCommandsResults := by
  intro s p cmd d acc src s1 s2 s3 r o out k ws fl h hd hacc hsrc
  subst hd hacc hsrc
  refine ⟨fun hf hk h1 h2 => ?_, fun hf hty hdom hs hout => ?_, fun hf hdom => ⟨fun hmem hty hs => ?_,
    fun hmem hty hd hr hu ha hk h1 h2 => ?_⟩, fun hf hty hdom hr ha hst hkv h1 h2 h3 hw hc => ?_⟩
  · refine mx_ends (op := zeroAcc s p) (exec_accz ..) h ?_
    simp only [zeroAcc, hf, need_true, eng_ok_bind, hk, h1, h2]
  · subst hout
    refine mx_ends (op := loadAcc s p) (exec_accld ..) h ?_
    simp only [loadAcc, hf, hty, hdom, need_true, eng_ok_bind, hs]
  · have hne : ((descOf (cmd.d 1)).dtype == 8) = false := by simpa using hmem
    refine mx_ends (op := addAcc s p) (exec_accadd ..) h ?_
    simp only [addAcc, hf, hne, hty, hdom, need_true, eng_ok_bind, hs, Bool.false_eq_true, if_false, Bool.not_false,
      Bool.true_or, Bool.and_self]
  · have heq : ((descOf (cmd.d 1)).dtype == 8) = true := by simpa using hmem
    have hint : ((accAt (coreAt s p) ((descOf (cmd.d 1)).addr % 8)).isInt == (accAt (coreAt s p) cmd.accIx).isInt) = true := by
      simpa using hty
    have hdom2 : (if (accAt (coreAt s p) ((descOf (cmd.d 1)).addr % 8)).dom = 2 then
        (descOf (cmd.d 1)).dom == 1 &&
          (descOf (cmd.d 1)).lvl == (accAt (coreAt s p) ((descOf (cmd.d 1)).addr % 8)).lvl.toNat
        else (descOf (cmd.d 1)).dom == 0) = true := by
      split at hd <;> simp_all
    refine mx_ends (op := addAcc s p) (exec_accadd ..) h ?_
    simp only [addAcc, hf, heq, hint, hdom, hdom2, if_true, need_true, eng_ok_bind, hr, hu, ha, hk, h1, h2, Bool.not_true,
      Bool.false_or, Bool.and_self]
  · refine mx_ends (op := storeAcc s p) (exec_accst ..) h ?_
    simp only [storeAcc, hf, hty, hdom, hr, ha, hst, hkv, h1, h2, h3, need_true, eng_ok_bind, ← hw, hc]

end


/-! ## The commands of the VX engine (spec/06 R236-R246) -/

namespace Sys2Proof.Machine

open Claims in
/-- A VX command whose operation succeeds ends with what it did. -/
theorem vx_ends {i : Instr} {s s' : State} {p : Nat} {cmd : EngineCmd} {x : Result} {op : EngineCmd → Eng (State × Result)}
    (hi : exec i s = vxCommand s p op) (h : Executes s p 1 cmd) (hop : op cmd = .ok (s', x)) : Ends i s p 1 cmd s' x := by
  unfold Ends
  rw [hi, vxCommand, runCommand_executes h]
  simp only [hop, concluded]

open Claims in
/-- A VX command that is ready runs its operation's body on its operands (R221, R236). -/
theorem vxRun_ready {s s2 : State} {p : Nat} {cmd : EngineCmd} {f : VxForm} {srcs : List Desc} {r : Rec} {os : List Operand}
    {body : Rec → List Operand → VxOut} (h : VxReady s p cmd f srcs r s2 os)
    (hw : cleanWrites s2 p cmd ((body r os).writes.map fun w => (w.1, w.2.1)) = .ok ()) :
    vxRun s p cmd f body = .ok (engWrite s2 p cmd (descOf (cmd.d 3)).header (body r os).writes,
      { shade := os.foldl (fun n o => Nat.min n o.shade) 15, aux := (body r os).aux, flags := (body r os).flags }) := by
  obtain ⟨hsrcs, hfield, htypes, hdomains, hparam, haddress, hstride, hkv, ⟨s1, s0, hpin, hpinw, hclean⟩, hread⟩ := h
  subst hsrcs
  simp only [vxRun, hfield, htypes, hdomains, hparam, haddress, hstride, hkv, hpin, hpinw, hclean, hread, hw, need_true,
    eng_ok_bind]

open Claims in
/-- A command that is `vxRun` of a form and a body ends so whenever it is ready (R236). -/
theorem vxEnds_of_run {i : Instr} {s : State} {p : Nat} {cmd : EngineCmd} {f : EngineCmd → VxForm}
    {body : EngineCmd → Rec → List Operand → VxOut}
    (hi : exec i s = vxCommand s p fun c => vxRun s p c (f c) (body c)) (h : Executes s p 1 cmd) :
    VxEnds i s p cmd (f cmd) (body cmd) := fun _ _ _ _ hr hw =>
  vx_ends (op := fun c => vxRun s p c (f c) (body c)) hi h (vxRun_ready hr hw)

end Sys2Proof.Machine

section

open Sys2Proof Sys2Proof.Machine Sys2Proof.Claims

/-- Settles O42: each of the nine is `vxRun` of its form and its operation. -/
theorem vectorTileCommandsResults : Obligations.VectorTileCommandsResults := by
  intro s p cmd a d h ha hd
  subst ha hd
  exact ⟨vxEnds_of_run (exec_vtmap ..) h, vxEnds_of_run (exec_vtbin ..) h, vxEnds_of_run (exec_vtred ..) h,
    vxEnds_of_run (exec_vtsmax ..) h, vxEnds_of_run (exec_vtnorm ..) h, vxEnds_of_run (exec_vtcvt ..) h,
    vxEnds_of_run (exec_vthaar ..) h, vxEnds_of_run (exec_vtihaar ..) h, vxEnds_of_run (exec_vtconf ..) h⟩

end


/-! ## VTKV, reserved commands, stalled commands and operand faults (spec/06 R213, R246; spec/17 R399) -/

namespace Sys2Proof.Machine

/-! ### VTKV -/

theorem engKvLoad_ok {s s1 s2 s3 s4 s5 s6 : State} {p : Nat} {cmd : EngineCmd} {r : Rec} {k : KvSel} {d : KvDesc}
    {ls : List (Nat × Nat)} {h : BitVec 32} {spans : List Span} {ws : List Write}
    (hc : kvChecks s p cmd false = .ok (s1, r, k, d)) (h2 : pinReads s1 p cmd (stateSpans d k) = .ok s2)
    (hl : kvLayers p cmd d k (cleanStates s2 p cmd d k) s2 = .ok (s3, ls, true))
    (hspans : spans = ls.map fun x => d.rowSpan k x.2 (k.tok + x.1)) (h4 : pinReads s3 p cmd spans = .ok s4)
    (h5 : cleanReads s4 p cmd (kvSpan cmd ++ recordSpan (vxRecord cmd) ++ stateSpans d k ++ spans) = .ok s5)
    (h6 : kvHandle s5 p cmd d k ls = .ok (s6, h))
    (hws : ws = spans.zipIdx.map fun x =>
      ((descOf (cmd.d 3)).addr + 32 * (descOf (cmd.d 3)).stride * x.2, x.1.2, engReadNow s6 p cmd x.1))
    (hw : cleanWrites s6 p cmd (ws.map fun w => (w.1, w.2.1)) = .ok ()) :
    engKvLoad s p cmd = .ok (engWrite s6 p cmd [] ws,
      { shade := 15, aux := (ls.filter fun x => x.2 != k.layer).length,
        standin := (ls.filter fun x => x.2 != k.layer).length != 0, handle := h }) := by
  subst hspans hws
  simp only [engKvLoad, hc, h2, hl, h4, h5, h6, hw, need_true, eng_ok_bind]

/-- The rows of a plain tile are stored as they are (R246). -/
theorem kvStoreRows_plain {s : State} {p : Nat} {cmd : EngineCmd} {t : Desc} {r : Rec} {rows : List Span} {vs : List Nat}
    {fl : BitVec 8} {shade : Nat} (ht : t.dom = 0) (h : kvStoreRows s p cmd t r rows = .ok (vs, fl, shade)) :
    vs = rows.map (engRead s p cmd) := by
  simp only [kvStoreRows, ht, if_true, Except.ok.injEq, Prod.mk.injEq] at h
  exact h.1.symm

theorem engKvStore_ok {s s1 s2 s3 : State} {p : Nat} {cmd : EngineCmd} {r : Rec} {k : KvSel} {d : KvDesc} {states : List Span}
    {vs : List Nat} {fl : BitVec 8} {shade : Nat} (hc : kvChecks s p cmd true = .ok (s1, r, k, d))
    (hst : states = if bitN cmd.flg 2 then stateSpans d k else [])
    (h2 : pinWrites s1 p cmd (kvRows d k ++ states) = .ok s2)
    (h3 : cleanReads s2 p cmd (kvSpan cmd ++ recordSpan (vxRecord cmd) ++
      operandSpans s2 p cmd (descOf (cmd.d 1)) ((descOf (cmd.d 1)).rows 32 (rowBytes (descOf (cmd.d 1)).dtype))) = .ok s3)
    (hw : cleanWrites s3 p cmd (kvRows d k ++ states) = .ok ())
    (hv : kvStoreRows s3 p cmd (descOf (cmd.d 1)) r ((descOf (cmd.d 1)).rows 32 (rowBytes (descOf (cmd.d 1)).dtype)) =
      .ok (vs, fl, shade)) :
    engKvStore s p cmd = .ok (engWrite s3 p cmd states
        ((vs.zip (kvRows d k)).map (fun x => (x.2.1, x.2.2, x.1)) ++ states.map fun x => (x.1, 1, 1)),
      { shade := shade, flags := fl }) := by
  subst hst
  simp only [engKvStore, hc, h2, h3, hw, hv, eng_ok_bind]

/-! ### Completion, and a trap that is owed -/

/-- A command without a future action whose element finds room enters it (R220, R223). -/
theorem complete_enters {s : State} {p e : Nat} {cmd : EngineCmd} {x : BitVec 64} {h : BitVec 32}
    (hroom : (engineAt (coreAt s p) e).fifo.length < 8) (hw : writesWaiting s (engineAgent p e) = false)
    (hf : cmd.fut = 0) : complete s p e cmd x h = enterElement s p e cmd x h := by
  have hgo : ¬ (decide (8 ≤ (engineAt (coreAt s p) e).fifo.length) || writesWaiting s (engineAgent p e)) = true := by
    simp [hroom, hw]
  simp only [complete, if_neg hgo, onFuture, hf, if_true]

/-- A strand parked where nothing but the end of its wait may wake it. -/
def HeldPark (w : Park) : Prop := (∃ va n, w = .fault va n) ∨ w = .repack ∨ ∃ n, w = .device n

/-- A strand that owes a trap is not woken out of a page fault, a repack or a device register (R105, R180, R316). -/
theorem oweTrap_held {s : State} {k cause : Nat} {val : BitVec 64} {w : Park} (hr : (strandAt s k).run = .parked w)
    (hw : HeldPark w) : oweTrap s k cause val =
      setStrand s k { strandAt s k with pend := (strandAt s k).pend ++ [(BitVec.ofNat 8 cause, val)] } := by
  rcases hw with ⟨va, n, rfl⟩ | rfl | ⟨n, rfl⟩ <;> simp only [oweTrap, hr]

/-- Any other strand that does not wait for a reply is woken to take the trap (R180, R399). -/
theorem oweTrap_woken {s : State} {k cause : Nat} {val : BitVec 64} (hw : ∀ w, HeldPark w → (strandAt s k).run ≠ .parked w)
    (hr : (strandAt s k).run ≠ .parked .reply) : oweTrap s k cause val =
      wake (setStrand s k { strandAt s k with pend := (strandAt s k).pend ++ [(BitVec.ofNat 8 cause, val)] }) k := by
  unfold oweTrap
  dsimp only
  split
  · next va n h => exact absurd h (hw _ (.inl ⟨va, n, rfl⟩))
  · next h => exact absurd h (hw _ (.inr (.inl rfl)))
  · next n h => exact absurd h (hw _ (.inr (.inr ⟨n, rfl⟩)))
  · next h => exact absurd h hr
  · rfl

/-- The event of an operand fault is the debt of an ENGINE trap (R399). -/
theorem execEngineFaultTrap_live {s : State} {k : Nat} {val : BitVec 64} {t : Strand} (ht : tget s.strands k = some t) :
    execEngineFaultTrap k val s = .next (keepHub s (oweTrap s k cENGINE val)) := by
  simp only [execEngineFaultTrap, ht, done_eq]

end Sys2Proof.Machine

section

open Sys2Proof Sys2Proof.Machine Sys2Proof.Claims

/-- Settles O43: the operations of VTKV by their steps, the reserved command by `complete`, the operand fault by the cases of
what its strand waits for. -/
theorem keyValueReservedAndStoppedCommands : Obligations.KeyValueReservedAndStoppedCommands := by
  intro s p e cmd t s1 s2 s3 s4 s5 s6 r k d ls h spans states ws vs fl shade st key val
  refine ⟨fun hx => ⟨fun ht hc h2 hl hspans h4 h5 h6 hws hw => ?_, fun ht hc hspans hst h2 h3 hw hv => ⟨fun hdom => ?_, ?_⟩,
    fun hstall => ?_⟩, fun hx hroom hf hw => ?_, fun hst hs1 => ?_⟩
  · subst ht
    exact vx_ends (op := engKvLoad s p) (exec_vtkvLoad ..) hx (engKvLoad_ok hc h2 hl hspans h4 h5 h6 hws hw)
  · exact kvStoreRows_plain hdom hv
  · subst ht hspans
    exact vx_ends (op := engKvStore s p) (exec_vtkvStore ..) hx (engKvStore_ok hc hst h2 h3 hw hv)
  · obtain ⟨pa, hpa⟩ := Option.isSome_iff_exists.mp hstall
    have hex : (coreAt s p).vx.executing = some cmd := hx.executing
    simp only [exec_vtkvEntryWake, execVtkvEntryWake, hpa, hex, done_eq]
  · rw [exec_reservedCommand, execReservedCommand, runCommand_executes hx]
    simp only [concluded, complete_enters hroom hw hf, Bool.or_eq_true, bne_iff_ne, Bool.not_eq_true']
  · have hat : strandAt s key = st := by simp only [strandAt, tgetD, hst, Option.getD_some]
    rw [exec_engineFaultTrap, execEngineFaultTrap_live hst]
    subst hs1
    refine ⟨fun hheld => ?_, fun hreply => ?_, fun hf hrep hdev hreply => ?_⟩
    · obtain ⟨w, hrun, hw⟩ : ∃ w, st.run = .parked w ∧ HeldPark w := by
        rcases hheld with ⟨va, n, hr⟩ | hr | ⟨n, hr⟩
        · exact ⟨_, hr, .inl ⟨va, n, rfl⟩⟩
        · exact ⟨_, hr, .inr (.inl rfl)⟩
        · exact ⟨_, hr, .inr (.inr ⟨n, rfl⟩)⟩
      rw [oweTrap_held (by rw [hat]; exact hrun) hw, hat]
      rfl
    · simp only [oweTrap, hat, hreply]
      rfl
    · rw [oweTrap_woken ?_ (by rw [hat]; exact hreply), hat]
      · rfl
      · rw [hat]
        rintro w (⟨va, n, rfl⟩ | rfl | ⟨n, rfl⟩)
        · exact hf va n
        · exact hrep
        · exact hdev n

end


/-! ## Copies (spec/05 R188; spec/06 R250-R253, R272, R273; spec/14 R379; spec/17 R401) -/

namespace Sys2Proof.Machine

/-- A step of a chunk that goes on. -/
theorem cx_ok_bind {α β : Type} (a : α) (f : α → Cx β) : ((Except.ok a : Cx α) >>= f) = f a := rfl

theorem keepHub_congr {s t : State} (h : t.hub = s.hub) (x : State) : keepHub t x = keepHub s x := by
  rw [keepHub, keepHub, h]

open Claims in
/-- The event of every mode begins the copy. -/
theorem exec_modeEvent (s : State) (p id : Nat) : ∀ m, exec (modeEvent p id m) s = startCopy s p id
  | 0 | 1 | 2 | 3 | 4 | 5 | 6 => rfl
  | _ + 7 => rfl

theorem startCopy_live {s : State} {p id : Nat} {c : Copy} (hc : tget (coreAt s p).copies id = some c) :
    startCopy s p id = .next (keepHub s (if copyStatus s c != 0 then endCopy s p id c (copyStatus s c)
      else addEvent s (if c.mode = 7 then .tableSlotWrite p id else .copyChunk p id))) := by
  simp only [startCopy, hc, done_eq]

/-- A chunk of a copy that runs, is not held and can be moved (R401). -/
theorem execCopyChunk_moved {s s1 : State} {p id : Nat} {c c1 : Copy} {last : Bool}
    (hc : tget (coreAt s p).copies id = some c) (hst : c.status = none) (hf : c.fault = none)
    (hp : copyPaused s c = false) (h : oneChunk s p id c = .ok (s1, c1, last)) :
    execCopyChunk p id s = .next (keepHub s (if last then endCopy s1 p id c1 0
      else addEvent (setCopy s1 p id c1) (.copyChunk p id))) := by
  have hgo : ¬ (c.status.isSome || c.fault.isSome) = true := by simp [hst, hf]
  have hrun : ¬ copyPaused s c = true := by simp [hp]
  cases last <;> simp only [execCopyChunk, hc, if_neg hgo, if_neg hrun, h, done_eq] <;> rfl

/-- A chunk of a REDUCE that passes its checks (R251, R272, R273). -/
theorem oneChunk_reduce {s s1 s2 : State} {p id dst n v : Nat} {c c2 : Copy} {ds : List (List Part)} (hm : c.mode = 6)
    (hdst : dst = (c.dst + c.off) % 2 ^ 48) (hdim : c.esize ≤ c.dim 0)
    (hn : n = Nat.min (c.dim 0 / c.esize * c.esize - c.off)
      (Nat.min (4096 - dst % 4096) (4096 - (c.src % 2 ^ 17 + c.off) % 4096)))
    (hpin : pinSides p c n s [.virt dst] = .ok (s1, ds))
    (hgood : participantBad s1 c (c.src % 2 ^ 17 + c.off) n = false)
    (hroute : ∀ x ∈ c.modules, x = selfWord s c.lid ∨ routeOk s c.lid x = true)
    (hv : v = packList (8 * c.esize) ((List.range (n / c.esize)).map fun i =>
      reduceElem (Config.draw s1.tick i) c (c.modules.flatMap fun m =>
        c.cores.map fun l => participant s1 c (c.src % 2 ^ 17 + c.off + c.esize * i) m l)))
    (hw : copyWrite s1 p id c v ds = (s2, c2)) :
    oneChunk s p id c = .ok (s2, { c2 with bytes := c2.bytes + n, off := c2.off + n },
      c2.off + n == c.dim 0 / c.esize * c.esize) := by
  have hpiece : reducePiece c = (.virt dst, n) := by
    subst hdst hn
    rfl
  have hall : (c.modules.all fun x => x == selfWord s c.lid || routeOk s c.lid x) = true := by
    simpa [List.all_eq_true] using hroute
  have hchunk : reduceChunk s p id c = .ok (s2, { c2 with bytes := c2.bytes + n, off := c2.off + n }) := by
    subst hv
    simp only [reduceChunk, hpiece, hpin, cx_ok_bind, hall, hgood, hw, Bool.not_true, Bool.false_eq_true, if_false]
  rw [oneChunk, if_pos hm, if_neg (Nat.not_lt.mpr hdim), hchunk]
  rfl

/-- A slot of a TABLE that can be written now is written and full in one step (R250, R379). -/
theorem execTableSlotWrite_written {s s1 : State} {p id : Nat} {c c2 : Copy} {ps : List Part}
    (hc : tget (coreAt s p).copies id = some c) (hst : c.status = none) (hf : c.fault = none)
    (hempty : tableWaits s p c = false) (hgo : copyPaused s c = false ∨ tableInFlight c = true)
    (hparts : tableParts s p c = .ok (s1, c2, ps)) (hgood : partsPoisoned s1 ps = false) :
    execTableSlotWrite p id s = .next (keepHub s (
      let s2 := countParts s1 (clusterOf p) c2.asid ps false
      let s3 := modCore s2 p fun x => { x with
        tstore := tset x.tstore ((c.dst + c.run) % 16) ⟨BitVec.ofNat 128 (copyRead s2 c2 ps), true⟩,
        badSlots := x.badSlots.filter (· != (c.dst + c.run) % 16) }
      let c3 : Copy := { c2 with run := c2.run + 1, bytes := c2.bytes + 16 }
      let c1 : Copy := if tableInFlight c3 then c3 else { c3 with held := none }
      let s4 := slotFilled (setCopy s3 p id c1) p
      if c1.run = c2.dim 0 / 16 then endCopy s4 p id c1 0 else addEvent s4 (.tableSlotWrite p id))) := by
  have hrun : ¬ (c.status.isSome || c.fault.isSome) = true := by simp [hst, hf]
  have hnow : ¬ (tableWaits s p c || (copyPaused s c && !(tableInFlight c))) = true := by
    rcases hgo with h | h <;> simp [hempty, h]
  simp only [execTableSlotWrite, hc, if_neg hrun, if_neg hnow, hparts, hgood, Bool.false_eq_true, if_false, done_eq]

end Sys2Proof.Machine

section

open Sys2Proof Sys2Proof.Machine Sys2Proof.Claims

/-- Settles O44: a copy's events by what they find, chunks and slots by their lemmas, the COPY message as a delivery. -/
theorem copiesMoveAndComplete : Obligations.CopiesMoveAndComplete := by
  intro s s1 s2 s3 p id c c1 c2 c3 last ps ds i n v dst total hc
  refine ⟨⟨fun h => ?_, fun h => ?_⟩, fun hst hf => ⟨fun hp hone => ?_, fun hm ht hdst hdim hn hpin hgood hroute hv hw => ?_,
    fun hm hdim hp => ?_, fun hi he hgo hparts hgood h3 h1 hs2 hs3 => ?_⟩, fun hw hs2 => ⟨fun hfull => ?_,
    fun hroom hv harr => ?_⟩⟩
  · rw [exec_modeEvent, startCopy_live hc, h]
    rfl
  · rw [exec_modeEvent, startCopy_live hc, if_pos (by simpa using h)]
  · exact execCopyChunk_moved hc hst hf hp hone
  · subst ht
    exact oneChunk_reduce hm hdst hdim hn hpin hgood hroute hv hw
  · exact execCopyChunk_moved hc hst hf hp (by rw [oneChunk, if_pos hm, if_pos hdim])
  · have hempty : tableWaits s p c = false := by
      unfold tableWaits
      subst hi
      rcases he with h | h <;> simp only [h, Bool.and_false, Nat.reduceBEq, Bool.false_and]
    subst hi h1 h3 hs3 hs2
    exact execTableSlotWrite_written hc hst hf hempty hgo hparts hgood
  · subst hs2
    simp only [exec_copyComplete, execCopyComplete, hc, hw, Bool.false_eq_true, if_false, if_pos hfull]
    rfl
  · subst hs2 hv
    simp only [exec_copyComplete, execCopyComplete, hc, hw, Bool.false_eq_true, if_false, if_neg (Nat.not_le.mpr hroom)]
    rw [deliver_arrives harr, done_eq, keepHub_congr (wakeWhere_hub s _)]

end
